-- ==== Sys2Proof/Word.lean ====
section
/-! DEFINITION. The words, names and small numbers of the TD4-384 (spec/00_scope.md R3, R9; spec/01_device.md R10-R19). -/

namespace Sys2Proof

/-- A 64-bit register or memory word. -/
abbrev Word := BitVec 64
/-- A byte. -/
abbrev Byte := BitVec 8
/-- One row of an accumulator tile (R137, R138). -/
abbrev Row := BitVec 32768
/-- A die of the package (R10). -/
abbrev DieId := Fin 4
/-- A logical core within its die, 8 x grove + core (R13). -/
abbrev CoreId := Fin 64
/-- A grove of a die. -/
abbrev GroveId := Fin 8
/-- A job slot of a core (R14). -/
abbrev SlotId := Fin 2
/-- A job record of a die (R207). -/
abbrev RecId := Fin 128

/-- The five engines of a core in index order (R14). -/
inductive Engine where
  | c | a | t | m | v
  deriving DecidableEq, Repr

/-- The engine's index (R14). -/
def Engine.idx : Engine → Fin 5
  | .c => 0 | .a => 1 | .t => 2 | .m => 3 | .v => 4

/-- The engine of an index (R14). -/
def Engine.ofIdx (n : Nat) : Option Engine :=
  if n = 0 then some .c else if n = 1 then some .a else if n = 2 then some .t
  else if n = 3 then some .m else if n = 4 then some .v else none

/-- The streams a word may reach: the five engines and the system core (R82, R88). -/
inductive Issuer where
  | eng (e : Engine) | sys
  deriving DecidableEq, Repr

/-- The stream a running word belongs to: an engine of a job slot, or a die's system core. -/
inductive Who where
  | eng (d : DieId) (c : CoreId) (k : SlotId) (e : Engine)
  | sys (d : DieId)
  deriving DecidableEq, Repr

/-- The kind of stream, as decoding sees it. -/
def Who.issuer : Who → Issuer
  | .eng _ _ _ e => .eng e
  | .sys _ => .sys

/-- The header of an instruction word: IDLE, SW, TKP, TKS (R75). -/
structure Hdr where
  idle : BitVec 10
  sw : Bool
  tkp : BitVec 4
  tks : BitVec 4
  deriving DecidableEq, Repr

/-- The guard field of a layout that has one: P and PN (R78). -/
structure Guard where
  p : BitVec 3
  pn : Bool
  deriving DecidableEq, Repr

/-- The class of a W1024 element (R57). -/
inductive Cls where
  | fin | pinf | ninf | nan
  deriving DecidableEq, Repr

/-- Sign extension to 64 bits. -/
def sx64 {n : Nat} (v : BitVec n) : Word := v.signExtend 64
/-- Zero extension to 64 bits. -/
def zx64 {n : Nat} (v : BitVec n) : Word := v.zeroExtend 64
/-- The bits h down to l of a word, as a number (R73). -/
def bits {n : Nat} (v : BitVec n) (h l : Nat) : Nat := (v.extractLsb' l (h + 1 - l)).toNat
/-- Quotient rounded up. -/
def cdiv (a b : Nat) : Nat := (a + b - 1) / b

end Sys2Proof
end

