-- ==== Sys2Proof/Syntax.lean ====
section
/-! DEFINITION. The abstract syntax of the TD4-384: one constructor per row of spec/opcode_table.json.
The first 193 are instruction words (spec/04_encoding.md R75-R95): a word's header, its guard where its layout has one, and its
operand fields in descending bit order, zero fields left out. The other 86 are the machine's own steps
(spec/95_what_each_step_holds.md), with what the outside world contributes to each as arguments (notes/assumptions/4.md, 5.md). -/

namespace Sys2Proof

/-- What a remote packet asks of this package (R239, R365, R406): addresses are device physical addresses (R401). -/
inductive PacketBody where
  /-- a load of n bytes -/
  | load (addr n : Nat)
  /-- a store of bytes, poisoned or clean (R259) -/
  | store (addr : Nat) (data : List Byte) (poison : Bool)
  /-- an atomic: its opcode less 0x079, or 9 and the element format for SCADD; size code, operand, and the comparand, or for the floating and
  element adds the rounding mode times 8 and the element's first bit; whether an element add's operand is poisoned -/
  | atomic (op : BitVec 5) (addr : Nat) (size : BitVec 2) (s cmp : Word) (poison : Bool)
  /-- a message-port credit request for queue q of a core -/
  | credit (die : DieId) (core : CoreId) (q : Fin 4) (slot : Nat)
  /-- an append: generation, prefix and payload as they are stored -/
  | append (die : DieId) (core : CoreId) (q : Fin 4) (gen : BitVec 8) (slot : Nat) (entry : List Byte)
  /-- the answer to a credit request of a slot (asked), a credit that returns to it, or none for
  an append it refuses: target, generation, entry size, credits; size 0: refused with MQ_BAD -/
  | grant (die : DieId) (core : CoreId) (slot : Nat) (tgt : Word) (gen : BitVec 8) (esz n : Nat) (asked : Bool)
  /-- credits of a generation given back to their queue -/
  | back (die : DieId) (core : CoreId) (q : Fin 4) (gen : BitVec 8) (n : Nat)
  deriving DecidableEq, Repr

/-- A packet arriving at an ingress port: its source, key, the incarnation its mapping was made for, and its body. -/
structure Packet where
  src : BitVec 13
  key : BitVec 16
  incarn : BitVec 16
  body : PacketBody
  deriving DecidableEq, Repr

/-- The rows of spec/opcode_table.json. -/
inductive Instr where
  | nop (h : Hdr)
  | prep (h : Hdr) (b : BitVec 2) (off24 : BitVec 24)
  | prepr (h : Hdr) (b : BitVec 2) (s : BitVec 5)
  | br (h : Hdr) (g : Guard) (b : BitVec 2)
  | brl (h : Hdr) (g : Guard) (b : BitVec 2)
  | loop (h : Hdr) (l : BitVec 2) (s : BitVec 5) (end16 : BitVec 16)
  | loopi (h : Hdr) (l : BitVec 2) (cnt18 : BitVec 18) (end16 : BitVec 16)
  | lbrk (h : Hdr) (g : Guard) (l : BitVec 2)
  | endw (h : Hdr)
  | hold (h : Hdr) (g : Guard) (cyc24 : BitVec 24)
  | trap (h : Hdr) (g : Guard) (code16 : BitVec 16) (n : BitVec 3)
  | mark (h : Hdr) (g : Guard) (tag16 : BitVec 16)
  | tksend (h : Hdr) (eng : BitVec 3) (cnt : BitVec 4)
  | tkwait (h : Hdr) (eng : BitVec 3) (cnt : BitVec 4)
  | qpop (h : Hdr) (g : Guard) (d : BitVec 5) (q : BitVec 4) (size : BitVec 3)
  | qpush (h : Hdr) (g : Guard) (s : BitVec 5) (q : BitVec 4) (size : BitVec 3)
  | waitv (h : Hdr) (kind : BitVec 4) (index : BitVec 12) (cond : BitVec 2) (mode : Bool) (arg : BitVec 17)
  | tsread (h : Hdr) (g : Guard) (d : BitVec 5)
  | csrr (h : Hdr) (g : Guard) (d : BitVec 5) (csrn : BitVec 12)
  | csrw (h : Hdr) (g : Guard) (s : BitVec 5) (csrn : BitVec 12)
  | csrx (h : Hdr) (g : Guard) (d : BitVec 5) (s : BitVec 5) (csrn : BitVec 12)
  | add (h : Hdr) (g : Guard) (d : BitVec 5) (s1 : BitVec 5) (s2 : BitVec 5)
  | sub (h : Hdr) (g : Guard) (d : BitVec 5) (s1 : BitVec 5) (s2 : BitVec 5)
  | mul (h : Hdr) (g : Guard) (d : BitVec 5) (s1 : BitVec 5) (s2 : BitVec 5)
  | mulh (h : Hdr) (g : Guard) (d : BitVec 5) (s1 : BitVec 5) (s2 : BitVec 5)
  | mulhu (h : Hdr) (g : Guard) (d : BitVec 5) (s1 : BitVec 5) (s2 : BitVec 5)
  | div (h : Hdr) (g : Guard) (d : BitVec 5) (s1 : BitVec 5) (s2 : BitVec 5)
  | divu (h : Hdr) (g : Guard) (d : BitVec 5) (s1 : BitVec 5) (s2 : BitVec 5)
  | rem (h : Hdr) (g : Guard) (d : BitVec 5) (s1 : BitVec 5) (s2 : BitVec 5)
  | remu (h : Hdr) (g : Guard) (d : BitVec 5) (s1 : BitVec 5) (s2 : BitVec 5)
  | and (h : Hdr) (g : Guard) (d : BitVec 5) (s1 : BitVec 5) (s2 : BitVec 5)
  | or (h : Hdr) (g : Guard) (d : BitVec 5) (s1 : BitVec 5) (s2 : BitVec 5)
  | xor (h : Hdr) (g : Guard) (d : BitVec 5) (s1 : BitVec 5) (s2 : BitVec 5)
  | shl (h : Hdr) (g : Guard) (d : BitVec 5) (s1 : BitVec 5) (s2 : BitVec 5)
  | shr (h : Hdr) (g : Guard) (d : BitVec 5) (s1 : BitVec 5) (s2 : BitVec 5)
  | sar (h : Hdr) (g : Guard) (d : BitVec 5) (s1 : BitVec 5) (s2 : BitVec 5)
  | min (h : Hdr) (g : Guard) (d : BitVec 5) (s1 : BitVec 5) (s2 : BitVec 5)
  | minu (h : Hdr) (g : Guard) (d : BitVec 5) (s1 : BitVec 5) (s2 : BitVec 5)
  | max (h : Hdr) (g : Guard) (d : BitVec 5) (s1 : BitVec 5) (s2 : BitVec 5)
  | maxu (h : Hdr) (g : Guard) (d : BitVec 5) (s1 : BitVec 5) (s2 : BitVec 5)
  | sel (h : Hdr) (g : Guard) (d : BitVec 5) (s1 : BitVec 5) (s2 : BitVec 5) (sp : BitVec 3)
  | clz (h : Hdr) (g : Guard) (d : BitVec 5) (s1 : BitVec 5)
  | ctz (h : Hdr) (g : Guard) (d : BitVec 5) (s1 : BitVec 5)
  | popc (h : Hdr) (g : Guard) (d : BitVec 5) (s1 : BitVec 5)
  | addi (h : Hdr) (g : Guard) (d : BitVec 5) (s1 : BitVec 5) (imm22 : BitVec 22)
  | andi (h : Hdr) (g : Guard) (d : BitVec 5) (s1 : BitVec 5) (imm22 : BitVec 22)
  | ori (h : Hdr) (g : Guard) (d : BitVec 5) (s1 : BitVec 5) (imm22 : BitVec 22)
  | xori (h : Hdr) (g : Guard) (d : BitVec 5) (s1 : BitVec 5) (imm22 : BitVec 22)
  | shli (h : Hdr) (g : Guard) (d : BitVec 5) (s1 : BitVec 5) (sh : BitVec 6)
  | shri (h : Hdr) (g : Guard) (d : BitVec 5) (s1 : BitVec 5) (sh : BitVec 6)
  | sari (h : Hdr) (g : Guard) (d : BitVec 5) (s1 : BitVec 5) (sh : BitVec 6)
  | muli (h : Hdr) (g : Guard) (d : BitVec 5) (s1 : BitVec 5) (imm22 : BitVec 22)
  | movi (h : Hdr) (d : BitVec 5) (imm31 : BitVec 31)
  | movhi (h : Hdr) (d : BitVec 5) (imm31 : BitVec 31)
  | ceq (h : Hdr) (g : Guard) (pd : BitVec 3) (s1 : BitVec 5) (s2 : BitVec 5)
  | cne (h : Hdr) (g : Guard) (pd : BitVec 3) (s1 : BitVec 5) (s2 : BitVec 5)
  | clt (h : Hdr) (g : Guard) (pd : BitVec 3) (s1 : BitVec 5) (s2 : BitVec 5)
  | cltu (h : Hdr) (g : Guard) (pd : BitVec 3) (s1 : BitVec 5) (s2 : BitVec 5)
  | cle (h : Hdr) (g : Guard) (pd : BitVec 3) (s1 : BitVec 5) (s2 : BitVec 5)
  | cleu (h : Hdr) (g : Guard) (pd : BitVec 3) (s1 : BitVec 5) (s2 : BitVec 5)
  | ceqi (h : Hdr) (g : Guard) (pd : BitVec 3) (s1 : BitVec 5) (imm22 : BitVec 22)
  | cnei (h : Hdr) (g : Guard) (pd : BitVec 3) (s1 : BitVec 5) (imm22 : BitVec 22)
  | clti (h : Hdr) (g : Guard) (pd : BitVec 3) (s1 : BitVec 5) (imm22 : BitVec 22)
  | cgei (h : Hdr) (g : Guard) (pd : BitVec 3) (s1 : BitVec 5) (imm22 : BitVec 22)
  | pand (h : Hdr) (g : Guard) (pd : BitVec 3) (ps1 : BitVec 3) (ps2 : BitVec 3)
  | por (h : Hdr) (g : Guard) (pd : BitVec 3) (ps1 : BitVec 3) (ps2 : BitVec 3)
  | pxor (h : Hdr) (g : Guard) (pd : BitVec 3) (ps1 : BitVec 3) (ps2 : BitVec 3)
  | pandn (h : Hdr) (g : Guard) (pd : BitVec 3) (ps1 : BitVec 3) (ps2 : BitVec 3)
  | pset (h : Hdr) (g : Guard) (pd : BitVec 3) (s1 : BitVec 5)
  | pget (h : Hdr) (g : Guard) (d : BitVec 5) (ps1 : BitVec 3)
  | fadd (h : Hdr) (g : Guard) (d : BitVec 5) (s1 : BitVec 5) (s2 : BitVec 5) (fmt2 : BitVec 2)
  | fsub (h : Hdr) (g : Guard) (d : BitVec 5) (s1 : BitVec 5) (s2 : BitVec 5) (fmt2 : BitVec 2)
  | fmul (h : Hdr) (g : Guard) (d : BitVec 5) (s1 : BitVec 5) (s2 : BitVec 5) (fmt2 : BitVec 2)
  | ffma (h : Hdr) (g : Guard) (d : BitVec 5) (s1 : BitVec 5) (s2 : BitVec 5) (fmt2 : BitVec 2) (s3 : BitVec 5)
  | fmin (h : Hdr) (g : Guard) (d : BitVec 5) (s1 : BitVec 5) (s2 : BitVec 5) (fmt2 : BitVec 2)
  | fmax (h : Hdr) (g : Guard) (d : BitVec 5) (s1 : BitVec 5) (s2 : BitVec 5) (fmt2 : BitVec 2)
  | fcvt (h : Hdr) (g : Guard) (d : BitVec 5) (s1 : BitVec 5) (from5 : BitVec 5) (to5 : BitVec 5) (rnd : BitVec 3) (sat : Bool) (fin : Bool)
  | fceq (h : Hdr) (g : Guard) (pd : BitVec 3) (s1 : BitVec 5) (s2 : BitVec 5) (fmt2 : BitVec 2)
  | fclt (h : Hdr) (g : Guard) (pd : BitVec 3) (s1 : BitVec 5) (s2 : BitVec 5) (fmt2 : BitVec 2)
  | fcle (h : Hdr) (g : Guard) (pd : BitVec 3) (s1 : BitVec 5) (s2 : BitVec 5) (fmt2 : BitVec 2)
  | ldq (h : Hdr) (g : Guard) (q : BitVec 4) (base : BitVec 5) (len : BitVec 5) (off18 : BitVec 18)
  | ldsq (h : Hdr) (g : Guard) (q : BitVec 4) (base : BitVec 5) (shape : BitVec 5) (stride : BitVec 5)
  | stq (h : Hdr) (g : Guard) (q : BitVec 4) (base : BitVec 5) (len : BitVec 5) (off18 : BitVec 18)
  | stsq (h : Hdr) (g : Guard) (q : BitVec 4) (base : BitVec 5) (shape : BitVec 5) (stride : BitVec 5)
  | ldx (h : Hdr) (g : Guard) (d : BitVec 5) (base : BitVec 5) (size : BitVec 2) (sx : Bool) (off19 : BitVec 19)
  | stx (h : Hdr) (g : Guard) (s : BitVec 5) (base : BitVec 5) (size : BitVec 2) (off19 : BitVec 19)
  | gather (h : Hdr) (g : Guard) (dq : BitVec 4) (iq : BitVec 4) (tensor : BitVec 6) (cnt : BitVec 5) (isz : BitVec 2)
  | scatter (h : Hdr) (g : Guard) (dq : BitVec 4) (iq : BitVec 4) (tensor : BitVec 6) (cnt : BitVec 5) (isz : BitVec 2)
  | scadd (h : Hdr) (g : Guard) (dq : BitVec 4) (iq : BitVec 4) (tensor : BitVec 6) (cnt : BitVec 5) (isz : BitVec 2)
  | aadd (h : Hdr) (g : Guard) (d : BitVec 5) (base : BitVec 5) (s : BitVec 5) (size : BitVec 2) (scope : BitVec 3) (off12 : BitVec 12)
  | amin (h : Hdr) (g : Guard) (d : BitVec 5) (base : BitVec 5) (s : BitVec 5) (size : BitVec 2) (scope : BitVec 3) (off12 : BitVec 12)
  | amax (h : Hdr) (g : Guard) (d : BitVec 5) (base : BitVec 5) (s : BitVec 5) (size : BitVec 2) (scope : BitVec 3) (off12 : BitVec 12)
  | aand (h : Hdr) (g : Guard) (d : BitVec 5) (base : BitVec 5) (s : BitVec 5) (size : BitVec 2) (scope : BitVec 3) (off12 : BitVec 12)
  | aor (h : Hdr) (g : Guard) (d : BitVec 5) (base : BitVec 5) (s : BitVec 5) (size : BitVec 2) (scope : BitVec 3) (off12 : BitVec 12)
  | axor (h : Hdr) (g : Guard) (d : BitVec 5) (base : BitVec 5) (s : BitVec 5) (size : BitVec 2) (scope : BitVec 3) (off12 : BitVec 12)
  | axchg (h : Hdr) (g : Guard) (d : BitVec 5) (base : BitVec 5) (s : BitVec 5) (size : BitVec 2) (scope : BitVec 3) (off12 : BitVec 12)
  | acas (h : Hdr) (g : Guard) (d : BitVec 5) (base : BitVec 5) (s : BitVec 5) (size : BitVec 2) (scope : BitVec 3) (off12 : BitVec 12)
  | afadd (h : Hdr) (g : Guard) (d : BitVec 5) (base : BitVec 5) (s : BitVec 5) (size : BitVec 2) (scope : BitVec 3) (off12 : BitVec 12)
  | rprobe (h : Hdr) (g : Guard) (d : BitVec 5) (base : BitVec 5) (len : BitVec 5) (kind : BitVec 2)
  | lock (h : Hdr) (g : Guard) (d : BitVec 5) (base : BitVec 5) (len : BitVec 5)
  | unlock (h : Hdr) (g : Guard) (d : BitVec 5) (base : BitVec 5) (len : BitVec 5)
  | rwb (h : Hdr) (g : Guard) (base : BitVec 5) (len : BitVec 5) (scope : BitVec 3) (level : BitVec 2)
  | rinv (h : Hdr) (g : Guard) (base : BitVec 5) (len : BitVec 5) (scope : BitVec 3) (level : BitVec 2)
  | ubdisc (h : Hdr) (g : Guard) (base : BitVec 5) (len : BitVec 5) (scope : BitVec 3) (level : BitVec 2)
  | pref (h : Hdr) (g : Guard) (base : BitVec 5) (len : BitVec 5) (scope : BitVec 3) (level : BitVec 2)
  | msend (h : Hdr) (g : Guard) (q : BitVec 4) (tgt : BitVec 5) (bytes : BitVec 5)
  | acq (h : Hdr) (scope : BitVec 3)
  | rel (h : Hdr) (scope : BitVec 3)
  | phase (h : Hdr) (scope : BitVec 3)
  | tdef (h : Hdr) (g : Guard) (tensor : BitVec 6) (s : BitVec 5)
  | xcopy (h : Hdr) (g : Guard) (k : BitVec 2) (st : BitVec 6) (dt : BitVec 6) (xs : BitVec 4) (sorg : BitVec 5) (dorg : BitVec 5)
  | xset (h : Hdr) (g : Guard) (xs : BitVec 4) (s : BitVec 5)
  | xchain (h : Hdr) (g : Guard) (k : BitVec 2) (head : BitVec 5)
  | xstat (h : Hdr) (g : Guard) (d : BitVec 5) (k : BitVec 2)
  | xcancel (h : Hdr) (g : Guard) (k : BitVec 2)
  | xfill (h : Hdr) (g : Guard) (dt : BitVec 6) (val : BitVec 5) (org : BitVec 5)
  | tqin (h : Hdr) (g : Guard) (tq : BitVec 6) (tensor : BitVec 6) (org : BitVec 5)
  | tqout (h : Hdr) (g : Guard) (tq : BitVec 6) (tensor : BitVec 6) (org : BitVec 5)
  | pgmrow (h : Hdr) (g : Guard) (row : BitVec 5) (tensor : BitVec 6) (off : BitVec 5) (dc : BitVec 5)
  | pgmtile (h : Hdr) (g : Guard) (idx : BitVec 5) (tensor : BitVec 6) (kl : BitVec 5) (dc : BitVec 5)
  | pgmstat (h : Hdr) (g : Guard) (d : BitVec 5) (tag : BitVec 5)
  | pgmret (h : Hdr) (g : Guard) (prow : BitVec 5)
  | mopen (h : Hdr) (g : Guard) (z : BitVec 2) (zf : Bool) (type5 : BitVec 5)
  | mma (h : Hdr) (g : Guard) (z : BitVec 2) (ta : BitVec 6) (tb : BitVec 6) (idx : BitVec 5) (kr : BitVec 5) (ck : Bool)
  | tstart (h : Hdr) (g : Guard) (z : BitVec 2) (k : BitVec 2) (we : Bool) (thr : BitVec 5)
  | tend (h : Hdr) (g : Guard) (z : BitVec 2)
  | mrd (h : Hdr) (g : Guard) (z : BitVec 2) (dt : BitVec 6) (fmt : BitVec 5) (rnd : BitVec 3) (sat : Bool) (fin : Bool) (org : BitVec 5)
  | mcvt (h : Hdr) (g : Guard) (z : BitVec 2) (fmt : BitVec 5) (rnd : BitVec 3) (sat : Bool) (fin : Bool)
  | mchk (h : Hdr) (g : Guard) (d : BitVec 5) (pd : BitVec 3) (z : BitVec 2)
  | seedscan (h : Hdr) (g : Guard) (z : BitVec 2) (tt : BitVec 6) (fs : BitVec 5) (cnt : BitVec 5) (j1 : BitVec 4) (d : BitVec 5)
  | seedfit (h : Hdr) (g : Guard) (z : BitVec 2) (tt : BitVec 6) (seed : BitVec 5) (j1 : BitVec 4) (rt : BitVec 6) (d : BitVec 5)
  | vadd (h : Hdr) (g : Guard) (vd : BitVec 7) (vs1 : BitVec 7) (vs2 : BitVec 7) (mask : BitVec 3)
  | vsub (h : Hdr) (g : Guard) (vd : BitVec 7) (vs1 : BitVec 7) (vs2 : BitVec 7) (mask : BitVec 3)
  | vmul (h : Hdr) (g : Guard) (vd : BitVec 7) (vs1 : BitVec 7) (vs2 : BitVec 7) (mask : BitVec 3)
  | vfma (h : Hdr) (g : Guard) (vd : BitVec 7) (vs1 : BitVec 7) (vs2 : BitVec 7) (mask : BitVec 3)
  | vmin (h : Hdr) (g : Guard) (vd : BitVec 7) (vs1 : BitVec 7) (vs2 : BitVec 7) (mask : BitVec 3)
  | vmax (h : Hdr) (g : Guard) (vd : BitVec 7) (vs1 : BitVec 7) (vs2 : BitVec 7) (mask : BitVec 3)
  | vabs (h : Hdr) (g : Guard) (vd : BitVec 7) (vs1 : BitVec 7) (mask : BitVec 3)
  | vneg (h : Hdr) (g : Guard) (vd : BitVec 7) (vs1 : BitVec 7) (mask : BitVec 3)
  | vand (h : Hdr) (g : Guard) (vd : BitVec 7) (vs1 : BitVec 7) (vs2 : BitVec 7) (mask : BitVec 3)
  | vor (h : Hdr) (g : Guard) (vd : BitVec 7) (vs1 : BitVec 7) (vs2 : BitVec 7) (mask : BitVec 3)
  | vxor (h : Hdr) (g : Guard) (vd : BitVec 7) (vs1 : BitVec 7) (vs2 : BitVec 7) (mask : BitVec 3)
  | vshl (h : Hdr) (g : Guard) (vd : BitVec 7) (vs1 : BitVec 7) (vs2 : BitVec 7) (mask : BitVec 3)
  | vshr (h : Hdr) (g : Guard) (vd : BitVec 7) (vs1 : BitVec 7) (vs2 : BitVec 7) (mask : BitVec 3)
  | vsar (h : Hdr) (g : Guard) (vd : BitVec 7) (vs1 : BitVec 7) (vs2 : BitVec 7) (mask : BitVec 3)
  | vcmp (h : Hdr) (g : Guard) (md : BitVec 3) (vs1 : BitVec 7) (vs2 : BitVec 7) (mask : BitVec 3) (cond : BitVec 3)
  | vsel (h : Hdr) (g : Guard) (vd : BitVec 7) (vs1 : BitVec 7) (vs2 : BitVec 7) (mask : BitVec 3)
  | vmov (h : Hdr) (g : Guard) (vd : BitVec 7) (vs1 : BitVec 7) (mask : BitVec 3)
  | vbcast (h : Hdr) (g : Guard) (vd : BitVec 7) (val : BitVec 5) (mask : BitVec 3)
  | vcvt (h : Hdr) (g : Guard) (vd : BitVec 7) (vs1 : BitVec 7) (mask : BitVec 3) (rnd : BitVec 3) (sat : Bool) (fin : Bool)
  | vrnd (h : Hdr) (g : Guard) (vd : BitVec 7) (vs1 : BitVec 7) (mask : BitVec 3) (rnd : BitVec 3) (sat : Bool) (fin : Bool)
  | vred (h : Hdr) (g : Guard) (vd : BitVec 7) (vs1 : BitVec 7) (vs2 : BitVec 7) (mask : BitVec 3) (opr : BitVec 3) (seg : BitVec 5)
  | vscan (h : Hdr) (g : Guard) (vd : BitVec 7) (vs1 : BitVec 7) (vs2 : BitVec 7) (mask : BitVec 3) (opr : BitVec 3) (seg : BitVec 5)
  | vperm (h : Hdr) (g : Guard) (vd : BitVec 7) (vs1 : BitVec 7) (vs2 : BitVec 7) (mask : BitVec 3)
  | vrot (h : Hdr) (g : Guard) (vd : BitVec 7) (vs1 : BitVec 7) (amt : BitVec 5) (mask : BitVec 3)
  | vexp2 (h : Hdr) (g : Guard) (vd : BitVec 7) (vs1 : BitVec 7) (mask : BitVec 3)
  | vlog2 (h : Hdr) (g : Guard) (vd : BitVec 7) (vs1 : BitVec 7) (mask : BitVec 3)
  | vrcp (h : Hdr) (g : Guard) (vd : BitVec 7) (vs1 : BitVec 7) (mask : BitVec 3)
  | vrsq (h : Hdr) (g : Guard) (vd : BitVec 7) (vs1 : BitVec 7) (mask : BitVec 3)
  | vsqrt (h : Hdr) (g : Guard) (vd : BitVec 7) (vs1 : BitVec 7) (mask : BitVec 3)
  | vtanh (h : Hdr) (g : Guard) (vd : BitVec 7) (vs1 : BitVec 7) (mask : BitVec 3)
  | vsigm (h : Hdr) (g : Guard) (vd : BitVec 7) (vs1 : BitVec 7) (mask : BitVec 3)
  | verf (h : Hdr) (g : Guard) (vd : BitVec 7) (vs1 : BitVec 7) (mask : BitVec 3)
  | vsin (h : Hdr) (g : Guard) (vd : BitVec 7) (vs1 : BitVec 7) (mask : BitVec 3)
  | vcos (h : Hdr) (g : Guard) (vd : BitVec 7) (vs1 : BitVec 7) (mask : BitVec 3)
  | vpop (h : Hdr) (g : Guard) (vd : BitVec 7) (q6 : BitVec 6)
  | vpush (h : Hdr) (g : Guard) (q6 : BitVec 6) (vs : BitVec 7)
  | chain (h : Hdr) (g : Guard) (iq6 : BitVec 6) (oq6 : BitVec 6) (ct : BitVec 3) (cnt : BitVec 5)
  | mand (h : Hdr) (g : Guard) (md : BitVec 3) (ms1 : BitVec 3) (ms2 : BitVec 3)
  | mor (h : Hdr) (g : Guard) (md : BitVec 3) (ms1 : BitVec 3) (ms2 : BitVec 3)
  | mnot (h : Hdr) (g : Guard) (md : BitVec 3) (ms1 : BitVec 3)
  | mseti (h : Hdr) (g : Guard) (md : BitVec 3) (first : BitVec 13) (count : BitVec 13)
  | vget (h : Hdr) (g : Guard) (d : BitVec 5) (vs : BitVec 7) (lane : BitVec 5)
  | vput (h : Hdr) (g : Guard) (vd : BitVec 7) (val : BitVec 5) (lane : BitVec 5)
  | vsnap (h : Hdr) (g : Guard) (vd : BitVec 7) (vs : BitVec 7) (d : BitVec 5)
  | cset (h : Hdr) (g : Guard) (ct : BitVec 3) (s : BitVec 5)
  | launch (h : Hdr) (g : Guard) (rec : BitVec 5) (lq : BitVec 4) (d : BitVec 5)
  | depdec (h : Hdr) (g : Guard) (ctr : BitVec 5) (amt : BitVec 5)
  | depset (h : Hdr) (g : Guard) (ctr : BitVec 5) (val : BitVec 5) (lrec : BitVec 5)
  | depread (h : Hdr) (g : Guard) (d : BitVec 5) (ctr : BitVec 5)
  | abort (h : Hdr) (g : Guard) (code : BitVec 16)
  | resume (h : Hdr) (g : Guard) (hreg : BitVec 5)
  | kill (h : Hdr) (g : Guard) (hreg : BitVec 5)
  | suspend (h : Hdr) (g : Guard) (hreg : BitVec 5)
  | tlbinv (h : Hdr) (g : Guard) (cb : BitVec 5) (rng : BitVec 5) (scope : BitVec 3)
  | segset (h : Hdr) (g : Guard) (cb : BitVec 5) (s : BitVec 5)
  | frame (h : Hdr) (g : Guard) (va : BitVec 5) (fs : BitVec 5)
  | migrate (h : Hdr) (g : Guard) (buf : BitVec 5) (die : BitVec 5)
  | sysrd (h : Hdr) (g : Guard) (d : BitVec 5) (addr : BitVec 5)
  | syswr (h : Hdr) (g : Guard) (val : BitVec 5) (addr : BitVec 5)
  | eret (h : Hdr)
  | routew (h : Hdr) (g : Guard) (idx : BitVec 5) (s : BitVec 5)
  | lockdown (h : Hdr) (g : Guard) (mask16 : BitVec 16)
  | holdExpire (d : DieId) (c : CoreId) (k : SlotId) (e : Engine)
  | evtheadRead (d : DieId)
  | indexStep (d : DieId) (c : CoreId) (k : SlotId)
  | releaseDone (w : Who) (id : Nat)
  | channelAccept (d : DieId) (c : CoreId) (k : SlotId)
  | channelGranule (d : DieId) (c : CoreId) (k : SlotId) (ch : Fin 4) (got : List Byte)
  | recordRun (d : DieId) (c : CoreId) (k : SlotId) (ch : Fin 4) (got : List Byte)
  | recordDone (d : DieId) (c : CoreId) (k : SlotId) (ch : Fin 4)
  | tqWaitEnd (d : DieId) (c : CoreId) (k : SlotId)
  | pgmAccept (d : DieId) (c : CoreId) (k : SlotId)
  | pgmRequestStart (d : DieId) (col : CoreId)
  | pgmIteration (d : DieId) (col : CoreId) (ok : Bool)
  | govWindow (d : DieId) (g : GroveId)
  | pgmRate (d : DieId) (col : CoreId)
  | mmaStart (d : DieId) (c : CoreId)
  | mmaKstep (d : DieId) (c : CoreId)
  | tendCheck (d : DieId) (c : CoreId) (k : SlotId)
  | chainRow (d : DieId) (c : CoreId) (k : SlotId)
  | counterDecrement (d : DieId)
  | abortComplete (d : DieId) (r : RecId)
  | killComplete (d : DieId) (r : RecId)
  | segsetApply (d : DieId)
  | migrateMove (d : DieId)
  | registerWrite (d : DieId) (a : Word) (v : Word)
  | tqBindingWrite (d : DieId) (g : GroveId) (q : Fin 16) (v : Word)
  | mqBindingWrite (d : DieId) (c : CoreId) (q : Fin 4) (second : Bool) (v : Word)
  | monitorClear (d : DieId) (n : Fin 16)
  | fenceWrite (d : DieId) (v : Word)
  | lqTailWrite (d : DieId) (q : Fin 16) (v : BitVec 32)
  | hostRingPull (d : DieId) (q : Fin 16)
  | onZeroEnqueue (d : DieId)
  | launchCheck (d : DieId) (q : Fin 16)
  | launchReady (d : DieId) (q : Fin 16)
  | dispatch (d : DieId)
  | priorityAge (d : DieId)
  | jobStart (d : DieId) (r : RecId)
  | preempt (d : DieId)
  | jobSave (d : DieId) (r : RecId)
  | jobRestore (d : DieId) (r : RecId)
  | jobRetire (d : DieId) (r : RecId)
  | jobStall (d : DieId) (r : RecId)
  | stopDelivery (d : DieId) (r : RecId)
  | eventEnter (d : DieId)
  | systemCoreWake (d : DieId)
  | mqCreditRequest (d : DieId) (c : CoreId) (q : Fin 4)
  | mqAppend (d : DieId) (c : CoreId) (q : Fin 4)
  | mqHeadWrite (d : DieId) (c : CoreId) (q : Fin 4) (head : BitVec 32)
  | msendCredit (d : DieId) (c : CoreId) (k : SlotId)
  | monitorSample (d : DieId) (n : Fin 16) (unit : Nat) (x : BitVec 64)
  | droopAlarm (d : DieId) (g : GroveId) (mv : Nat)
  | throttleEnd (d : DieId) (g : GroveId)
  | powerWindow (d : DieId) (watts : BitVec 12)
  | thermalSample (d : DieId) (temps : List Nat)
  | rowGroupRefresh (d : DieId) (g : Fin 16384)
  | rowgroupSpare (d : DieId) (g : Fin 16384)
  | laneRepair (b : Fin 4) (m : Fin 80)
  | dieFence (d : DieId)
  | dieLoss (d : DieId) (lost : DieId)
  | linkDown (p : Fin 16) (far : BitVec 13)
  | linkUp (p : Fin 16)
  | linkFailureNotice (p : Fin 16) (pkg : BitVec 13) (incarn : Option (BitVec 16))
  | packetIngress (p : Fin 16) (pkt : Packet)
  | auditReplay (d : DieId) (first : BitVec 32) (second : BitVec 32)
  | coreSpared (d : DieId) (g : GroveId) (passed : Bool)
  | hostMemAccess (a : Nat) (n : Nat) (data : Option (List Byte))
  | hostSnoop (a : Nat) (data : Option (List Byte))
  | hsdataRead
  | hsdataWrite (v : Word)
  | getVersion (req : List Byte)
  | getCapabilities (req : List Byte)
  | negotiateAlgorithms (req : List Byte)
  | getDigests (req : List Byte)
  | getCertificate (req : List Byte)
  | challenge (req : List Byte)
  | getMeasurements (req : List Byte)
  | keyExchange (fabric : Bool) (req : List Byte) (chain : List Byte)
  | finish (fabric : Bool) (req : List Byte)
  | fabricManagerWrite (table : Fin 4) (i : Nat) (v : Word)
  | measurementExtend (d : DieId) (i : Fin 16) (data : List Byte)
  | packageReset (trip : Bool)
  | firmwareVerify (image : List Byte) (sig : List Byte) (version : Nat)
  | recoveryImage (image : List Byte)
  | powerLoss
  | dataReturn (w : Who) (id : Nat) (got : List Byte)
  | writeAcknowledgement (w : Who) (id : Nat)
  | resultLanding (w : Who) (id : Nat)
  deriving DecidableEq, Repr
end Sys2Proof
end

