-- ==== Sys2Proof/WellFormed.lean ====
section
/-! DEFINITION. Well-formed instructions: the field values the encoding admits for a stream (spec/04_encoding.md R82, R84, R87, R88). -/

namespace Sys2Proof

/-- Every stream, the system core included ("all" in R87). -/
def allStreams : List Issuer := [.eng .c, .eng .a, .eng .t, .eng .m, .eng .v, .sys]
/-- The five engines. -/
def jobStreams : List Issuer := [.eng .c, .eng .a, .eng .t, .eng .m, .eng .v]

/-- TKSEND and TKWAIT refuse the issuing engine's own index and the codes 5-7 (R84). -/
def engineRefused (e : Issuer) (v : Nat) : Bool :=
  match e with
  | .eng x => v == x.idx.val || decide (5 ≤ v)
  | .sys => decide (5 ≤ v)

/-- WAITV refuses kinds 4-15, and on the system core 0 and 3 also (R84). -/
def waitKindRefused (e : Issuer) (v : Nat) : Bool :=
  decide (4 ≤ v) || (e == .sys && (v == 0 || v == 3))

/-- The system core admits no switch mark and no token fields (R77). -/
def Hdr.admits (h : Hdr) (e : Issuer) : Bool :=
  e != .sys || (!h.sw && h.tkp == 0 && h.tks == 0)

/-- Is the instruction one that stream e may meet at issue without a stop of R82? A step of the machine is no word, and is never well formed. -/
def Instr.wf (e : Issuer) : Instr → Bool
  | .nop h => h.admits e
  | .prep h _ _ => h.admits e
  | .prepr h _ _ => h.admits e
  | .br h _ _ => h.admits e
  | .brl h _ _ => h.admits e
  | .loop h _ _ end16 => h.admits e && decide (2 ≤ end16.toNat)
  | .loopi h _ _ end16 => h.admits e && decide (2 ≤ end16.toNat)
  | .lbrk h _ _ => h.admits e
  | .endw h => h.admits e
  | .hold h _ _ => h.admits e
  | .trap h _ _ _ => h.admits e
  | .mark h _ _ => h.admits e
  | .tksend h eng cnt => h.admits e && jobStreams.contains e && !engineRefused e eng.toNat && cnt.toNat != 0
  | .tkwait h eng cnt => h.admits e && jobStreams.contains e && !engineRefused e eng.toNat && cnt.toNat != 0
  | .qpop h _ _ _ size => h.admits e && jobStreams.contains e && decide (size.toNat < 4)
  | .qpush h _ _ _ size => h.admits e && jobStreams.contains e && decide (size.toNat < 4)
  | .waitv h kind _ _ mode arg => h.admits e && !waitKindRefused e kind.toNat && (!mode || (arg.extractLsb' 5 12).toNat == 0)
  | .tsread h _ _ => h.admits e
  | .csrr h _ _ _ => h.admits e
  | .csrw h _ _ _ => h.admits e
  | .csrx h _ _ _ _ => h.admits e
  | .add h _ _ _ _ => h.admits e
  | .sub h _ _ _ _ => h.admits e
  | .mul h _ _ _ _ => h.admits e
  | .mulh h _ _ _ _ => h.admits e
  | .mulhu h _ _ _ _ => h.admits e
  | .div h _ _ _ _ => h.admits e
  | .divu h _ _ _ _ => h.admits e
  | .rem h _ _ _ _ => h.admits e
  | .remu h _ _ _ _ => h.admits e
  | .and h _ _ _ _ => h.admits e
  | .or h _ _ _ _ => h.admits e
  | .xor h _ _ _ _ => h.admits e
  | .shl h _ _ _ _ => h.admits e
  | .shr h _ _ _ _ => h.admits e
  | .sar h _ _ _ _ => h.admits e
  | .min h _ _ _ _ => h.admits e
  | .minu h _ _ _ _ => h.admits e
  | .max h _ _ _ _ => h.admits e
  | .maxu h _ _ _ _ => h.admits e
  | .sel h _ _ _ _ _ => h.admits e
  | .clz h _ _ _ => h.admits e
  | .ctz h _ _ _ => h.admits e
  | .popc h _ _ _ => h.admits e
  | .addi h _ _ _ _ => h.admits e
  | .andi h _ _ _ _ => h.admits e
  | .ori h _ _ _ _ => h.admits e
  | .xori h _ _ _ _ => h.admits e
  | .shli h _ _ _ _ => h.admits e
  | .shri h _ _ _ _ => h.admits e
  | .sari h _ _ _ _ => h.admits e
  | .muli h _ _ _ _ => h.admits e
  | .movi h _ _ => h.admits e
  | .movhi h _ _ => h.admits e
  | .ceq h _ _ _ _ => h.admits e
  | .cne h _ _ _ _ => h.admits e
  | .clt h _ _ _ _ => h.admits e
  | .cltu h _ _ _ _ => h.admits e
  | .cle h _ _ _ _ => h.admits e
  | .cleu h _ _ _ _ => h.admits e
  | .ceqi h _ _ _ _ => h.admits e
  | .cnei h _ _ _ _ => h.admits e
  | .clti h _ _ _ _ => h.admits e
  | .cgei h _ _ _ _ => h.admits e
  | .pand h _ _ _ _ => h.admits e
  | .por h _ _ _ _ => h.admits e
  | .pxor h _ _ _ _ => h.admits e
  | .pandn h _ _ _ _ => h.admits e
  | .pset h _ _ _ => h.admits e
  | .pget h _ _ _ => h.admits e
  | .fadd h _ _ _ _ fmt2 => h.admits e && [.eng .c, .eng .v, .sys].contains e && fmt2.toNat != 3
  | .fsub h _ _ _ _ fmt2 => h.admits e && [.eng .c, .eng .v, .sys].contains e && fmt2.toNat != 3
  | .fmul h _ _ _ _ fmt2 => h.admits e && [.eng .c, .eng .v, .sys].contains e && fmt2.toNat != 3
  | .ffma h _ _ _ _ fmt2 _ => h.admits e && [.eng .c, .eng .v, .sys].contains e && fmt2.toNat != 3
  | .fmin h _ _ _ _ fmt2 => h.admits e && [.eng .c, .eng .v, .sys].contains e && fmt2.toNat != 3
  | .fmax h _ _ _ _ fmt2 => h.admits e && [.eng .c, .eng .v, .sys].contains e && fmt2.toNat != 3
  | .fcvt h _ _ _ from5 to5 rnd _ _ => h.admits e && [.eng .c, .eng .v, .sys].contains e && rnd.toNat != 7 && decide (from5.toNat < 0x0E) && decide (to5.toNat < 0x0E)
  | .fceq h _ _ _ _ fmt2 => h.admits e && [.eng .c, .eng .v, .sys].contains e && fmt2.toNat != 3
  | .fclt h _ _ _ _ fmt2 => h.admits e && [.eng .c, .eng .v, .sys].contains e && fmt2.toNat != 3
  | .fcle h _ _ _ _ fmt2 => h.admits e && [.eng .c, .eng .v, .sys].contains e && fmt2.toNat != 3
  | .ldq h _ _ _ _ _ => h.admits e && [.eng .a].contains e
  | .ldsq h _ _ _ _ _ => h.admits e && [.eng .a].contains e
  | .stq h _ _ _ _ _ => h.admits e && [.eng .a].contains e
  | .stsq h _ _ _ _ _ => h.admits e && [.eng .a].contains e
  | .ldx h _ _ _ _ _ _ => h.admits e && [.eng .a].contains e
  | .stx h _ _ _ _ _ => h.admits e && [.eng .a].contains e
  | .gather h _ _ _ _ _ _ => h.admits e && [.eng .a].contains e
  | .scatter h _ _ _ _ _ _ => h.admits e && [.eng .a].contains e
  | .scadd h _ _ _ _ _ _ => h.admits e && [.eng .a].contains e
  | .aadd h _ _ _ _ _ scope _ => h.admits e && [.eng .a].contains e && decide (scope.toNat < 6)
  | .amin h _ _ _ _ _ scope _ => h.admits e && [.eng .a].contains e && decide (scope.toNat < 6)
  | .amax h _ _ _ _ _ scope _ => h.admits e && [.eng .a].contains e && decide (scope.toNat < 6)
  | .aand h _ _ _ _ _ scope _ => h.admits e && [.eng .a].contains e && decide (scope.toNat < 6)
  | .aor h _ _ _ _ _ scope _ => h.admits e && [.eng .a].contains e && decide (scope.toNat < 6)
  | .axor h _ _ _ _ _ scope _ => h.admits e && [.eng .a].contains e && decide (scope.toNat < 6)
  | .axchg h _ _ _ _ _ scope _ => h.admits e && [.eng .a].contains e && decide (scope.toNat < 6)
  | .acas h _ _ _ _ _ scope _ => h.admits e && [.eng .a].contains e && decide (scope.toNat < 6)
  | .afadd h _ _ _ _ _ scope _ => h.admits e && [.eng .a].contains e && decide (scope.toNat < 6)
  | .rprobe h _ _ _ _ kind => h.admits e && [.eng .a].contains e && kind.toNat != 3
  | .lock h _ _ _ _ => h.admits e && [.eng .a].contains e
  | .unlock h _ _ _ _ => h.admits e && [.eng .a].contains e
  | .rwb h _ _ _ scope level => h.admits e && [.eng .a].contains e && decide (scope.toNat < 6) && level.toNat != 3
  | .rinv h _ _ _ scope level => h.admits e && [.eng .a].contains e && decide (scope.toNat < 6) && level.toNat != 3
  | .ubdisc h _ _ _ scope level => h.admits e && [.eng .a].contains e && decide (scope.toNat < 6) && level.toNat != 3
  | .pref h _ _ _ scope level => h.admits e && [.eng .a].contains e && decide (scope.toNat < 6) && level.toNat != 3
  | .msend h _ _ _ _ => h.admits e && [.eng .a].contains e
  | .acq h scope => h.admits e && [.eng .a].contains e && decide (scope.toNat < 6)
  | .rel h scope => h.admits e && [.eng .a].contains e && decide (scope.toNat < 6)
  | .phase h scope => h.admits e && [.eng .a].contains e && decide (scope.toNat < 6)
  | .tdef h _ _ s => h.admits e && [.eng .a].contains e && decide (s.toNat < 29)
  | .xcopy h _ _ _ _ _ _ _ => h.admits e && [.eng .t].contains e
  | .xset h _ _ s => h.admits e && [.eng .t].contains e && s.toNat != 31
  | .xchain h _ _ _ => h.admits e && [.eng .t].contains e
  | .xstat h _ _ _ => h.admits e && [.eng .t].contains e
  | .xcancel h _ _ => h.admits e && [.eng .t].contains e
  | .xfill h _ _ _ _ => h.admits e && [.eng .t].contains e
  | .tqin h _ tq _ _ => h.admits e && [.eng .t].contains e && decide (16 ≤ tq.toNat)
  | .tqout h _ tq _ _ => h.admits e && [.eng .t].contains e && decide (16 ≤ tq.toNat)
  | .pgmrow h _ _ _ _ _ => h.admits e && [.eng .t].contains e
  | .pgmtile h _ _ _ _ _ => h.admits e && [.eng .t].contains e
  | .pgmstat h _ _ _ => h.admits e && [.eng .t].contains e
  | .pgmret h _ _ => h.admits e && [.eng .t].contains e
  | .mopen h _ _ _ type5 => h.admits e && [.eng .m].contains e && decide (type5.toNat < 0x0E)
  | .mma h _ _ _ _ _ _ _ => h.admits e && [.eng .m].contains e
  | .tstart h _ _ _ _ _ => h.admits e && [.eng .m].contains e
  | .tend h _ _ => h.admits e && [.eng .m].contains e
  | .mrd h _ _ _ fmt rnd _ _ _ => h.admits e && [.eng .m].contains e && rnd.toNat != 7 && decide (fmt.toNat < 0x0E)
  | .mcvt h _ _ fmt rnd _ _ => h.admits e && [.eng .m].contains e && rnd.toNat != 7 && decide (fmt.toNat < 0x0E)
  | .mchk h _ _ _ _ => h.admits e && [.eng .m].contains e
  | .seedscan h _ _ _ _ _ _ d => h.admits e && [.eng .m].contains e && d.toNat != 31
  | .seedfit h _ _ _ _ _ _ _ => h.admits e && [.eng .m].contains e
  | .vadd h _ _ _ _ _ => h.admits e && [.eng .v].contains e
  | .vsub h _ _ _ _ _ => h.admits e && [.eng .v].contains e
  | .vmul h _ _ _ _ _ => h.admits e && [.eng .v].contains e
  | .vfma h _ _ _ _ _ => h.admits e && [.eng .v].contains e
  | .vmin h _ _ _ _ _ => h.admits e && [.eng .v].contains e
  | .vmax h _ _ _ _ _ => h.admits e && [.eng .v].contains e
  | .vabs h _ _ _ _ => h.admits e && [.eng .v].contains e
  | .vneg h _ _ _ _ => h.admits e && [.eng .v].contains e
  | .vand h _ _ _ _ _ => h.admits e && [.eng .v].contains e
  | .vor h _ _ _ _ _ => h.admits e && [.eng .v].contains e
  | .vxor h _ _ _ _ _ => h.admits e && [.eng .v].contains e
  | .vshl h _ _ _ _ _ => h.admits e && [.eng .v].contains e
  | .vshr h _ _ _ _ _ => h.admits e && [.eng .v].contains e
  | .vsar h _ _ _ _ _ => h.admits e && [.eng .v].contains e
  | .vcmp h _ _ _ _ _ cond => h.admits e && [.eng .v].contains e && decide (cond.toNat < 6)
  | .vsel h _ _ _ _ _ => h.admits e && [.eng .v].contains e
  | .vmov h _ _ _ _ => h.admits e && [.eng .v].contains e
  | .vbcast h _ _ _ _ => h.admits e && [.eng .v].contains e
  | .vcvt h _ _ _ _ rnd _ _ => h.admits e && [.eng .v].contains e && rnd.toNat != 7
  | .vrnd h _ _ _ _ rnd _ _ => h.admits e && [.eng .v].contains e && rnd.toNat != 7
  | .vred h _ _ _ _ _ opr _ => h.admits e && [.eng .v].contains e && decide (opr.toNat < 6)
  | .vscan h _ _ _ _ _ opr _ => h.admits e && [.eng .v].contains e && decide (opr.toNat < 6)
  | .vperm h _ _ _ _ _ => h.admits e && [.eng .v].contains e
  | .vrot h _ _ _ _ _ => h.admits e && [.eng .v].contains e
  | .vexp2 h _ _ _ _ => h.admits e && [.eng .v].contains e
  | .vlog2 h _ _ _ _ => h.admits e && [.eng .v].contains e
  | .vrcp h _ _ _ _ => h.admits e && [.eng .v].contains e
  | .vrsq h _ _ _ _ => h.admits e && [.eng .v].contains e
  | .vsqrt h _ _ _ _ => h.admits e && [.eng .v].contains e
  | .vtanh h _ _ _ _ => h.admits e && [.eng .v].contains e
  | .vsigm h _ _ _ _ => h.admits e && [.eng .v].contains e
  | .verf h _ _ _ _ => h.admits e && [.eng .v].contains e
  | .vsin h _ _ _ _ => h.admits e && [.eng .v].contains e
  | .vcos h _ _ _ _ => h.admits e && [.eng .v].contains e
  | .vpop h _ _ _ => h.admits e && [.eng .v].contains e
  | .vpush h _ _ _ => h.admits e && [.eng .v].contains e
  | .chain h _ _ _ _ _ => h.admits e && [.eng .v].contains e
  | .mand h _ _ _ _ => h.admits e && [.eng .v].contains e
  | .mor h _ _ _ _ => h.admits e && [.eng .v].contains e
  | .mnot h _ _ _ => h.admits e && [.eng .v].contains e
  | .mseti h _ _ _ _ => h.admits e && [.eng .v].contains e
  | .vget h _ _ _ _ => h.admits e && [.eng .v].contains e
  | .vput h _ _ _ _ => h.admits e && [.eng .v].contains e
  | .vsnap h _ _ _ _ => h.admits e && [.eng .v].contains e
  | .cset h _ _ s => h.admits e && [.eng .v].contains e && s.toNat != 31
  | .launch h _ _ _ _ => h.admits e && [.eng .c, .sys].contains e
  | .depdec h _ _ _ => h.admits e && [.eng .c, .sys].contains e
  | .depset h _ _ _ _ => h.admits e && [.eng .c, .sys].contains e
  | .depread h _ _ _ => h.admits e && [.eng .c, .sys].contains e
  | .abort h _ _ => h.admits e && [.eng .c].contains e
  | .resume h _ _ => h.admits e && [.sys].contains e
  | .kill h _ _ => h.admits e && [.sys].contains e
  | .suspend h _ _ => h.admits e && [.sys].contains e
  | .tlbinv h _ _ _ scope => h.admits e && [.sys].contains e && decide (scope.toNat < 6)
  | .segset h _ _ s => h.admits e && [.sys].contains e && decide (s.toNat < 29)
  | .frame h _ _ _ => h.admits e && [.sys].contains e
  | .migrate h _ _ _ => h.admits e && [.sys].contains e
  | .sysrd h _ _ _ => h.admits e && [.sys].contains e
  | .syswr h _ _ _ => h.admits e && [.sys].contains e
  | .eret h => h.admits e && [.sys].contains e
  | .routew h _ _ s => h.admits e && [.sys].contains e && s.toNat != 31
  | .lockdown h _ _ => h.admits e && [.sys].contains e
  | .holdExpire _ _ _ _ => false
  | .evtheadRead _ => false
  | .indexStep _ _ _ => false
  | .releaseDone _ _ => false
  | .channelAccept _ _ _ => false
  | .channelGranule _ _ _ _ _ => false
  | .recordRun _ _ _ _ _ => false
  | .recordDone _ _ _ _ => false
  | .tqWaitEnd _ _ _ => false
  | .pgmAccept _ _ _ => false
  | .pgmRequestStart _ _ => false
  | .pgmIteration _ _ _ => false
  | .govWindow _ _ => false
  | .pgmRate _ _ => false
  | .mmaStart _ _ => false
  | .mmaKstep _ _ => false
  | .tendCheck _ _ _ => false
  | .chainRow _ _ _ => false
  | .counterDecrement _ => false
  | .abortComplete _ _ => false
  | .killComplete _ _ => false
  | .segsetApply _ => false
  | .migrateMove _ => false
  | .registerWrite _ _ _ => false
  | .tqBindingWrite _ _ _ _ => false
  | .mqBindingWrite _ _ _ _ _ => false
  | .monitorClear _ _ => false
  | .fenceWrite _ _ => false
  | .lqTailWrite _ _ _ => false
  | .hostRingPull _ _ => false
  | .onZeroEnqueue _ => false
  | .launchCheck _ _ => false
  | .launchReady _ _ => false
  | .dispatch _ => false
  | .priorityAge _ => false
  | .jobStart _ _ => false
  | .preempt _ => false
  | .jobSave _ _ => false
  | .jobRestore _ _ => false
  | .jobRetire _ _ => false
  | .jobStall _ _ => false
  | .stopDelivery _ _ => false
  | .eventEnter _ => false
  | .systemCoreWake _ => false
  | .mqCreditRequest _ _ _ => false
  | .mqAppend _ _ _ => false
  | .mqHeadWrite _ _ _ _ => false
  | .msendCredit _ _ _ => false
  | .monitorSample _ _ _ _ => false
  | .droopAlarm _ _ _ => false
  | .throttleEnd _ _ => false
  | .powerWindow _ _ => false
  | .thermalSample _ _ => false
  | .rowGroupRefresh _ _ => false
  | .rowgroupSpare _ _ => false
  | .laneRepair _ _ => false
  | .dieFence _ => false
  | .dieLoss _ _ => false
  | .linkDown _ _ => false
  | .linkUp _ => false
  | .linkFailureNotice _ _ _ => false
  | .packetIngress _ _ => false
  | .auditReplay _ _ _ => false
  | .coreSpared _ _ _ => false
  | .hostMemAccess _ _ _ => false
  | .hostSnoop _ _ => false
  | .hsdataRead => false
  | .hsdataWrite _ => false
  | .getVersion _ => false
  | .getCapabilities _ => false
  | .negotiateAlgorithms _ => false
  | .getDigests _ => false
  | .getCertificate _ => false
  | .challenge _ => false
  | .getMeasurements _ => false
  | .keyExchange _ _ _ => false
  | .finish _ _ => false
  | .fabricManagerWrite _ _ _ => false
  | .measurementExtend _ _ _ => false
  | .packageReset _ => false
  | .firmwareVerify _ _ _ => false
  | .recoveryImage _ => false
  | .powerLoss => false
  | .dataReturn _ _ _ => false
  | .writeAcknowledgement _ _ => false
  | .resultLanding _ _ => false

end Sys2Proof
end

