-- ==== Sys2Proof/Decode.lean ====
section
/-! DEFINITION. Decoding and encoding of the 64-bit instruction word (spec/04_encoding.md R75-R95, the order of refusals R82, the refused
fields R84). Decoding is total, on words and on any bytes, and names every refusal. -/

namespace Sys2Proof

/-- Why a word is no instruction for the stream that meets it, in the order of R82; bytes too few for a word. -/
inductive DecodeStop where
  | illegalOpcode | priv | illegalStream | illegalField (mask : BitVec 64) | fmtBad | tooShort
  deriving DecidableEq, Repr

/-- The bits lo to lo + n - 1 of a word. -/
def fld (w : Word) (lo n : Nat) : BitVec n := w.extractLsb' lo n
/-- One bit of a word, as a flag field. -/
def flg (w : Word) (lo : Nat) : Bool := w.getLsbD lo
/-- The header fields (R75). -/
def hdrOf (w : Word) : Hdr := { idle := fld w 54 10, sw := flg w 53, tkp := fld w 49 4, tks := fld w 45 4 }
/-- The guard field (R78). -/
def grdOf (w : Word) : Guard := { p := fld w 33 3, pn := flg w 32 }
/-- The opcode field (R75). -/
def opOf (w : Word) : BitVec 9 := fld w 36 9

/-- The mask of the word bits h down to l. -/
def maskOf (h l : Nat) : BitVec 64 := (BitVec.ofNat 64 (2 ^ (h + 1 - l) - 1)) <<< l

/-- What one row of R84 refuses of a field. -/
inductive FieldRule where
  | zero | is (n : Nat) | atLeast (n : Nat) | below (n : Nat) | engine | waitKind | registerZero
  deriving DecidableEq, Repr

/-- Does the rule refuse the field's value v, for the stream e (R84)? -/
def FieldRule.refuses (w : Word) (e : Issuer) (v : Nat) : FieldRule → Bool
  | .zero => v != 0
  | .is n => v == n
  | .atLeast n => decide (n ≤ v)
  | .below n => decide (v < n)
  | .engine => engineRefused e v
  | .waitKind => waitKindRefused e v
  | .registerZero => flg w 17 && v != 0

/-- The streams an opcode is valid in (R87, R88): none where it is unassigned. -/
def validity (op : Nat) : Option (List Issuer) :=
  if 0 ≤ op ∧ op ≤ 11 then some allStreams
  else if 12 ≤ op ∧ op ≤ 15 then some jobStreams
  else if 16 ≤ op ∧ op ≤ 20 then some allStreams
  else if 32 ≤ op ∧ op ≤ 80 then some allStreams
  else if 81 ≤ op ∧ op ≤ 90 then some [.eng .c, .eng .v, .sys]
  else if 112 ≤ op ∧ op ≤ 141 then some [.eng .a]
  else if 160 ≤ op ∧ op ≤ 171 then some [.eng .t]
  else if 192 ≤ op ∧ op ≤ 200 then some [.eng .m]
  else if 224 ≤ op ∧ op ≤ 268 then some [.eng .v]
  else if 304 ≤ op ∧ op ≤ 307 then some [.eng .c, .sys]
  else if 308 ≤ op ∧ op ≤ 308 then some [.eng .c]
  else if 320 ≤ op ∧ op ≤ 331 then some [.sys]
  else none

/-- The fields of an opcode's layout that R84 may refuse: high bit, low bit, rule (R89-R95). -/
def fieldRules : Nat → List (Nat × Nat × FieldRule)
  | 0 | 8 | 329 => [(35, 0, .zero)]
  | 1 => [(33, 24, .zero)]
  | 2 => [(28, 0, .zero)]
  | 3 | 4 | 7 | 164 | 195 => [(29, 0, .zero)]
  | 5 => [(28, 16, .zero), (15, 0, .below 2)]
  | 6 => [(15, 0, .below 2)]
  | 9 => [(31, 24, .zero)]
  | 10 => [(15, 3, .zero)]
  | 11 | 308 | 331 => [(31, 16, .zero)]
  | 12 | 13 => [(35, 33, .engine), (32, 29, .is 0), (28, 0, .zero)]
  | 14 | 15 => [(22, 20, .atLeast 4), (19, 0, .zero)]
  | 16 => [(35, 32, .waitKind), (16, 5, .registerZero)]
  | 17 | 171 | 320 | 321 | 322 => [(26, 0, .zero)]
  | 18 => [(26, 22, .zero), (9, 0, .zero)]
  | 19 => [(31, 27, .zero), (9, 0, .zero)]
  | 20 => [(9, 0, .zero)]
  | 32 | 33 | 34 | 35 | 36 | 37 | 38 | 39 | 40 | 41 | 42 | 43 | 44 | 45 | 46 | 47 | 48 | 49 | 50 | 131 | 132 | 306 => [(16, 0, .zero)]
  | 51 => [(13, 0, .zero)]
  | 52 | 53 | 54 | 170 | 198 | 305 | 307 | 325 | 326 | 327 | 328 => [(21, 0, .zero)]
  | 55 | 56 | 57 | 58 | 62 | 63 | 64 | 112 | 114 | 116 => []
  | 59 | 60 | 61 => [(21, 6, .zero)]
  | 65 | 66 | 67 | 68 | 69 | 70 => [(28, 27, .zero), (16, 0, .zero)]
  | 71 | 72 | 73 | 74 => [(28, 27, .zero)]
  | 75 | 76 | 77 | 78 => [(28, 27, .zero), (23, 22, .zero), (18, 0, .zero)]
  | 79 => [(28, 27, .zero), (21, 0, .zero)]
  | 80 | 192 => [(23, 0, .zero)]
  | 81 | 82 | 83 | 85 | 86 | 130 => [(16, 15, .is 3), (14, 0, .zero)]
  | 84 => [(16, 15, .is 3), (9, 0, .zero)]
  | 87 => [(21, 17, .zero), (6, 4, .is 7), (1, 0, .zero)]
  | 88 | 89 | 90 => [(28, 27, .zero), (16, 15, .is 3), (14, 0, .zero)]
  | 113 | 115 | 267 => [(12, 0, .zero)]
  | 117 => [(19, 19, .zero)]
  | 118 | 119 | 120 | 168 | 169 => [(10, 0, .zero)]
  | 121 | 122 | 123 | 124 | 125 | 126 | 127 | 128 | 129 => [(14, 12, .atLeast 6)]
  | 133 | 134 | 135 | 136 => [(31, 27, .zero), (16, 14, .atLeast 6), (13, 12, .is 3), (11, 0, .zero)]
  | 137 | 304 => [(17, 0, .zero)]
  | 138 | 139 | 140 => [(35, 33, .atLeast 6), (32, 0, .zero)]
  | 141 => [(25, 21, .atLeast 29), (20, 0, .zero)]
  | 160 | 200 => [(3, 0, .zero)]
  | 161 => [(27, 23, .is 31), (22, 0, .zero)]
  | 162 | 163 => [(24, 0, .zero)]
  | 165 => [(31, 30, .zero), (13, 0, .zero)]
  | 166 | 167 => [(31, 26, .below 16), (14, 0, .zero)]
  | 193 => [(6, 0, .zero)]
  | 194 => [(29, 26, .zero), (17, 0, .zero)]
  | 196 => [(18, 16, .is 7), (8, 0, .zero)]
  | 197 => [(24, 22, .is 7), (19, 0, .zero)]
  | 199 => [(9, 5, .is 31), (4, 0, .zero)]
  | 224 | 225 | 226 | 227 | 228 | 229 | 232 | 233 | 234 | 235 | 236 | 237 | 239 | 246 => [(7, 0, .zero)]
  | 230 | 231 | 240 | 248 | 249 | 250 | 251 | 252 | 253 | 254 | 255 | 256 | 257 => [(17, 11, .zero), (7, 0, .zero)]
  | 238 => [(31, 28, .zero), (7, 3, .zero), (2, 0, .atLeast 6)]
  | 241 => [(19, 11, .zero), (7, 0, .zero)]
  | 242 | 243 => [(17, 11, .zero), (7, 5, .is 7), (2, 0, .zero)]
  | 244 | 245 => [(7, 5, .atLeast 6)]
  | 247 => [(12, 11, .zero), (7, 0, .zero)]
  | 258 | 259 => [(18, 0, .zero)]
  | 260 => [(11, 0, .zero)]
  | 261 | 262 => [(22, 0, .zero)]
  | 263 => [(25, 0, .zero)]
  | 264 => [(2, 0, .zero)]
  | 265 | 266 => [(14, 0, .zero)]
  | 268 => [(28, 24, .is 31), (23, 0, .zero)]
  | 323 => [(21, 19, .atLeast 6), (18, 0, .zero)]
  | 324 => [(26, 22, .atLeast 29), (21, 0, .zero)]
  | 330 => [(26, 22, .is 31), (21, 0, .zero)]
  | _ => []

/-- The mask of every refused field of a word (R84), the system core's header rule of R77 included. -/
def refusedBits (w : Word) (e : Issuer) : BitVec 64 :=
  let start : BitVec 64 := if e = .sys ∧ fld w 45 9 ≠ 0 then maskOf 53 45 else 0
  (fieldRules (opOf w).toNat).foldl
    (fun m f => if f.2.2.refuses w e (bits w f.1 f.2.1) then m ||| maskOf f.1 f.2.1 else m) start

/-- The format fields of a word that R47 checks: FCVT's FROM and TO, MOPEN's TYPE, MRD's and MCVT's FMT. -/
def formatFields (w : Word) : List (BitVec 5) :=
  match (opOf w).toNat with
  | 0x057 => [fld w 12 5, fld w 7 5]
  | 0x0C0 => [fld w 24 5]
  | 0x0C4 => [fld w 19 5]
  | 0x0C5 => [fld w 25 5]
  | _ => []

/-- The instruction of an accepted word, by its opcode (R87, R89-R95). -/
def buildInstr (w : Word) : Option Instr :=
  match (opOf w).toNat with
  | 0x000 => some (.nop (hdrOf w))
  | 0x001 => some (.prep (hdrOf w) (fld w 34 2) (fld w 0 24))
  | 0x002 => some (.prepr (hdrOf w) (fld w 34 2) (fld w 29 5))
  | 0x003 => some (.br (hdrOf w) (grdOf w) (fld w 30 2))
  | 0x004 => some (.brl (hdrOf w) (grdOf w) (fld w 30 2))
  | 0x005 => some (.loop (hdrOf w) (fld w 34 2) (fld w 29 5) (fld w 0 16))
  | 0x006 => some (.loopi (hdrOf w) (fld w 34 2) (fld w 16 18) (fld w 0 16))
  | 0x007 => some (.lbrk (hdrOf w) (grdOf w) (fld w 30 2))
  | 0x008 => some (.endw (hdrOf w))
  | 0x009 => some (.hold (hdrOf w) (grdOf w) (fld w 0 24))
  | 0x00A => some (.trap (hdrOf w) (grdOf w) (fld w 16 16) (fld w 0 3))
  | 0x00B => some (.mark (hdrOf w) (grdOf w) (fld w 0 16))
  | 0x00C => some (.tksend (hdrOf w) (fld w 33 3) (fld w 29 4))
  | 0x00D => some (.tkwait (hdrOf w) (fld w 33 3) (fld w 29 4))
  | 0x00E => some (.qpop (hdrOf w) (grdOf w) (fld w 27 5) (fld w 23 4) (fld w 20 3))
  | 0x00F => some (.qpush (hdrOf w) (grdOf w) (fld w 27 5) (fld w 23 4) (fld w 20 3))
  | 0x010 => some (.waitv (hdrOf w) (fld w 32 4) (fld w 20 12) (fld w 18 2) (flg w 17) (fld w 0 17))
  | 0x011 => some (.tsread (hdrOf w) (grdOf w) (fld w 27 5))
  | 0x012 => some (.csrr (hdrOf w) (grdOf w) (fld w 27 5) (fld w 10 12))
  | 0x013 => some (.csrw (hdrOf w) (grdOf w) (fld w 22 5) (fld w 10 12))
  | 0x014 => some (.csrx (hdrOf w) (grdOf w) (fld w 27 5) (fld w 22 5) (fld w 10 12))
  | 0x020 => some (.add (hdrOf w) (grdOf w) (fld w 27 5) (fld w 22 5) (fld w 17 5))
  | 0x021 => some (.sub (hdrOf w) (grdOf w) (fld w 27 5) (fld w 22 5) (fld w 17 5))
  | 0x022 => some (.mul (hdrOf w) (grdOf w) (fld w 27 5) (fld w 22 5) (fld w 17 5))
  | 0x023 => some (.mulh (hdrOf w) (grdOf w) (fld w 27 5) (fld w 22 5) (fld w 17 5))
  | 0x024 => some (.mulhu (hdrOf w) (grdOf w) (fld w 27 5) (fld w 22 5) (fld w 17 5))
  | 0x025 => some (.div (hdrOf w) (grdOf w) (fld w 27 5) (fld w 22 5) (fld w 17 5))
  | 0x026 => some (.divu (hdrOf w) (grdOf w) (fld w 27 5) (fld w 22 5) (fld w 17 5))
  | 0x027 => some (.rem (hdrOf w) (grdOf w) (fld w 27 5) (fld w 22 5) (fld w 17 5))
  | 0x028 => some (.remu (hdrOf w) (grdOf w) (fld w 27 5) (fld w 22 5) (fld w 17 5))
  | 0x029 => some (.and (hdrOf w) (grdOf w) (fld w 27 5) (fld w 22 5) (fld w 17 5))
  | 0x02A => some (.or (hdrOf w) (grdOf w) (fld w 27 5) (fld w 22 5) (fld w 17 5))
  | 0x02B => some (.xor (hdrOf w) (grdOf w) (fld w 27 5) (fld w 22 5) (fld w 17 5))
  | 0x02C => some (.shl (hdrOf w) (grdOf w) (fld w 27 5) (fld w 22 5) (fld w 17 5))
  | 0x02D => some (.shr (hdrOf w) (grdOf w) (fld w 27 5) (fld w 22 5) (fld w 17 5))
  | 0x02E => some (.sar (hdrOf w) (grdOf w) (fld w 27 5) (fld w 22 5) (fld w 17 5))
  | 0x02F => some (.min (hdrOf w) (grdOf w) (fld w 27 5) (fld w 22 5) (fld w 17 5))
  | 0x030 => some (.minu (hdrOf w) (grdOf w) (fld w 27 5) (fld w 22 5) (fld w 17 5))
  | 0x031 => some (.max (hdrOf w) (grdOf w) (fld w 27 5) (fld w 22 5) (fld w 17 5))
  | 0x032 => some (.maxu (hdrOf w) (grdOf w) (fld w 27 5) (fld w 22 5) (fld w 17 5))
  | 0x033 => some (.sel (hdrOf w) (grdOf w) (fld w 27 5) (fld w 22 5) (fld w 17 5) (fld w 14 3))
  | 0x034 => some (.clz (hdrOf w) (grdOf w) (fld w 27 5) (fld w 22 5))
  | 0x035 => some (.ctz (hdrOf w) (grdOf w) (fld w 27 5) (fld w 22 5))
  | 0x036 => some (.popc (hdrOf w) (grdOf w) (fld w 27 5) (fld w 22 5))
  | 0x037 => some (.addi (hdrOf w) (grdOf w) (fld w 27 5) (fld w 22 5) (fld w 0 22))
  | 0x038 => some (.andi (hdrOf w) (grdOf w) (fld w 27 5) (fld w 22 5) (fld w 0 22))
  | 0x039 => some (.ori (hdrOf w) (grdOf w) (fld w 27 5) (fld w 22 5) (fld w 0 22))
  | 0x03A => some (.xori (hdrOf w) (grdOf w) (fld w 27 5) (fld w 22 5) (fld w 0 22))
  | 0x03B => some (.shli (hdrOf w) (grdOf w) (fld w 27 5) (fld w 22 5) (fld w 0 6))
  | 0x03C => some (.shri (hdrOf w) (grdOf w) (fld w 27 5) (fld w 22 5) (fld w 0 6))
  | 0x03D => some (.sari (hdrOf w) (grdOf w) (fld w 27 5) (fld w 22 5) (fld w 0 6))
  | 0x03E => some (.muli (hdrOf w) (grdOf w) (fld w 27 5) (fld w 22 5) (fld w 0 22))
  | 0x03F => some (.movi (hdrOf w) (fld w 31 5) (fld w 0 31))
  | 0x040 => some (.movhi (hdrOf w) (fld w 31 5) (fld w 0 31))
  | 0x041 => some (.ceq (hdrOf w) (grdOf w) (fld w 29 3) (fld w 22 5) (fld w 17 5))
  | 0x042 => some (.cne (hdrOf w) (grdOf w) (fld w 29 3) (fld w 22 5) (fld w 17 5))
  | 0x043 => some (.clt (hdrOf w) (grdOf w) (fld w 29 3) (fld w 22 5) (fld w 17 5))
  | 0x044 => some (.cltu (hdrOf w) (grdOf w) (fld w 29 3) (fld w 22 5) (fld w 17 5))
  | 0x045 => some (.cle (hdrOf w) (grdOf w) (fld w 29 3) (fld w 22 5) (fld w 17 5))
  | 0x046 => some (.cleu (hdrOf w) (grdOf w) (fld w 29 3) (fld w 22 5) (fld w 17 5))
  | 0x047 => some (.ceqi (hdrOf w) (grdOf w) (fld w 29 3) (fld w 22 5) (fld w 0 22))
  | 0x048 => some (.cnei (hdrOf w) (grdOf w) (fld w 29 3) (fld w 22 5) (fld w 0 22))
  | 0x049 => some (.clti (hdrOf w) (grdOf w) (fld w 29 3) (fld w 22 5) (fld w 0 22))
  | 0x04A => some (.cgei (hdrOf w) (grdOf w) (fld w 29 3) (fld w 22 5) (fld w 0 22))
  | 0x04B => some (.pand (hdrOf w) (grdOf w) (fld w 29 3) (fld w 24 3) (fld w 19 3))
  | 0x04C => some (.por (hdrOf w) (grdOf w) (fld w 29 3) (fld w 24 3) (fld w 19 3))
  | 0x04D => some (.pxor (hdrOf w) (grdOf w) (fld w 29 3) (fld w 24 3) (fld w 19 3))
  | 0x04E => some (.pandn (hdrOf w) (grdOf w) (fld w 29 3) (fld w 24 3) (fld w 19 3))
  | 0x04F => some (.pset (hdrOf w) (grdOf w) (fld w 29 3) (fld w 22 5))
  | 0x050 => some (.pget (hdrOf w) (grdOf w) (fld w 27 5) (fld w 24 3))
  | 0x051 => some (.fadd (hdrOf w) (grdOf w) (fld w 27 5) (fld w 22 5) (fld w 17 5) (fld w 15 2))
  | 0x052 => some (.fsub (hdrOf w) (grdOf w) (fld w 27 5) (fld w 22 5) (fld w 17 5) (fld w 15 2))
  | 0x053 => some (.fmul (hdrOf w) (grdOf w) (fld w 27 5) (fld w 22 5) (fld w 17 5) (fld w 15 2))
  | 0x054 => some (.ffma (hdrOf w) (grdOf w) (fld w 27 5) (fld w 22 5) (fld w 17 5) (fld w 15 2) (fld w 10 5))
  | 0x055 => some (.fmin (hdrOf w) (grdOf w) (fld w 27 5) (fld w 22 5) (fld w 17 5) (fld w 15 2))
  | 0x056 => some (.fmax (hdrOf w) (grdOf w) (fld w 27 5) (fld w 22 5) (fld w 17 5) (fld w 15 2))
  | 0x057 => some (.fcvt (hdrOf w) (grdOf w) (fld w 27 5) (fld w 22 5) (fld w 12 5) (fld w 7 5) (fld w 4 3) (flg w 3) (flg w 2))
  | 0x058 => some (.fceq (hdrOf w) (grdOf w) (fld w 29 3) (fld w 22 5) (fld w 17 5) (fld w 15 2))
  | 0x059 => some (.fclt (hdrOf w) (grdOf w) (fld w 29 3) (fld w 22 5) (fld w 17 5) (fld w 15 2))
  | 0x05A => some (.fcle (hdrOf w) (grdOf w) (fld w 29 3) (fld w 22 5) (fld w 17 5) (fld w 15 2))
  | 0x070 => some (.ldq (hdrOf w) (grdOf w) (fld w 28 4) (fld w 23 5) (fld w 18 5) (fld w 0 18))
  | 0x071 => some (.ldsq (hdrOf w) (grdOf w) (fld w 28 4) (fld w 23 5) (fld w 18 5) (fld w 13 5))
  | 0x072 => some (.stq (hdrOf w) (grdOf w) (fld w 28 4) (fld w 23 5) (fld w 18 5) (fld w 0 18))
  | 0x073 => some (.stsq (hdrOf w) (grdOf w) (fld w 28 4) (fld w 23 5) (fld w 18 5) (fld w 13 5))
  | 0x074 => some (.ldx (hdrOf w) (grdOf w) (fld w 27 5) (fld w 22 5) (fld w 20 2) (flg w 19) (fld w 0 19))
  | 0x075 => some (.stx (hdrOf w) (grdOf w) (fld w 27 5) (fld w 22 5) (fld w 20 2) (fld w 0 19))
  | 0x076 => some (.gather (hdrOf w) (grdOf w) (fld w 28 4) (fld w 24 4) (fld w 18 6) (fld w 13 5) (fld w 11 2))
  | 0x077 => some (.scatter (hdrOf w) (grdOf w) (fld w 28 4) (fld w 24 4) (fld w 18 6) (fld w 13 5) (fld w 11 2))
  | 0x078 => some (.scadd (hdrOf w) (grdOf w) (fld w 28 4) (fld w 24 4) (fld w 18 6) (fld w 13 5) (fld w 11 2))
  | 0x079 => some (.aadd (hdrOf w) (grdOf w) (fld w 27 5) (fld w 22 5) (fld w 17 5) (fld w 15 2) (fld w 12 3) (fld w 0 12))
  | 0x07A => some (.amin (hdrOf w) (grdOf w) (fld w 27 5) (fld w 22 5) (fld w 17 5) (fld w 15 2) (fld w 12 3) (fld w 0 12))
  | 0x07B => some (.amax (hdrOf w) (grdOf w) (fld w 27 5) (fld w 22 5) (fld w 17 5) (fld w 15 2) (fld w 12 3) (fld w 0 12))
  | 0x07C => some (.aand (hdrOf w) (grdOf w) (fld w 27 5) (fld w 22 5) (fld w 17 5) (fld w 15 2) (fld w 12 3) (fld w 0 12))
  | 0x07D => some (.aor (hdrOf w) (grdOf w) (fld w 27 5) (fld w 22 5) (fld w 17 5) (fld w 15 2) (fld w 12 3) (fld w 0 12))
  | 0x07E => some (.axor (hdrOf w) (grdOf w) (fld w 27 5) (fld w 22 5) (fld w 17 5) (fld w 15 2) (fld w 12 3) (fld w 0 12))
  | 0x07F => some (.axchg (hdrOf w) (grdOf w) (fld w 27 5) (fld w 22 5) (fld w 17 5) (fld w 15 2) (fld w 12 3) (fld w 0 12))
  | 0x080 => some (.acas (hdrOf w) (grdOf w) (fld w 27 5) (fld w 22 5) (fld w 17 5) (fld w 15 2) (fld w 12 3) (fld w 0 12))
  | 0x081 => some (.afadd (hdrOf w) (grdOf w) (fld w 27 5) (fld w 22 5) (fld w 17 5) (fld w 15 2) (fld w 12 3) (fld w 0 12))
  | 0x082 => some (.rprobe (hdrOf w) (grdOf w) (fld w 27 5) (fld w 22 5) (fld w 17 5) (fld w 15 2))
  | 0x083 => some (.lock (hdrOf w) (grdOf w) (fld w 27 5) (fld w 22 5) (fld w 17 5))
  | 0x084 => some (.unlock (hdrOf w) (grdOf w) (fld w 27 5) (fld w 22 5) (fld w 17 5))
  | 0x085 => some (.rwb (hdrOf w) (grdOf w) (fld w 22 5) (fld w 17 5) (fld w 14 3) (fld w 12 2))
  | 0x086 => some (.rinv (hdrOf w) (grdOf w) (fld w 22 5) (fld w 17 5) (fld w 14 3) (fld w 12 2))
  | 0x087 => some (.ubdisc (hdrOf w) (grdOf w) (fld w 22 5) (fld w 17 5) (fld w 14 3) (fld w 12 2))
  | 0x088 => some (.pref (hdrOf w) (grdOf w) (fld w 22 5) (fld w 17 5) (fld w 14 3) (fld w 12 2))
  | 0x089 => some (.msend (hdrOf w) (grdOf w) (fld w 28 4) (fld w 23 5) (fld w 18 5))
  | 0x08A => some (.acq (hdrOf w) (fld w 33 3))
  | 0x08B => some (.rel (hdrOf w) (fld w 33 3))
  | 0x08C => some (.phase (hdrOf w) (fld w 33 3))
  | 0x08D => some (.tdef (hdrOf w) (grdOf w) (fld w 26 6) (fld w 21 5))
  | 0x0A0 => some (.xcopy (hdrOf w) (grdOf w) (fld w 30 2) (fld w 24 6) (fld w 18 6) (fld w 14 4) (fld w 9 5) (fld w 4 5))
  | 0x0A1 => some (.xset (hdrOf w) (grdOf w) (fld w 28 4) (fld w 23 5))
  | 0x0A2 => some (.xchain (hdrOf w) (grdOf w) (fld w 30 2) (fld w 25 5))
  | 0x0A3 => some (.xstat (hdrOf w) (grdOf w) (fld w 27 5) (fld w 25 2))
  | 0x0A4 => some (.xcancel (hdrOf w) (grdOf w) (fld w 30 2))
  | 0x0A5 => some (.xfill (hdrOf w) (grdOf w) (fld w 24 6) (fld w 19 5) (fld w 14 5))
  | 0x0A6 => some (.tqin (hdrOf w) (grdOf w) (fld w 26 6) (fld w 20 6) (fld w 15 5))
  | 0x0A7 => some (.tqout (hdrOf w) (grdOf w) (fld w 26 6) (fld w 20 6) (fld w 15 5))
  | 0x0A8 => some (.pgmrow (hdrOf w) (grdOf w) (fld w 27 5) (fld w 21 6) (fld w 16 5) (fld w 11 5))
  | 0x0A9 => some (.pgmtile (hdrOf w) (grdOf w) (fld w 27 5) (fld w 21 6) (fld w 16 5) (fld w 11 5))
  | 0x0AA => some (.pgmstat (hdrOf w) (grdOf w) (fld w 27 5) (fld w 22 5))
  | 0x0AB => some (.pgmret (hdrOf w) (grdOf w) (fld w 27 5))
  | 0x0C0 => some (.mopen (hdrOf w) (grdOf w) (fld w 30 2) (flg w 29) (fld w 24 5))
  | 0x0C1 => some (.mma (hdrOf w) (grdOf w) (fld w 30 2) (fld w 24 6) (fld w 18 6) (fld w 13 5) (fld w 8 5) (flg w 7))
  | 0x0C2 => some (.tstart (hdrOf w) (grdOf w) (fld w 30 2) (fld w 24 2) (flg w 23) (fld w 18 5))
  | 0x0C3 => some (.tend (hdrOf w) (grdOf w) (fld w 30 2))
  | 0x0C4 => some (.mrd (hdrOf w) (grdOf w) (fld w 30 2) (fld w 24 6) (fld w 19 5) (fld w 16 3) (flg w 15) (flg w 14) (fld w 9 5))
  | 0x0C5 => some (.mcvt (hdrOf w) (grdOf w) (fld w 30 2) (fld w 25 5) (fld w 22 3) (flg w 21) (flg w 20))
  | 0x0C6 => some (.mchk (hdrOf w) (grdOf w) (fld w 27 5) (fld w 24 3) (fld w 22 2))
  | 0x0C7 => some (.seedscan (hdrOf w) (grdOf w) (fld w 30 2) (fld w 24 6) (fld w 19 5) (fld w 14 5) (fld w 10 4) (fld w 5 5))
  | 0x0C8 => some (.seedfit (hdrOf w) (grdOf w) (fld w 30 2) (fld w 24 6) (fld w 19 5) (fld w 15 4) (fld w 9 6) (fld w 4 5))
  | 0x0E0 => some (.vadd (hdrOf w) (grdOf w) (fld w 25 7) (fld w 18 7) (fld w 11 7) (fld w 8 3))
  | 0x0E1 => some (.vsub (hdrOf w) (grdOf w) (fld w 25 7) (fld w 18 7) (fld w 11 7) (fld w 8 3))
  | 0x0E2 => some (.vmul (hdrOf w) (grdOf w) (fld w 25 7) (fld w 18 7) (fld w 11 7) (fld w 8 3))
  | 0x0E3 => some (.vfma (hdrOf w) (grdOf w) (fld w 25 7) (fld w 18 7) (fld w 11 7) (fld w 8 3))
  | 0x0E4 => some (.vmin (hdrOf w) (grdOf w) (fld w 25 7) (fld w 18 7) (fld w 11 7) (fld w 8 3))
  | 0x0E5 => some (.vmax (hdrOf w) (grdOf w) (fld w 25 7) (fld w 18 7) (fld w 11 7) (fld w 8 3))
  | 0x0E6 => some (.vabs (hdrOf w) (grdOf w) (fld w 25 7) (fld w 18 7) (fld w 8 3))
  | 0x0E7 => some (.vneg (hdrOf w) (grdOf w) (fld w 25 7) (fld w 18 7) (fld w 8 3))
  | 0x0E8 => some (.vand (hdrOf w) (grdOf w) (fld w 25 7) (fld w 18 7) (fld w 11 7) (fld w 8 3))
  | 0x0E9 => some (.vor (hdrOf w) (grdOf w) (fld w 25 7) (fld w 18 7) (fld w 11 7) (fld w 8 3))
  | 0x0EA => some (.vxor (hdrOf w) (grdOf w) (fld w 25 7) (fld w 18 7) (fld w 11 7) (fld w 8 3))
  | 0x0EB => some (.vshl (hdrOf w) (grdOf w) (fld w 25 7) (fld w 18 7) (fld w 11 7) (fld w 8 3))
  | 0x0EC => some (.vshr (hdrOf w) (grdOf w) (fld w 25 7) (fld w 18 7) (fld w 11 7) (fld w 8 3))
  | 0x0ED => some (.vsar (hdrOf w) (grdOf w) (fld w 25 7) (fld w 18 7) (fld w 11 7) (fld w 8 3))
  | 0x0EE => some (.vcmp (hdrOf w) (grdOf w) (fld w 25 3) (fld w 18 7) (fld w 11 7) (fld w 8 3) (fld w 0 3))
  | 0x0EF => some (.vsel (hdrOf w) (grdOf w) (fld w 25 7) (fld w 18 7) (fld w 11 7) (fld w 8 3))
  | 0x0F0 => some (.vmov (hdrOf w) (grdOf w) (fld w 25 7) (fld w 18 7) (fld w 8 3))
  | 0x0F1 => some (.vbcast (hdrOf w) (grdOf w) (fld w 25 7) (fld w 20 5) (fld w 8 3))
  | 0x0F2 => some (.vcvt (hdrOf w) (grdOf w) (fld w 25 7) (fld w 18 7) (fld w 8 3) (fld w 5 3) (flg w 4) (flg w 3))
  | 0x0F3 => some (.vrnd (hdrOf w) (grdOf w) (fld w 25 7) (fld w 18 7) (fld w 8 3) (fld w 5 3) (flg w 4) (flg w 3))
  | 0x0F4 => some (.vred (hdrOf w) (grdOf w) (fld w 25 7) (fld w 18 7) (fld w 11 7) (fld w 8 3) (fld w 5 3) (fld w 0 5))
  | 0x0F5 => some (.vscan (hdrOf w) (grdOf w) (fld w 25 7) (fld w 18 7) (fld w 11 7) (fld w 8 3) (fld w 5 3) (fld w 0 5))
  | 0x0F6 => some (.vperm (hdrOf w) (grdOf w) (fld w 25 7) (fld w 18 7) (fld w 11 7) (fld w 8 3))
  | 0x0F7 => some (.vrot (hdrOf w) (grdOf w) (fld w 25 7) (fld w 18 7) (fld w 13 5) (fld w 8 3))
  | 0x0F8 => some (.vexp2 (hdrOf w) (grdOf w) (fld w 25 7) (fld w 18 7) (fld w 8 3))
  | 0x0F9 => some (.vlog2 (hdrOf w) (grdOf w) (fld w 25 7) (fld w 18 7) (fld w 8 3))
  | 0x0FA => some (.vrcp (hdrOf w) (grdOf w) (fld w 25 7) (fld w 18 7) (fld w 8 3))
  | 0x0FB => some (.vrsq (hdrOf w) (grdOf w) (fld w 25 7) (fld w 18 7) (fld w 8 3))
  | 0x0FC => some (.vsqrt (hdrOf w) (grdOf w) (fld w 25 7) (fld w 18 7) (fld w 8 3))
  | 0x0FD => some (.vtanh (hdrOf w) (grdOf w) (fld w 25 7) (fld w 18 7) (fld w 8 3))
  | 0x0FE => some (.vsigm (hdrOf w) (grdOf w) (fld w 25 7) (fld w 18 7) (fld w 8 3))
  | 0x0FF => some (.verf (hdrOf w) (grdOf w) (fld w 25 7) (fld w 18 7) (fld w 8 3))
  | 0x100 => some (.vsin (hdrOf w) (grdOf w) (fld w 25 7) (fld w 18 7) (fld w 8 3))
  | 0x101 => some (.vcos (hdrOf w) (grdOf w) (fld w 25 7) (fld w 18 7) (fld w 8 3))
  | 0x102 => some (.vpop (hdrOf w) (grdOf w) (fld w 25 7) (fld w 19 6))
  | 0x103 => some (.vpush (hdrOf w) (grdOf w) (fld w 26 6) (fld w 19 7))
  | 0x104 => some (.chain (hdrOf w) (grdOf w) (fld w 26 6) (fld w 20 6) (fld w 17 3) (fld w 12 5))
  | 0x105 => some (.mand (hdrOf w) (grdOf w) (fld w 29 3) (fld w 26 3) (fld w 23 3))
  | 0x106 => some (.mor (hdrOf w) (grdOf w) (fld w 29 3) (fld w 26 3) (fld w 23 3))
  | 0x107 => some (.mnot (hdrOf w) (grdOf w) (fld w 29 3) (fld w 26 3))
  | 0x108 => some (.mseti (hdrOf w) (grdOf w) (fld w 29 3) (fld w 16 13) (fld w 3 13))
  | 0x109 => some (.vget (hdrOf w) (grdOf w) (fld w 27 5) (fld w 20 7) (fld w 15 5))
  | 0x10A => some (.vput (hdrOf w) (grdOf w) (fld w 25 7) (fld w 20 5) (fld w 15 5))
  | 0x10B => some (.vsnap (hdrOf w) (grdOf w) (fld w 25 7) (fld w 18 7) (fld w 13 5))
  | 0x10C => some (.cset (hdrOf w) (grdOf w) (fld w 29 3) (fld w 24 5))
  | 0x130 => some (.launch (hdrOf w) (grdOf w) (fld w 27 5) (fld w 23 4) (fld w 18 5))
  | 0x131 => some (.depdec (hdrOf w) (grdOf w) (fld w 27 5) (fld w 22 5))
  | 0x132 => some (.depset (hdrOf w) (grdOf w) (fld w 27 5) (fld w 22 5) (fld w 17 5))
  | 0x133 => some (.depread (hdrOf w) (grdOf w) (fld w 27 5) (fld w 22 5))
  | 0x134 => some (.abort (hdrOf w) (grdOf w) (fld w 0 16))
  | 0x140 => some (.resume (hdrOf w) (grdOf w) (fld w 27 5))
  | 0x141 => some (.kill (hdrOf w) (grdOf w) (fld w 27 5))
  | 0x142 => some (.suspend (hdrOf w) (grdOf w) (fld w 27 5))
  | 0x143 => some (.tlbinv (hdrOf w) (grdOf w) (fld w 27 5) (fld w 22 5) (fld w 19 3))
  | 0x144 => some (.segset (hdrOf w) (grdOf w) (fld w 27 5) (fld w 22 5))
  | 0x145 => some (.frame (hdrOf w) (grdOf w) (fld w 27 5) (fld w 22 5))
  | 0x146 => some (.migrate (hdrOf w) (grdOf w) (fld w 27 5) (fld w 22 5))
  | 0x147 => some (.sysrd (hdrOf w) (grdOf w) (fld w 27 5) (fld w 22 5))
  | 0x148 => some (.syswr (hdrOf w) (grdOf w) (fld w 27 5) (fld w 22 5))
  | 0x149 => some (.eret (hdrOf w))
  | 0x14A => some (.routew (hdrOf w) (grdOf w) (fld w 27 5) (fld w 22 5))
  | 0x14B => some (.lockdown (hdrOf w) (grdOf w) (fld w 0 16))
  | _ => none

/-- Decoding of one word for the stream e: the checks of R82 in their order. -/
def decode (w : Word) (e : Issuer) : Except DecodeStop Instr :=
  match validity (opOf w).toNat with
  | none => .error .illegalOpcode
  | some v =>
    if 0x140 ≤ (opOf w).toNat ∧ (opOf w).toNat ≤ 0x14B ∧ e ≠ .sys then .error .priv
    else if e ∉ v then .error .illegalStream
    else if refusedBits w e ≠ 0 then .error (.illegalField (refusedBits w e))
    else if (formatFields w).any (fun f => decide (0x0E ≤ f.toNat)) then .error .fmtBad
    else match buildInstr w with
      | some i => .ok i
      | none => .error .illegalOpcode

/-- The little-endian word of eight bytes, and the bytes that follow (R76). -/
def takeWord : List Byte → Option (Word × List Byte)
  | b0 :: b1 :: b2 :: b3 :: b4 :: b5 :: b6 :: b7 :: r => some (b7 ++ b6 ++ b5 ++ b4 ++ b3 ++ b2 ++ b1 ++ b0, r)
  | _ => none

/-- Decoding of any bytes: one word and the rest, or a refusal by name. -/
def decodeBytes (l : List Byte) (e : Issuer) : Except DecodeStop (Instr × List Byte) :=
  match takeWord l with
  | none => .error .tooShort
  | some (w, r) =>
    match decode w e with
    | .ok i => .ok (i, r)
    | .error x => .error x

/-- The bytes of a word as instruction memory stores them (R76). -/
def wordBytes (w : Word) : List Byte := (List.range 8).map fun i => w.extractLsb' (8 * i) 8

/-- The first stream of R87's list in which the word's opcode is valid: the system core for the system group. -/
def someIssuer (w : Word) : Issuer :=
  match validity (opOf w).toNat with
  | some (e :: _) => e
  | _ => .eng .c

/-- The instruction the decoder reads from the table's bits w of a row: one 64-bit word, bits above nbits zero. -/
def decodeTableWord (nbits w : Nat) : Option Instr :=
  let word : Word := BitVec.ofNat 64 (w % 2 ^ min nbits 64)
  match decodeBytes (wordBytes word) (someIssuer word) with
  | .ok (i, _) => some i
  | .error _ => none

/-- A word from its header, opcode and low 36 bits (R75). -/
def packWord (h : Hdr) (op : BitVec 9) (body : BitVec 36) : Word :=
  h.idle ++ BitVec.ofBool h.sw ++ h.tkp ++ h.tks ++ op ++ body

/-- The low 36 bits of a layout with a guard (R78). -/
def guarded (g : Guard) (body : BitVec 32) : BitVec 36 := g.p ++ BitVec.ofBool g.pn ++ body

/-- The word of an instruction (R75, R89-R95); none for a step of the machine, which has no word. -/
def encode : Instr → Option Word
  | .nop h => some (packWord h 0x000#9 (0#36 : BitVec 36))
  | .prep h b off24 => some (packWord h 0x001#9 (b ++ 0#10 ++ off24 : BitVec 36))
  | .prepr h b s => some (packWord h 0x002#9 (b ++ s ++ 0#29 : BitVec 36))
  | .br h g b => some (packWord h 0x003#9 (guarded g (b ++ 0#30 : BitVec 32)))
  | .brl h g b => some (packWord h 0x004#9 (guarded g (b ++ 0#30 : BitVec 32)))
  | .loop h l s end16 => some (packWord h 0x005#9 (l ++ s ++ 0#13 ++ end16 : BitVec 36))
  | .loopi h l cnt18 end16 => some (packWord h 0x006#9 (l ++ cnt18 ++ end16 : BitVec 36))
  | .lbrk h g l => some (packWord h 0x007#9 (guarded g (l ++ 0#30 : BitVec 32)))
  | .endw h => some (packWord h 0x008#9 (0#36 : BitVec 36))
  | .hold h g cyc24 => some (packWord h 0x009#9 (guarded g (0#8 ++ cyc24 : BitVec 32)))
  | .trap h g code16 n => some (packWord h 0x00A#9 (guarded g (code16 ++ 0#13 ++ n : BitVec 32)))
  | .mark h g tag16 => some (packWord h 0x00B#9 (guarded g (0#16 ++ tag16 : BitVec 32)))
  | .tksend h eng cnt => some (packWord h 0x00C#9 (eng ++ cnt ++ 0#29 : BitVec 36))
  | .tkwait h eng cnt => some (packWord h 0x00D#9 (eng ++ cnt ++ 0#29 : BitVec 36))
  | .qpop h g d q size => some (packWord h 0x00E#9 (guarded g (d ++ q ++ size ++ 0#20 : BitVec 32)))
  | .qpush h g s q size => some (packWord h 0x00F#9 (guarded g (s ++ q ++ size ++ 0#20 : BitVec 32)))
  | .waitv h kind index cond mode arg => some (packWord h 0x010#9 (kind ++ index ++ cond ++ BitVec.ofBool mode ++ arg : BitVec 36))
  | .tsread h g d => some (packWord h 0x011#9 (guarded g (d ++ 0#27 : BitVec 32)))
  | .csrr h g d csrn => some (packWord h 0x012#9 (guarded g (d ++ 0#5 ++ csrn ++ 0#10 : BitVec 32)))
  | .csrw h g s csrn => some (packWord h 0x013#9 (guarded g (0#5 ++ s ++ csrn ++ 0#10 : BitVec 32)))
  | .csrx h g d s csrn => some (packWord h 0x014#9 (guarded g (d ++ s ++ csrn ++ 0#10 : BitVec 32)))
  | .add h g d s1 s2 => some (packWord h 0x020#9 (guarded g (d ++ s1 ++ s2 ++ 0#17 : BitVec 32)))
  | .sub h g d s1 s2 => some (packWord h 0x021#9 (guarded g (d ++ s1 ++ s2 ++ 0#17 : BitVec 32)))
  | .mul h g d s1 s2 => some (packWord h 0x022#9 (guarded g (d ++ s1 ++ s2 ++ 0#17 : BitVec 32)))
  | .mulh h g d s1 s2 => some (packWord h 0x023#9 (guarded g (d ++ s1 ++ s2 ++ 0#17 : BitVec 32)))
  | .mulhu h g d s1 s2 => some (packWord h 0x024#9 (guarded g (d ++ s1 ++ s2 ++ 0#17 : BitVec 32)))
  | .div h g d s1 s2 => some (packWord h 0x025#9 (guarded g (d ++ s1 ++ s2 ++ 0#17 : BitVec 32)))
  | .divu h g d s1 s2 => some (packWord h 0x026#9 (guarded g (d ++ s1 ++ s2 ++ 0#17 : BitVec 32)))
  | .rem h g d s1 s2 => some (packWord h 0x027#9 (guarded g (d ++ s1 ++ s2 ++ 0#17 : BitVec 32)))
  | .remu h g d s1 s2 => some (packWord h 0x028#9 (guarded g (d ++ s1 ++ s2 ++ 0#17 : BitVec 32)))
  | .and h g d s1 s2 => some (packWord h 0x029#9 (guarded g (d ++ s1 ++ s2 ++ 0#17 : BitVec 32)))
  | .or h g d s1 s2 => some (packWord h 0x02A#9 (guarded g (d ++ s1 ++ s2 ++ 0#17 : BitVec 32)))
  | .xor h g d s1 s2 => some (packWord h 0x02B#9 (guarded g (d ++ s1 ++ s2 ++ 0#17 : BitVec 32)))
  | .shl h g d s1 s2 => some (packWord h 0x02C#9 (guarded g (d ++ s1 ++ s2 ++ 0#17 : BitVec 32)))
  | .shr h g d s1 s2 => some (packWord h 0x02D#9 (guarded g (d ++ s1 ++ s2 ++ 0#17 : BitVec 32)))
  | .sar h g d s1 s2 => some (packWord h 0x02E#9 (guarded g (d ++ s1 ++ s2 ++ 0#17 : BitVec 32)))
  | .min h g d s1 s2 => some (packWord h 0x02F#9 (guarded g (d ++ s1 ++ s2 ++ 0#17 : BitVec 32)))
  | .minu h g d s1 s2 => some (packWord h 0x030#9 (guarded g (d ++ s1 ++ s2 ++ 0#17 : BitVec 32)))
  | .max h g d s1 s2 => some (packWord h 0x031#9 (guarded g (d ++ s1 ++ s2 ++ 0#17 : BitVec 32)))
  | .maxu h g d s1 s2 => some (packWord h 0x032#9 (guarded g (d ++ s1 ++ s2 ++ 0#17 : BitVec 32)))
  | .sel h g d s1 s2 sp => some (packWord h 0x033#9 (guarded g (d ++ s1 ++ s2 ++ sp ++ 0#14 : BitVec 32)))
  | .clz h g d s1 => some (packWord h 0x034#9 (guarded g (d ++ s1 ++ 0#22 : BitVec 32)))
  | .ctz h g d s1 => some (packWord h 0x035#9 (guarded g (d ++ s1 ++ 0#22 : BitVec 32)))
  | .popc h g d s1 => some (packWord h 0x036#9 (guarded g (d ++ s1 ++ 0#22 : BitVec 32)))
  | .addi h g d s1 imm22 => some (packWord h 0x037#9 (guarded g (d ++ s1 ++ imm22 : BitVec 32)))
  | .andi h g d s1 imm22 => some (packWord h 0x038#9 (guarded g (d ++ s1 ++ imm22 : BitVec 32)))
  | .ori h g d s1 imm22 => some (packWord h 0x039#9 (guarded g (d ++ s1 ++ imm22 : BitVec 32)))
  | .xori h g d s1 imm22 => some (packWord h 0x03A#9 (guarded g (d ++ s1 ++ imm22 : BitVec 32)))
  | .shli h g d s1 sh => some (packWord h 0x03B#9 (guarded g (d ++ s1 ++ 0#16 ++ sh : BitVec 32)))
  | .shri h g d s1 sh => some (packWord h 0x03C#9 (guarded g (d ++ s1 ++ 0#16 ++ sh : BitVec 32)))
  | .sari h g d s1 sh => some (packWord h 0x03D#9 (guarded g (d ++ s1 ++ 0#16 ++ sh : BitVec 32)))
  | .muli h g d s1 imm22 => some (packWord h 0x03E#9 (guarded g (d ++ s1 ++ imm22 : BitVec 32)))
  | .movi h d imm31 => some (packWord h 0x03F#9 (d ++ imm31 : BitVec 36))
  | .movhi h d imm31 => some (packWord h 0x040#9 (d ++ imm31 : BitVec 36))
  | .ceq h g pd s1 s2 => some (packWord h 0x041#9 (guarded g (pd ++ 0#2 ++ s1 ++ s2 ++ 0#17 : BitVec 32)))
  | .cne h g pd s1 s2 => some (packWord h 0x042#9 (guarded g (pd ++ 0#2 ++ s1 ++ s2 ++ 0#17 : BitVec 32)))
  | .clt h g pd s1 s2 => some (packWord h 0x043#9 (guarded g (pd ++ 0#2 ++ s1 ++ s2 ++ 0#17 : BitVec 32)))
  | .cltu h g pd s1 s2 => some (packWord h 0x044#9 (guarded g (pd ++ 0#2 ++ s1 ++ s2 ++ 0#17 : BitVec 32)))
  | .cle h g pd s1 s2 => some (packWord h 0x045#9 (guarded g (pd ++ 0#2 ++ s1 ++ s2 ++ 0#17 : BitVec 32)))
  | .cleu h g pd s1 s2 => some (packWord h 0x046#9 (guarded g (pd ++ 0#2 ++ s1 ++ s2 ++ 0#17 : BitVec 32)))
  | .ceqi h g pd s1 imm22 => some (packWord h 0x047#9 (guarded g (pd ++ 0#2 ++ s1 ++ imm22 : BitVec 32)))
  | .cnei h g pd s1 imm22 => some (packWord h 0x048#9 (guarded g (pd ++ 0#2 ++ s1 ++ imm22 : BitVec 32)))
  | .clti h g pd s1 imm22 => some (packWord h 0x049#9 (guarded g (pd ++ 0#2 ++ s1 ++ imm22 : BitVec 32)))
  | .cgei h g pd s1 imm22 => some (packWord h 0x04A#9 (guarded g (pd ++ 0#2 ++ s1 ++ imm22 : BitVec 32)))
  | .pand h g pd ps1 ps2 => some (packWord h 0x04B#9 (guarded g (pd ++ 0#2 ++ ps1 ++ 0#2 ++ ps2 ++ 0#19 : BitVec 32)))
  | .por h g pd ps1 ps2 => some (packWord h 0x04C#9 (guarded g (pd ++ 0#2 ++ ps1 ++ 0#2 ++ ps2 ++ 0#19 : BitVec 32)))
  | .pxor h g pd ps1 ps2 => some (packWord h 0x04D#9 (guarded g (pd ++ 0#2 ++ ps1 ++ 0#2 ++ ps2 ++ 0#19 : BitVec 32)))
  | .pandn h g pd ps1 ps2 => some (packWord h 0x04E#9 (guarded g (pd ++ 0#2 ++ ps1 ++ 0#2 ++ ps2 ++ 0#19 : BitVec 32)))
  | .pset h g pd s1 => some (packWord h 0x04F#9 (guarded g (pd ++ 0#2 ++ s1 ++ 0#22 : BitVec 32)))
  | .pget h g d ps1 => some (packWord h 0x050#9 (guarded g (d ++ ps1 ++ 0#24 : BitVec 32)))
  | .fadd h g d s1 s2 fmt2 => some (packWord h 0x051#9 (guarded g (d ++ s1 ++ s2 ++ fmt2 ++ 0#15 : BitVec 32)))
  | .fsub h g d s1 s2 fmt2 => some (packWord h 0x052#9 (guarded g (d ++ s1 ++ s2 ++ fmt2 ++ 0#15 : BitVec 32)))
  | .fmul h g d s1 s2 fmt2 => some (packWord h 0x053#9 (guarded g (d ++ s1 ++ s2 ++ fmt2 ++ 0#15 : BitVec 32)))
  | .ffma h g d s1 s2 fmt2 s3 => some (packWord h 0x054#9 (guarded g (d ++ s1 ++ s2 ++ fmt2 ++ s3 ++ 0#10 : BitVec 32)))
  | .fmin h g d s1 s2 fmt2 => some (packWord h 0x055#9 (guarded g (d ++ s1 ++ s2 ++ fmt2 ++ 0#15 : BitVec 32)))
  | .fmax h g d s1 s2 fmt2 => some (packWord h 0x056#9 (guarded g (d ++ s1 ++ s2 ++ fmt2 ++ 0#15 : BitVec 32)))
  | .fcvt h g d s1 from5 to5 rnd sat fin => some (packWord h 0x057#9 (guarded g (d ++ s1 ++ 0#5 ++ from5 ++ to5 ++ rnd ++ BitVec.ofBool sat ++ BitVec.ofBool fin ++ 0#2 : BitVec 32)))
  | .fceq h g pd s1 s2 fmt2 => some (packWord h 0x058#9 (guarded g (pd ++ 0#2 ++ s1 ++ s2 ++ fmt2 ++ 0#15 : BitVec 32)))
  | .fclt h g pd s1 s2 fmt2 => some (packWord h 0x059#9 (guarded g (pd ++ 0#2 ++ s1 ++ s2 ++ fmt2 ++ 0#15 : BitVec 32)))
  | .fcle h g pd s1 s2 fmt2 => some (packWord h 0x05A#9 (guarded g (pd ++ 0#2 ++ s1 ++ s2 ++ fmt2 ++ 0#15 : BitVec 32)))
  | .ldq h g q base len off18 => some (packWord h 0x070#9 (guarded g (q ++ base ++ len ++ off18 : BitVec 32)))
  | .ldsq h g q base shape stride => some (packWord h 0x071#9 (guarded g (q ++ base ++ shape ++ stride ++ 0#13 : BitVec 32)))
  | .stq h g q base len off18 => some (packWord h 0x072#9 (guarded g (q ++ base ++ len ++ off18 : BitVec 32)))
  | .stsq h g q base shape stride => some (packWord h 0x073#9 (guarded g (q ++ base ++ shape ++ stride ++ 0#13 : BitVec 32)))
  | .ldx h g d base size sx off19 => some (packWord h 0x074#9 (guarded g (d ++ base ++ size ++ BitVec.ofBool sx ++ off19 : BitVec 32)))
  | .stx h g s base size off19 => some (packWord h 0x075#9 (guarded g (s ++ base ++ size ++ 0#1 ++ off19 : BitVec 32)))
  | .gather h g dq iq tensor cnt isz => some (packWord h 0x076#9 (guarded g (dq ++ iq ++ tensor ++ cnt ++ isz ++ 0#11 : BitVec 32)))
  | .scatter h g dq iq tensor cnt isz => some (packWord h 0x077#9 (guarded g (dq ++ iq ++ tensor ++ cnt ++ isz ++ 0#11 : BitVec 32)))
  | .scadd h g dq iq tensor cnt isz => some (packWord h 0x078#9 (guarded g (dq ++ iq ++ tensor ++ cnt ++ isz ++ 0#11 : BitVec 32)))
  | .aadd h g d base s size scope off12 => some (packWord h 0x079#9 (guarded g (d ++ base ++ s ++ size ++ scope ++ off12 : BitVec 32)))
  | .amin h g d base s size scope off12 => some (packWord h 0x07A#9 (guarded g (d ++ base ++ s ++ size ++ scope ++ off12 : BitVec 32)))
  | .amax h g d base s size scope off12 => some (packWord h 0x07B#9 (guarded g (d ++ base ++ s ++ size ++ scope ++ off12 : BitVec 32)))
  | .aand h g d base s size scope off12 => some (packWord h 0x07C#9 (guarded g (d ++ base ++ s ++ size ++ scope ++ off12 : BitVec 32)))
  | .aor h g d base s size scope off12 => some (packWord h 0x07D#9 (guarded g (d ++ base ++ s ++ size ++ scope ++ off12 : BitVec 32)))
  | .axor h g d base s size scope off12 => some (packWord h 0x07E#9 (guarded g (d ++ base ++ s ++ size ++ scope ++ off12 : BitVec 32)))
  | .axchg h g d base s size scope off12 => some (packWord h 0x07F#9 (guarded g (d ++ base ++ s ++ size ++ scope ++ off12 : BitVec 32)))
  | .acas h g d base s size scope off12 => some (packWord h 0x080#9 (guarded g (d ++ base ++ s ++ size ++ scope ++ off12 : BitVec 32)))
  | .afadd h g d base s size scope off12 => some (packWord h 0x081#9 (guarded g (d ++ base ++ s ++ size ++ scope ++ off12 : BitVec 32)))
  | .rprobe h g d base len kind => some (packWord h 0x082#9 (guarded g (d ++ base ++ len ++ kind ++ 0#15 : BitVec 32)))
  | .lock h g d base len => some (packWord h 0x083#9 (guarded g (d ++ base ++ len ++ 0#17 : BitVec 32)))
  | .unlock h g d base len => some (packWord h 0x084#9 (guarded g (d ++ base ++ len ++ 0#17 : BitVec 32)))
  | .rwb h g base len scope level => some (packWord h 0x085#9 (guarded g (0#5 ++ base ++ len ++ scope ++ level ++ 0#12 : BitVec 32)))
  | .rinv h g base len scope level => some (packWord h 0x086#9 (guarded g (0#5 ++ base ++ len ++ scope ++ level ++ 0#12 : BitVec 32)))
  | .ubdisc h g base len scope level => some (packWord h 0x087#9 (guarded g (0#5 ++ base ++ len ++ scope ++ level ++ 0#12 : BitVec 32)))
  | .pref h g base len scope level => some (packWord h 0x088#9 (guarded g (0#5 ++ base ++ len ++ scope ++ level ++ 0#12 : BitVec 32)))
  | .msend h g q tgt bytes => some (packWord h 0x089#9 (guarded g (q ++ tgt ++ bytes ++ 0#18 : BitVec 32)))
  | .acq h scope => some (packWord h 0x08A#9 (scope ++ 0#33 : BitVec 36))
  | .rel h scope => some (packWord h 0x08B#9 (scope ++ 0#33 : BitVec 36))
  | .phase h scope => some (packWord h 0x08C#9 (scope ++ 0#33 : BitVec 36))
  | .tdef h g tensor s => some (packWord h 0x08D#9 (guarded g (tensor ++ s ++ 0#21 : BitVec 32)))
  | .xcopy h g k st dt xs sorg dorg => some (packWord h 0x0A0#9 (guarded g (k ++ st ++ dt ++ xs ++ sorg ++ dorg ++ 0#4 : BitVec 32)))
  | .xset h g xs s => some (packWord h 0x0A1#9 (guarded g (xs ++ s ++ 0#23 : BitVec 32)))
  | .xchain h g k head => some (packWord h 0x0A2#9 (guarded g (k ++ head ++ 0#25 : BitVec 32)))
  | .xstat h g d k => some (packWord h 0x0A3#9 (guarded g (d ++ k ++ 0#25 : BitVec 32)))
  | .xcancel h g k => some (packWord h 0x0A4#9 (guarded g (k ++ 0#30 : BitVec 32)))
  | .xfill h g dt val org => some (packWord h 0x0A5#9 (guarded g (0#2 ++ dt ++ val ++ org ++ 0#14 : BitVec 32)))
  | .tqin h g tq tensor org => some (packWord h 0x0A6#9 (guarded g (tq ++ tensor ++ org ++ 0#15 : BitVec 32)))
  | .tqout h g tq tensor org => some (packWord h 0x0A7#9 (guarded g (tq ++ tensor ++ org ++ 0#15 : BitVec 32)))
  | .pgmrow h g row tensor off dc => some (packWord h 0x0A8#9 (guarded g (row ++ tensor ++ off ++ dc ++ 0#11 : BitVec 32)))
  | .pgmtile h g idx tensor kl dc => some (packWord h 0x0A9#9 (guarded g (idx ++ tensor ++ kl ++ dc ++ 0#11 : BitVec 32)))
  | .pgmstat h g d tag => some (packWord h 0x0AA#9 (guarded g (d ++ tag ++ 0#22 : BitVec 32)))
  | .pgmret h g prow => some (packWord h 0x0AB#9 (guarded g (prow ++ 0#27 : BitVec 32)))
  | .mopen h g z zf type5 => some (packWord h 0x0C0#9 (guarded g (z ++ BitVec.ofBool zf ++ type5 ++ 0#24 : BitVec 32)))
  | .mma h g z ta tb idx kr ck => some (packWord h 0x0C1#9 (guarded g (z ++ ta ++ tb ++ idx ++ kr ++ BitVec.ofBool ck ++ 0#7 : BitVec 32)))
  | .tstart h g z k we thr => some (packWord h 0x0C2#9 (guarded g (z ++ 0#4 ++ k ++ BitVec.ofBool we ++ thr ++ 0#18 : BitVec 32)))
  | .tend h g z => some (packWord h 0x0C3#9 (guarded g (z ++ 0#30 : BitVec 32)))
  | .mrd h g z dt fmt rnd sat fin org => some (packWord h 0x0C4#9 (guarded g (z ++ dt ++ fmt ++ rnd ++ BitVec.ofBool sat ++ BitVec.ofBool fin ++ org ++ 0#9 : BitVec 32)))
  | .mcvt h g z fmt rnd sat fin => some (packWord h 0x0C5#9 (guarded g (z ++ fmt ++ rnd ++ BitVec.ofBool sat ++ BitVec.ofBool fin ++ 0#20 : BitVec 32)))
  | .mchk h g d pd z => some (packWord h 0x0C6#9 (guarded g (d ++ pd ++ z ++ 0#22 : BitVec 32)))
  | .seedscan h g z tt fs cnt j1 d => some (packWord h 0x0C7#9 (guarded g (z ++ tt ++ fs ++ cnt ++ j1 ++ d ++ 0#5 : BitVec 32)))
  | .seedfit h g z tt seed j1 rt d => some (packWord h 0x0C8#9 (guarded g (z ++ tt ++ seed ++ j1 ++ rt ++ d ++ 0#4 : BitVec 32)))
  | .vadd h g vd vs1 vs2 mask => some (packWord h 0x0E0#9 (guarded g (vd ++ vs1 ++ vs2 ++ mask ++ 0#8 : BitVec 32)))
  | .vsub h g vd vs1 vs2 mask => some (packWord h 0x0E1#9 (guarded g (vd ++ vs1 ++ vs2 ++ mask ++ 0#8 : BitVec 32)))
  | .vmul h g vd vs1 vs2 mask => some (packWord h 0x0E2#9 (guarded g (vd ++ vs1 ++ vs2 ++ mask ++ 0#8 : BitVec 32)))
  | .vfma h g vd vs1 vs2 mask => some (packWord h 0x0E3#9 (guarded g (vd ++ vs1 ++ vs2 ++ mask ++ 0#8 : BitVec 32)))
  | .vmin h g vd vs1 vs2 mask => some (packWord h 0x0E4#9 (guarded g (vd ++ vs1 ++ vs2 ++ mask ++ 0#8 : BitVec 32)))
  | .vmax h g vd vs1 vs2 mask => some (packWord h 0x0E5#9 (guarded g (vd ++ vs1 ++ vs2 ++ mask ++ 0#8 : BitVec 32)))
  | .vabs h g vd vs1 mask => some (packWord h 0x0E6#9 (guarded g (vd ++ vs1 ++ 0#7 ++ mask ++ 0#8 : BitVec 32)))
  | .vneg h g vd vs1 mask => some (packWord h 0x0E7#9 (guarded g (vd ++ vs1 ++ 0#7 ++ mask ++ 0#8 : BitVec 32)))
  | .vand h g vd vs1 vs2 mask => some (packWord h 0x0E8#9 (guarded g (vd ++ vs1 ++ vs2 ++ mask ++ 0#8 : BitVec 32)))
  | .vor h g vd vs1 vs2 mask => some (packWord h 0x0E9#9 (guarded g (vd ++ vs1 ++ vs2 ++ mask ++ 0#8 : BitVec 32)))
  | .vxor h g vd vs1 vs2 mask => some (packWord h 0x0EA#9 (guarded g (vd ++ vs1 ++ vs2 ++ mask ++ 0#8 : BitVec 32)))
  | .vshl h g vd vs1 vs2 mask => some (packWord h 0x0EB#9 (guarded g (vd ++ vs1 ++ vs2 ++ mask ++ 0#8 : BitVec 32)))
  | .vshr h g vd vs1 vs2 mask => some (packWord h 0x0EC#9 (guarded g (vd ++ vs1 ++ vs2 ++ mask ++ 0#8 : BitVec 32)))
  | .vsar h g vd vs1 vs2 mask => some (packWord h 0x0ED#9 (guarded g (vd ++ vs1 ++ vs2 ++ mask ++ 0#8 : BitVec 32)))
  | .vcmp h g md vs1 vs2 mask cond => some (packWord h 0x0EE#9 (guarded g (0#4 ++ md ++ vs1 ++ vs2 ++ mask ++ 0#5 ++ cond : BitVec 32)))
  | .vsel h g vd vs1 vs2 mask => some (packWord h 0x0EF#9 (guarded g (vd ++ vs1 ++ vs2 ++ mask ++ 0#8 : BitVec 32)))
  | .vmov h g vd vs1 mask => some (packWord h 0x0F0#9 (guarded g (vd ++ vs1 ++ 0#7 ++ mask ++ 0#8 : BitVec 32)))
  | .vbcast h g vd val mask => some (packWord h 0x0F1#9 (guarded g (vd ++ val ++ 0#9 ++ mask ++ 0#8 : BitVec 32)))
  | .vcvt h g vd vs1 mask rnd sat fin => some (packWord h 0x0F2#9 (guarded g (vd ++ vs1 ++ 0#7 ++ mask ++ rnd ++ BitVec.ofBool sat ++ BitVec.ofBool fin ++ 0#3 : BitVec 32)))
  | .vrnd h g vd vs1 mask rnd sat fin => some (packWord h 0x0F3#9 (guarded g (vd ++ vs1 ++ 0#7 ++ mask ++ rnd ++ BitVec.ofBool sat ++ BitVec.ofBool fin ++ 0#3 : BitVec 32)))
  | .vred h g vd vs1 vs2 mask opr seg => some (packWord h 0x0F4#9 (guarded g (vd ++ vs1 ++ vs2 ++ mask ++ opr ++ seg : BitVec 32)))
  | .vscan h g vd vs1 vs2 mask opr seg => some (packWord h 0x0F5#9 (guarded g (vd ++ vs1 ++ vs2 ++ mask ++ opr ++ seg : BitVec 32)))
  | .vperm h g vd vs1 vs2 mask => some (packWord h 0x0F6#9 (guarded g (vd ++ vs1 ++ vs2 ++ mask ++ 0#8 : BitVec 32)))
  | .vrot h g vd vs1 amt mask => some (packWord h 0x0F7#9 (guarded g (vd ++ vs1 ++ amt ++ 0#2 ++ mask ++ 0#8 : BitVec 32)))
  | .vexp2 h g vd vs1 mask => some (packWord h 0x0F8#9 (guarded g (vd ++ vs1 ++ 0#7 ++ mask ++ 0#8 : BitVec 32)))
  | .vlog2 h g vd vs1 mask => some (packWord h 0x0F9#9 (guarded g (vd ++ vs1 ++ 0#7 ++ mask ++ 0#8 : BitVec 32)))
  | .vrcp h g vd vs1 mask => some (packWord h 0x0FA#9 (guarded g (vd ++ vs1 ++ 0#7 ++ mask ++ 0#8 : BitVec 32)))
  | .vrsq h g vd vs1 mask => some (packWord h 0x0FB#9 (guarded g (vd ++ vs1 ++ 0#7 ++ mask ++ 0#8 : BitVec 32)))
  | .vsqrt h g vd vs1 mask => some (packWord h 0x0FC#9 (guarded g (vd ++ vs1 ++ 0#7 ++ mask ++ 0#8 : BitVec 32)))
  | .vtanh h g vd vs1 mask => some (packWord h 0x0FD#9 (guarded g (vd ++ vs1 ++ 0#7 ++ mask ++ 0#8 : BitVec 32)))
  | .vsigm h g vd vs1 mask => some (packWord h 0x0FE#9 (guarded g (vd ++ vs1 ++ 0#7 ++ mask ++ 0#8 : BitVec 32)))
  | .verf h g vd vs1 mask => some (packWord h 0x0FF#9 (guarded g (vd ++ vs1 ++ 0#7 ++ mask ++ 0#8 : BitVec 32)))
  | .vsin h g vd vs1 mask => some (packWord h 0x100#9 (guarded g (vd ++ vs1 ++ 0#7 ++ mask ++ 0#8 : BitVec 32)))
  | .vcos h g vd vs1 mask => some (packWord h 0x101#9 (guarded g (vd ++ vs1 ++ 0#7 ++ mask ++ 0#8 : BitVec 32)))
  | .vpop h g vd q6 => some (packWord h 0x102#9 (guarded g (vd ++ q6 ++ 0#19 : BitVec 32)))
  | .vpush h g q6 vs => some (packWord h 0x103#9 (guarded g (q6 ++ vs ++ 0#19 : BitVec 32)))
  | .chain h g iq6 oq6 ct cnt => some (packWord h 0x104#9 (guarded g (iq6 ++ oq6 ++ ct ++ cnt ++ 0#12 : BitVec 32)))
  | .mand h g md ms1 ms2 => some (packWord h 0x105#9 (guarded g (md ++ ms1 ++ ms2 ++ 0#23 : BitVec 32)))
  | .mor h g md ms1 ms2 => some (packWord h 0x106#9 (guarded g (md ++ ms1 ++ ms2 ++ 0#23 : BitVec 32)))
  | .mnot h g md ms1 => some (packWord h 0x107#9 (guarded g (md ++ ms1 ++ 0#26 : BitVec 32)))
  | .mseti h g md first count => some (packWord h 0x108#9 (guarded g (md ++ first ++ count ++ 0#3 : BitVec 32)))
  | .vget h g d vs lane => some (packWord h 0x109#9 (guarded g (d ++ vs ++ lane ++ 0#15 : BitVec 32)))
  | .vput h g vd val lane => some (packWord h 0x10A#9 (guarded g (vd ++ val ++ lane ++ 0#15 : BitVec 32)))
  | .vsnap h g vd vs d => some (packWord h 0x10B#9 (guarded g (vd ++ vs ++ d ++ 0#13 : BitVec 32)))
  | .cset h g ct s => some (packWord h 0x10C#9 (guarded g (ct ++ s ++ 0#24 : BitVec 32)))
  | .launch h g rec lq d => some (packWord h 0x130#9 (guarded g (rec ++ lq ++ d ++ 0#18 : BitVec 32)))
  | .depdec h g ctr amt => some (packWord h 0x131#9 (guarded g (ctr ++ amt ++ 0#22 : BitVec 32)))
  | .depset h g ctr val lrec => some (packWord h 0x132#9 (guarded g (ctr ++ val ++ lrec ++ 0#17 : BitVec 32)))
  | .depread h g d ctr => some (packWord h 0x133#9 (guarded g (d ++ ctr ++ 0#22 : BitVec 32)))
  | .abort h g code => some (packWord h 0x134#9 (guarded g (0#16 ++ code : BitVec 32)))
  | .resume h g hreg => some (packWord h 0x140#9 (guarded g (hreg ++ 0#27 : BitVec 32)))
  | .kill h g hreg => some (packWord h 0x141#9 (guarded g (hreg ++ 0#27 : BitVec 32)))
  | .suspend h g hreg => some (packWord h 0x142#9 (guarded g (hreg ++ 0#27 : BitVec 32)))
  | .tlbinv h g cb rng scope => some (packWord h 0x143#9 (guarded g (cb ++ rng ++ scope ++ 0#19 : BitVec 32)))
  | .segset h g cb s => some (packWord h 0x144#9 (guarded g (cb ++ s ++ 0#22 : BitVec 32)))
  | .frame h g va fs => some (packWord h 0x145#9 (guarded g (va ++ fs ++ 0#22 : BitVec 32)))
  | .migrate h g buf die => some (packWord h 0x146#9 (guarded g (buf ++ die ++ 0#22 : BitVec 32)))
  | .sysrd h g d addr => some (packWord h 0x147#9 (guarded g (d ++ addr ++ 0#22 : BitVec 32)))
  | .syswr h g val addr => some (packWord h 0x148#9 (guarded g (val ++ addr ++ 0#22 : BitVec 32)))
  | .eret h => some (packWord h 0x149#9 (0#36 : BitVec 36))
  | .routew h g idx s => some (packWord h 0x14A#9 (guarded g (idx ++ s ++ 0#22 : BitVec 32)))
  | .lockdown h g mask16 => some (packWord h 0x14B#9 (guarded g (0#16 ++ mask16 : BitVec 32)))
  | .holdExpire _ _ _ _ => none
  | .evtheadRead _ => none
  | .indexStep _ _ _ => none
  | .releaseDone _ _ => none
  | .channelAccept _ _ _ => none
  | .channelGranule _ _ _ _ _ => none
  | .recordRun _ _ _ _ _ => none
  | .recordDone _ _ _ _ => none
  | .tqWaitEnd _ _ _ => none
  | .pgmAccept _ _ _ => none
  | .pgmRequestStart _ _ => none
  | .pgmIteration _ _ _ => none
  | .govWindow _ _ => none
  | .pgmRate _ _ => none
  | .mmaStart _ _ => none
  | .mmaKstep _ _ => none
  | .tendCheck _ _ _ => none
  | .chainRow _ _ _ => none
  | .counterDecrement _ => none
  | .abortComplete _ _ => none
  | .killComplete _ _ => none
  | .segsetApply _ => none
  | .migrateMove _ => none
  | .registerWrite _ _ _ => none
  | .tqBindingWrite _ _ _ _ => none
  | .mqBindingWrite _ _ _ _ _ => none
  | .monitorClear _ _ => none
  | .fenceWrite _ _ => none
  | .lqTailWrite _ _ _ => none
  | .hostRingPull _ _ => none
  | .onZeroEnqueue _ => none
  | .launchCheck _ _ => none
  | .launchReady _ _ => none
  | .dispatch _ => none
  | .priorityAge _ => none
  | .jobStart _ _ => none
  | .preempt _ => none
  | .jobSave _ _ => none
  | .jobRestore _ _ => none
  | .jobRetire _ _ => none
  | .jobStall _ _ => none
  | .stopDelivery _ _ => none
  | .eventEnter _ => none
  | .systemCoreWake _ => none
  | .mqCreditRequest _ _ _ => none
  | .mqAppend _ _ _ => none
  | .mqHeadWrite _ _ _ _ => none
  | .msendCredit _ _ _ => none
  | .monitorSample _ _ _ _ => none
  | .droopAlarm _ _ _ => none
  | .throttleEnd _ _ => none
  | .powerWindow _ _ => none
  | .thermalSample _ _ => none
  | .rowGroupRefresh _ _ => none
  | .rowgroupSpare _ _ => none
  | .laneRepair _ _ => none
  | .dieFence _ => none
  | .dieLoss _ _ => none
  | .linkDown _ _ => none
  | .linkUp _ => none
  | .linkFailureNotice _ _ _ => none
  | .packetIngress _ _ => none
  | .auditReplay _ _ _ => none
  | .coreSpared _ _ _ => none
  | .hostMemAccess _ _ _ => none
  | .hostSnoop _ _ => none
  | .hsdataRead => none
  | .hsdataWrite _ => none
  | .getVersion _ => none
  | .getCapabilities _ => none
  | .negotiateAlgorithms _ => none
  | .getDigests _ => none
  | .getCertificate _ => none
  | .challenge _ => none
  | .getMeasurements _ => none
  | .keyExchange _ _ _ => none
  | .finish _ _ => none
  | .fabricManagerWrite _ _ _ => none
  | .measurementExtend _ _ _ => none
  | .packageReset _ => none
  | .firmwareVerify _ _ _ => none
  | .recoveryImage _ => none
  | .powerLoss => none
  | .dataReturn _ _ _ => none
  | .writeAcknowledgement _ _ => none
  | .resultLanding _ _ => none

end Sys2Proof
end

