-- ==== Sys2Proof/Config.lean ====
section
/-! DEFINITION. What an implementation fixes, and the free values: opaque constants, so that no proof can see what they are
(notes/assumptions/2.md, 3.md, 7.md, 8.md, 12.md, 13.md). -/

namespace Sys2Proof.Config

/-- A free value: the n-th value drawn at the k-th choice point of one step (log 3). Used with mod, as a choice among the outcomes the spec allows. -/
opaque freeNat : Nat → Nat → Nat
/-- Frames of 4 KiB a die's LPDDR6 holds: 96 GB (R15, R405), decimal because R5 gives GB as 10^9 (log 2, DEDUCED). -/
def framesPerDie : Nat := 23437500
/-- The understory row group a line lies in: its place is not architected (R363, log 27). -/
opaque rowGroup : Nat → Nat
/-- The fused package identity (R406, log 8). -/
opaque fusedIdentity : BitVec 13
/-- The identity words of BAR0, by offset and package identity: vendor, device, revision (R399, log 8). -/
opaque identityWord : Nat → BitVec 13 → BitVec 64
/-- The fused hash of the firmware key (R410, log 13). -/
opaque firmwareKey : List Byte
/-- The fused minimum security version of firmware (R410, log 13). -/
opaque minVersion : Nat
/-- The fused FMROOT (R412, log 13). -/
opaque fmRoot : BitVec 512
/-- The device secret and certificate chain as fused (R411, log 13). -/
opaque certificate : List Byte
/-- SLH-DSA-SHAKE-256s verification: key, message, signature (R410, log 13). -/
opaque slhVerify : List Byte → List Byte → List Byte → Bool
/-- SLH-DSA-SHAKE-256s signature under the device key (R411, log 13). -/
opaque slhSign : List Byte → List Byte
/-- The boot ROM's bytes (R410, R411, log 13). -/
opaque bootRom : List Byte
/-- The state of the fuses as measured (R411, log 13). -/
opaque fuseState : List Byte
/-- Session secrets an SPDM key exchange derives (R411, R412, log 14). -/
opaque sessionKey : Nat → List Byte → List Byte
/-- Does a FINISH request prove the session key over the transcript (R411, R412, log 14)? -/
opaque finishProves : List Byte → List Byte → List Byte → Bool
/-- GOVFUSE, the fused programming ceiling (R281). -/
def govFuse : Nat := 8192
/-- PLFUSE, the fused power limit of a die in W (R414). -/
def plFuse : Nat := 650
/-- TTRIP, the fused trip temperature in degrees C (R414). -/
def tTrip : Nat := 125
/-- The bits of a W1024 element that VRND rounds to an infinite class: a function of the element and the mode (log 88). -/
opaque wideInfinite : Nat → Nat → BitVec 1024
/-- An element that an MMA reads beside its tensor's edge out of a queue whose K-step does not hold the nearest inside element: a function of
the K-step's bytes and the element's place (log 89). -/
opaque queueEdge : List (BitVec 8) → Nat → Nat
/-- Which 16 MiB of the queue, counter and monitor registers' 4 GiB the audit log stands at, modulo 256 (R213, R396; log 60). -/
opaque auditPage : Nat
/-- Bytes of a packet besides the data it carries, which EGRATE counts too (R413, log 118). -/
opaque packetHeader : Nat
/-- The last certificate of a chain, its root; the form of a chain is not in the spec (R412, log 14). -/
opaque rootCertificate : List Byte → List Byte
/-- A special function whose enclosure did not settle the rounding (log 12). -/
opaque specialFallback : Nat → Nat → BitVec 32

end Sys2Proof.Config
end

