-- ==== Sys2Proof/Machine/Cause.lean ====
section
/-! DEFINITION. The 128 cause codes with their classes (spec/09_registers_control.md R205), and a stop (spec/04_encoding.md R80). -/

namespace Sys2Proof.Machine

/-- The causes of R205, in code order. -/
inductive Cause where
  | illegalOpcode
  | illegalStream
  | illegalField
  | priv
  | badTarget
  | loopNest
  | csrBad
  | csrRo
  | jobStall
  | tokenOver
  | queueCfg
  | descBad
  | ifetchUe
  | ctxBad
  | locked
  | stateUe
  | typeBad
  | fmtBad
  | laneRange
  | xspecBad
  | shapeBad
  | pitchBad
  | edgeFault
  | convBad
  | elemSize
  | scaleRange
  | qfmtAlign
  | indexFmt
  | originRange
  | countRange
  | lenRange
  | tensorSpace
  | accBusy
  | bankConflict
  | tensorBad
  | tensorAlign
  | tileRange
  | seedZero
  | abftMismatch
  | windowBad
  | kstepRange
  | canopyCol
  | seedRec
  | windowLeft
  | arrayFault
  | replayed
  | tilecacheCe
  | zeroSub
  | xlateFatal
  | probeFault
  | protFatal
  | probeProt
  | ubReserve
  | ubOverflow
  | ubNoframe
  | ubLost
  | remoteGone
  | align
  | segBad
  | partition
  | ubLate
  | remoteDrop
  | atomicKind
  | frameLow
  | copyUe
  | copyDecode
  | compressOver
  | chainBad
  | mqBad
  | tqBad
  | retainOver
  | recordBad
  | queueUe
  | tqUe
  | channelBusy
  | launchRec
  | copyPoison
  | queueLeft
  | msgSize
  | copyIdle
  | canopyCe
  | canopyUe
  | dirBad
  | pgmRate
  | pgmPriv
  | pgmVerify
  | rowRetired
  | poolEmpty
  | poolLow
  | wearLimit
  | treeUe
  | swingBad
  | recordCheck
  | pgmRange
  | canopyHot
  | pgmCancelled
  | ueConsumed
  | poison
  | auditMismatch
  | coreQuarantine
  | spCe
  | usCe
  | lpCe
  | laneRepair
  | coreSpared
  | rowgroupSpared
  | refreshHot
  | thermalTrip
  | powerCap
  | droop
  | auditSkip
  | lpddrRepair
  | swTrap0
  | swTrap1
  | swTrap2
  | swTrap3
  | swTrap4
  | swTrap5
  | swTrap6
  | swTrap7
  | preempt
  | suspendReq
  | dieLost
  | aborted
  | killed
  | depRange
  | eventOver
  | machineCheck
  deriving DecidableEq, Repr

/-- R: restartable, F: fatal, N: notice (R205). -/
inductive CauseClass where
  | restartable | fatal | notice
  deriving DecidableEq, Repr

/-- The 7-bit code of a cause (R205): the causes are listed in code order. -/
def Cause.code (c : Cause) : BitVec 7 := BitVec.ofNat 7 c.ctorIdx

/-- The class of a cause (R205). -/
def Cause.cls : Cause → CauseClass
  | .jobStall | .probeFault | .probeProt | .ubReserve | .ubNoframe | .copyUe | .copyDecode | .pgmRate | .swTrap0 | .swTrap1 | .swTrap2 | .swTrap3 | .swTrap4 | .swTrap5 | .swTrap6 | .swTrap7 | .preempt | .suspendReq | .eventOver => .restartable
  | .replayed | .tilecacheCe | .zeroSub | .remoteGone | .ubLate | .remoteDrop | .frameLow | .copyPoison | .queueLeft | .copyIdle | .canopyCe | .rowRetired | .poolLow | .wearLimit | .canopyHot | .pgmCancelled | .spCe | .usCe | .lpCe | .laneRepair | .coreSpared | .rowgroupSpared | .refreshHot | .powerCap | .droop | .auditSkip | .lpddrRepair => .notice
  | .illegalOpcode | .illegalStream | .illegalField | .priv | .badTarget | .loopNest | .csrBad | .csrRo | .tokenOver | .queueCfg | .descBad | .ifetchUe | .ctxBad | .locked | .stateUe | .typeBad | .fmtBad | .laneRange | .xspecBad | .shapeBad | .pitchBad | .edgeFault | .convBad | .elemSize | .scaleRange | .qfmtAlign | .indexFmt | .originRange | .countRange | .lenRange | .tensorSpace | .accBusy | .bankConflict | .tensorBad | .tensorAlign | .tileRange | .seedZero | .abftMismatch | .windowBad | .kstepRange | .canopyCol | .seedRec | .windowLeft | .arrayFault | .xlateFatal | .protFatal | .ubOverflow | .ubLost | .align | .segBad | .partition | .atomicKind | .compressOver | .chainBad | .mqBad | .tqBad | .retainOver | .recordBad | .queueUe | .tqUe | .channelBusy | .launchRec | .msgSize | .canopyUe | .dirBad | .pgmPriv | .pgmVerify | .poolEmpty | .treeUe | .swingBad | .recordCheck | .pgmRange | .ueConsumed | .poison | .auditMismatch | .coreQuarantine | .thermalTrip | .dieLost | .aborted | .killed | .depRange | .machineCheck => .fatal

/-- Is the cause fatal? -/
def Cause.fatal (c : Cause) : Bool := c.cls == .fatal

/-- The class of a cause code, as bit FATAL shows it (R205): every code but the restartable ones and the notices is fatal. -/
def fatalCode (c : BitVec 7) : Bool :=
  !([0x08, 0x31, 0x33, 0x34, 0x36, 0x40, 0x41, 0x53, 0x70, 0x71, 0x72, 0x73, 0x74, 0x75, 0x76, 0x77, 0x78, 0x79, 0x7E,
    0x2D, 0x2E, 0x2F, 0x38, 0x3C, 0x3D, 0x3F, 0x4C, 0x4D, 0x4F, 0x50, 0x56, 0x58, 0x59, 0x5E, 0x5F, 0x64, 0x65, 0x66, 0x67, 0x68,
    0x69, 0x6A, 0x6C, 0x6D, 0x6E, 0x6F] : List Nat).contains c.toNat

/-- SW_TRAP0 + n (R117). -/
def swTrap (n : BitVec 3) : Cause :=
  match n.toNat with
  | 0 => .swTrap0 | 1 => .swTrap1 | 2 => .swTrap2 | 3 => .swTrap3 | 4 => .swTrap4 | 5 => .swTrap5 | 6 => .swTrap6 | _ => .swTrap7

/-- A stop: its cause and its info of up to 128 bits (R80), in two halves, as far as the spec gives them (log 38). -/
structure Stop where
  cause : Cause
  info0 : Option Word := none
  info1 : Option Word := none
  deriving DecidableEq, Repr

end Sys2Proof.Machine
end

