-- ==== Sys2Proof/Machine/Map.lean ====
section
/-! DEFINITION. Sparse tables by number, and byte memories in one canonical form: addresses strictly rising, no entry equal to what an
unlisted address reads as, which is 0 (notes/assumptions/1.md). -/

namespace Sys2Proof.Machine

/-- A sparse table: keys strictly rising. -/
abbrev Map (α : Type) := List (Nat × α)

/-- The entry at a key. -/
def Map.get? {α : Type} : Map α → Nat → Option α
  | [], _ => none
  | (k, v) :: r, n => if k = n then some v else if n < k then none else Map.get? r n

/-- The entry at a key, or a default. -/
def Map.getD {α : Type} (m : Map α) (n : Nat) (d : α) : α := (m.get? n).getD d

/-- Writes an entry. -/
def Map.put {α : Type} : Map α → Nat → α → Map α
  | [], n, a => [(n, a)]
  | (k, v) :: r, n, a => if n < k then (n, a) :: (k, v) :: r else if k = n then (n, a) :: r else (k, v) :: Map.put r n a

/-- Removes an entry. -/
def Map.del {α : Type} (m : Map α) (n : Nat) : Map α := m.filter fun e => e.1 != n

/-- Changes the element at a position; beyond the end nothing happens. -/
def updAt {α : Type} {n : Nat} (v : Vector α n) (i : Nat) (f : α → α) : Vector α n :=
  match v[i]? with
  | some a => v.setIfInBounds i (f a)
  | none => v

/-- A byte memory: the host's cells in canonical form. -/
abbrev Memory := List Host.Cell

/-- What an unlisted address reads as (DESIGN CHOICE, log 1). -/
def Memory.blank : Byte := 0

/-- The byte at an address. -/
def Memory.read : Memory → Nat → Byte
  | [], _ => Memory.blank
  | (k, v) :: r, a => if k = a then v else if a < k then Memory.blank else Memory.read r a

/-- Writes one byte, keeping the canonical form. -/
def Memory.write : Memory → Nat → Byte → Memory
  | [], a, b => if b = Memory.blank then [] else [(a, b)]
  | (k, v) :: r, a, b =>
    if a < k then (if b = Memory.blank then (k, v) :: r else (a, b) :: (k, v) :: r)
    else if k = a then (if b = Memory.blank then r else (a, b) :: r)
    else (k, v) :: Memory.write r a b

/-- Writes a run of bytes from an address upwards. -/
def Memory.writes (m : Memory) (a : Nat) : List Byte → Memory
  | [] => m
  | b :: r => Memory.writes (m.write a b) (a + 1) r

/-- Reads a run of n bytes. -/
def Memory.reads (m : Memory) (a n : Nat) : List Byte := (List.range n).map fun i => m.read (a + i)

/-- Are all addresses above a bound, strictly rising, with no blank entry? -/
def Memory.wfFrom : Nat → Memory → Bool
  | _, [] => true
  | lo, (k, v) :: r => decide (lo ≤ k) && v != Memory.blank && Memory.wfFrom (k + 1) r

/-- The canonical form. -/
def Memory.wf (m : Memory) : Bool := Memory.wfFrom 0 m

/-- The number little-endian bytes spell (R3). -/
def leNat : List Byte → Nat
  | [] => 0
  | b :: r => b.toNat + 256 * leNat r

/-- The n little-endian bytes of a number (R3). -/
def leBytes : Nat → Nat → List Byte
  | 0, _ => []
  | n + 1, v => BitVec.ofNat 8 v :: leBytes n (v / 256)

end Sys2Proof.Machine
end

