-- ==== Sys2Proof/Machine/Num.lean ====
section
/-! DEFINITION. Number formats and rounding (spec/03_numbers.md R46-R74): exact values, round_int and round_to, the shared-block formats,
W1024, and basis_bit. -/

namespace Sys2Proof.Machine

/-- An exact value: NaN, an infinity, or (-1)^neg x m x 2^e, zero keeping its sign (R60). -/
inductive Val where
  | nan | inf (neg : Bool) | fin (neg : Bool) (m : Nat) (e : Int)
  deriving DecidableEq, Repr

/-- FSTAT's bits: 0 invalid, 1 overflow, 2 underflow, 3 inexact, 4 saturated (R198). -/
abbrev FlagSet := BitVec 5
def flInv : FlagSet := 1
def flOvf : FlagSet := 2
def flUnd : FlagSet := 4
def flInx : FlagSet := 8
def flSat : FlagSet := 16

/-- m x 2^e for an integer m. -/
def Val.ofInt (m : Int) (e : Int) : Val := .fin (decide (m < 0)) m.natAbs e

/-- A finite value as an integer on the grid 2^g, exact when its exponent is at least g; lower bits are cut off. -/
def Val.onGrid (g : Int) : Val → Int
  | .fin neg m e =>
    let n : Nat := if g ≤ e then m * 2 ^ (e - g).toNat else m / 2 ^ (g - e).toNat
    if neg then -(n : Int) else (n : Int)
  | _ => 0

/-- Is it a finite value? -/
def Val.isFin : Val → Bool
  | .fin .. => true
  | _ => false
/-- Is it a NaN? -/
def Val.isNan : Val → Bool
  | .nan => true
  | _ => false
/-- Is it a zero? -/
def Val.isZero : Val → Bool
  | .fin _ m _ => m == 0
  | _ => false
/-- The sign; false for a NaN. -/
def Val.sign : Val → Bool
  | .nan => false
  | .inf n => n
  | .fin n _ _ => n

/-- The value scaled by 2^k, exactly (R64). -/
def Val.scale (k : Int) : Val → Val
  | .fin n m e => .fin n m (e + k)
  | v => v

/-- The value with its sign inverted. -/
def Val.neg : Val → Val
  | .nan => .nan
  | .inf n => .inf (!n)
  | .fin n m e => .fin (!n) m e

/-- Comparison of two values by their places on the number line, for values that are no NaN: is the first less? -/
def Val.lt : Val → Val → Bool
  | .nan, _ | _, .nan => false
  | .inf a, .inf b => a && !b
  | .inf a, .fin .. => a
  | .fin .., .inf b => !b
  | .fin na ma ea, .fin nb mb eb =>
    let g := min ea eb
    decide (Val.onGrid g (.fin na ma ea) < Val.onGrid g (.fin nb mb eb))

/-- IEEE equality: the two zeros are equal, a NaN equals nothing. -/
def Val.eqv (a b : Val) : Bool := !a.isNan && !b.isNan && !Val.lt a b && !Val.lt b a

/-- The exact sum of two values, infinities as IEEE 754; the zero sign follows R435 under mode. -/
def Val.add (mode : Nat) : Val → Val → Val
  | .nan, _ | _, .nan => .nan
  | .inf a, .inf b => if a == b then .inf a else .nan
  | .inf a, _ | _, .inf a => .inf a
  | .fin na ma ea, .fin nb mb eb =>
    let g := min ea eb
    let s := Val.onGrid g (.fin na ma ea) + Val.onGrid g (.fin nb mb eb)
    if s = 0 then .fin ((ma == 0 && mb == 0 && na && nb) || mode == 3) 0 0 else Val.ofInt s g

/-- Does a sum meet infinities of both signs and no NaN: the invalid operation of R65? -/
def addInvalid : Val → Val → Bool
  | .inf a, .inf b => a != b
  | _, _ => false

/-- The exact product; 0 x infinity is a NaN. -/
def Val.mul : Val → Val → Val
  | .nan, _ | _, .nan => .nan
  | .inf a, .inf b => .inf (a != b)
  | .inf a, .fin b m _ | .fin b m _, .inf a => if m = 0 then .nan else .inf (a != b)
  | .fin na ma ea, .fin nb mb eb => .fin (na != nb) (ma * mb) (ea + eb)

/-- Is the product 0 x infinity (R65)? -/
def mulInvalid : Val → Val → Bool
  | .inf _, .fin _ m _ | .fin _ m _, .inf _ => m == 0
  | _, _ => false

/-- The rounding modes by their codes (R58): 0 RNE, 1 RTZ, 2 RUP, 3 RDN, 4 RNA, 5 RTO. The magnitude m x 2^k of sign neg rounded to an
integer magnitude, and whether that was inexact: round_int of R60. -/
def roundMag (mode : Nat) (neg : Bool) (m : Nat) (k : Int) : Nat × Bool :=
  if 0 ≤ k then (m * 2 ^ k.toNat, false)
  else
    let d := 2 ^ (-k).toNat
    let f := m / d
    let r := m % d
    if r = 0 then (f, false)
    else
      let up : Bool :=
        if mode = 0 then decide (d < 2 * r) || (2 * r == d && f % 2 == 1)
        else if mode = 1 then false
        else if mode = 2 then !neg
        else if mode = 3 then neg
        else if mode = 4 then decide (d ≤ 2 * r)
        else f % 2 == 0
      (if up then f + 1 else f, true)

/-- round_int of a value (R60): the integer, and whether it differs. -/
def roundInt (mode : Nat) (neg : Bool) (m : Nat) (e : Int) : Int × Bool :=
  let r := roundMag mode neg m e
  (if neg then -(r.1 : Int) else (r.1 : Int), r.2)

/-- The mode a conversion site works in: RTO where its final bit is 0, RMODE where it names DYN (R58, R59). -/
def effMode (mode : Nat) (final : Bool) (rmode : BitVec 3) : Nat :=
  if !final then 5 else if mode = 6 then rmode.toNat else mode

/-- The width of an element in bits (R46); an SB format's is given by sbWidth, W1024's is 1,024. -/
def fmtWidth (f : BitVec 5) : Nat :=
  match f.toNat with
  | 0 => 8 | 1 => 4 | 2 => 16 | 3 => 32 | 4 => 8 | 5 => 8 | 6 => 16 | 7 => 16 | 8 => 32 | 0x0C => 1024 | _ => 0
/-- Two's-complement integer formats (R46). -/
def fmtIsInt (f : BitVec 5) : Bool := decide (f.toNat ≤ 3)
/-- Binary floating-point formats (R46). -/
def fmtIsFloat (f : BitVec 5) : Bool := decide (4 ≤ f.toNat ∧ f.toNat ≤ 8)
/-- The code width w of a shared-block format, 0 for any other (R52). -/
def sbWidth (f : BitVec 5) : Nat :=
  match f.toNat with
  | 9 => 2 | 0x0A => 4 | 0x0B => 7 | _ => 0
/-- Shared-block formats. -/
def fmtIsSb (f : BitVec 5) : Bool := sbWidth f != 0
/-- The bytes of a block (R52). -/
def sbBytes (f : BitVec 5) : Nat := 2 + 2 * sbWidth f
/-- The bytes of n elements of a format that start on a byte; n a multiple of 16 for a shared-block format. -/
def fmtBytes (f : BitVec 5) (n : Nat) : Nat :=
  if fmtIsSb f then n / 16 * sbBytes f else cdiv (n * fmtWidth f) 8

/-- The exponent field's width, the fraction's width, and whether an all-ones exponent is infinity and NaN (R49, R50). -/
def fltFields (f : BitVec 5) : Nat × Nat × Bool :=
  match f.toNat with
  | 4 => (4, 3, false) | 5 => (5, 2, true) | 6 => (5, 10, true) | 7 => (8, 7, true) | _ => (8, 23, true)
/-- The bias of a floating-point format. -/
def fltBias (f : BitVec 5) : Int := 2 ^ ((fltFields f).1 - 1) - 1

/-- The canonical NaN (R51). -/
def canonicalNan (f : BitVec 5) : Nat :=
  match f.toNat with
  | 4 => 0x7F | 5 => 0x7E | 6 => 0x7E00 | 7 => 0x7FC0 | 8 => 0x7FC00000 | 9 => 0xFF | 0x0A => 0xFF | 0x0B => 0xFF | _ => 0

/-- The value of an element's bits in an integer or floating-point format (R48-R50). -/
def fmtValue (f : BitVec 5) (b : Nat) : Val :=
  if fmtIsInt f then
    let w := fmtWidth f
    let v := b % 2 ^ w
    if v < 2 ^ (w - 1) then .fin false v 0 else .fin true (2 ^ w - v) 0
  else
    let (ew, mw, ieee) := fltFields f
    let neg := b / 2 ^ (ew + mw) % 2 == 1
    let e := b / 2 ^ mw % 2 ^ ew
    let m := b % 2 ^ mw
    if ieee && e == 2 ^ ew - 1 then (if m = 0 then .inf neg else .nan)
    else if !ieee && e == 2 ^ ew - 1 && m == 2 ^ mw - 1 then .nan
    else if e = 0 then .fin neg m (1 - fltBias f - mw)
    else .fin neg (m + 2 ^ mw) (e - fltBias f - mw)

/-- The bits of the sign. -/
def signBit (f : BitVec 5) (neg : Bool) : Nat := if neg then 2 ^ (fmtWidth f - 1) else 0

/-- The largest finite magnitude's encoding without its sign (R49). -/
def maxFiniteBits (f : BitVec 5) : Nat :=
  let (ew, mw, ieee) := fltFields f
  if ieee then (2 ^ ew - 1) * 2 ^ mw - 1 else 2 ^ (ew + mw) - 2

/-- overflow_result of R62 with the flag it sets. -/
def overflowResult (f : BitVec 5) (neg sat : Bool) : Nat × FlagSet :=
  let (ew, mw, ieee) := fltFields f
  if sat then (signBit f neg + maxFiniteBits f, flSat)
  else if ieee then (signBit f neg + (2 ^ ew - 1) * 2 ^ mw, 0)
  else (canonicalNan f, 0)

/-- round_to for an integer or floating-point target under an effective mode: the encoding and the flags (R60-R63). -/
def roundTo (f : BitVec 5) (v : Val) (mode : Nat) (sat : Bool) : Nat × FlagSet :=
  if fmtIsInt f then
    let w := fmtWidth f
    match v with
    | .nan => (0, flInv)
    | .inf neg => (if neg then 2 ^ (w - 1) else 2 ^ (w - 1) - 1, flOvf ||| flSat)
    | .fin neg m e =>
      let (y, inx) := roundInt mode neg m e
      let fl : FlagSet := if inx then flInx else 0
      if (2 : Int) ^ (w - 1) - 1 < y then (2 ^ (w - 1) - 1, fl ||| flOvf ||| flSat)
      else if y < -((2 : Int) ^ (w - 1)) then (2 ^ (w - 1), fl ||| flOvf ||| flSat)
      else ((y % (2 : Int) ^ w).toNat, fl)
  else
    match v with
    | .nan => (canonicalNan f, 0)
    | .inf neg =>
      let (b, fl) := overflowResult f neg sat
      let same := fmtValue f b == .inf neg
      (b, if same then fl else fl ||| flOvf)
    | .fin neg m e =>
      if m = 0 then (signBit f neg, 0)
      else
        let (_, mw, _) := fltFields f
        let emin : Int := 1 - fltBias f
        let lg : Int := (Nat.log2 m : Int) + e
        let qe : Int := max lg emin - mw
        let (y, inx) := roundMag mode neg m (e - qe)
        let fl : FlagSet := (if inx then flInx else 0) ||| (if decide (lg < emin) && inx then flUnd else 0)
        let y2 := if y = 2 ^ (mw + 1) then 2 ^ mw else y
        let qe2 := if y = 2 ^ (mw + 1) then qe + 1 else qe
        let mag : Int := if y2 < 2 ^ mw then (y2 : Int) else (qe2 + mw + fltBias f) * 2 ^ mw + ((y2 : Int) - 2 ^ mw)
        if (maxFiniteBits f : Int) < mag then
          let (b, fo) := overflowResult f neg sat
          (b, fl ||| flOvf ||| fo)
        else (signBit f neg + mag.toNat, fl)

/-- The value of code i of a shared-block block's bits (R53). -/
def sbValue (f : BitVec 5) (block i : Nat) : Val :=
  let w := sbWidth f
  let e := block % 256
  if e = 255 then .nan
  else
    let code := block / 2 ^ (16 + w * i) % 2 ^ w
    let qs := block / 2 ^ (8 + 2 * (i / 4)) % 4
    .fin (decide (2 ^ (w - 1) ≤ code)) (code % 2 ^ (w - 1)) ((e : Int) - 127 - ((w : Int) - 2) + qs)

/-- The magnitude a value takes at the grain 2^g. -/
def grainMag (mode : Nat) (g : Int) : Val → Nat
  | .fin n m e => (roundMag mode n m (e - g)).1
  | _ => 0

/-- The encoding of 16 values as one block, and its flags (R55, R434). Where the block overflows with SAT 0, each value is judged for
inexact and underflow by the code steps 3 and 4 give it at E = 0xFE (DEDUCED, log 25). -/
def sbEncode (f : BitVec 5) (vs : List Val) (mode : Nat) (sat : Bool) : Nat × FlagSet :=
  let w := sbWidth f
  let mx := 2 ^ (w - 1) - 1
  let unit (e : Nat) : Int := (e : Int) - 127 - ((w : Int) - 2)
  if vs.any Val.isNan then (canonicalNan f, 0)
  else
    let fits (e : Nat) : Bool := vs.all fun v => v.isFin && decide (grainMag mode (unit e + 3) v ≤ mx)
    let found := (List.range 255).find? fits
    let beyond := found.isNone
    let e := found.getD 254
    let quadShift (q : Nat) : Nat :=
      let qv := (vs.drop (4 * q)).take 4
      if qv.all (fun v => match v with
          | .fin .. => decide (grainMag mode (unit e + 3) v ≤ mx)
          | _ => false)
      then ((List.range 4).find? fun (s : Nat) => qv.all fun v => decide (grainMag mode (unit e + (s : Int)) v ≤ mx)).getD 3
      else 3
    let allZero := vs.all Val.isZero
    let e' := if allZero then 0 else e
    let qs := (List.range 4).map quadShift
    let code (i : Nat) (v : Val) : Nat × Bool :=
      let s := qs.getD (i / 4) 0
      let r := match v with
        | .fin n m x => roundMag mode n m (x - (unit e' + s))
        | _ => (mx + 1, false)
      let mag := min r.1 mx
      ((if v.sign then 2 ^ (w - 1) else 0) + mag, v.isFin && (r.2 || decide (mx < r.1)))
    let cs := (List.range 16).map fun i => code i (vs.getD i (.fin false 0 0))
    let inx := cs.any (·.2)
    let und := ((List.range 16).any fun i => (cs.getD i (0, false)).2 &&
      match vs.getD i .nan with
      | .fin _ m x => m != 0 && decide ((Nat.log2 m : Int) + x < unit 0)
      | _ => false)
    let body := (List.range 16).foldl (fun a i => a + (cs.getD i (0, false)).1 * 2 ^ (16 + w * i)) 0
    let qsb := (List.range 4).foldl (fun a k => a + qs.getD k 0 * 2 ^ (8 + 2 * k)) 0
    (if beyond && !sat then canonicalNan f else body + qsb + e',
      (if inx then flInx else 0) ||| (if und then flUnd else 0) |||
      (if beyond then (if sat then flOvf ||| flSat else flOvf) else 0))

/-- The value of a W1024 element of class c (R56, R57, R69). -/
def wValue (c : Cls) (b : BitVec 1024) : Val :=
  match c with
  | .fin => Val.ofInt b.toInt (-512)
  | .pinf => .inf false
  | .ninf => .inf true
  | .nan => .nan

/-- The class two classes sum to, and whether that is the invalid operation (R57). -/
def Cls.add : Cls → Cls → Cls × Bool
  | .nan, _ | _, .nan => (.nan, false)
  | .pinf, .ninf | .ninf, .pinf => (.nan, true)
  | .pinf, _ | _, .pinf => (.pinf, false)
  | .ninf, _ | _, .ninf => (.ninf, false)
  | .fin, .fin => (.fin, false)

/-- The class of a value. -/
def Val.cls : Val → Cls
  | .nan => .nan
  | .inf n => if n then .ninf else .pinf
  | .fin .. => .fin

/-- One step of the Fibonacci shift register of R74. -/
def lfsrStep (s : BitVec 32) : BitVec 32 :=
  let fb := s.getLsbD 31 ^^ s.getLsbD 21 ^^ s.getLsbD 1 ^^ s.getLsbD 0
  BitVec.ofBool fb ++ s.extractLsb' 1 31

/-- basis_bit(seed, i) of R74. -/
def basisBit (seed : BitVec 32) : Nat → Bool
  | 0 => seed.getLsbD 0
  | i + 1 => basisBit (lfsrStep seed) i

/-- The first n output bits, in order: the same bits as basisBit, one pass. -/
def basisBits (seed : BitVec 32) : Nat → List Bool
  | 0 => []
  | n + 1 => seed.getLsbD 0 :: basisBits (lfsrStep seed) n

end Sys2Proof.Machine
end

