-- ==== Sys2Proof/Machine/State.lean ====
section
/-! DEFINITION. The state of the TD4-384 as plain data, and State.reset. INVENTORY.md lists every field with its rule and reset value. -/

namespace Sys2Proof.Machine

/-- A loop register (R109). -/
structure Loop where
  count : BitVec 32 := 0
  first : BitVec 16 := 0
  last : BitVec 16 := 0
  active : Bool := false
  deriving DecidableEq, Repr

/-- One write a release covers: the engine index and the number of the word in its stream (R268). -/
abbrev WriteId := Nat × Nat
/-- In place of an engine index: the writes of a die's system core. -/
def sysWrites : Nat := 6
/-- In place of an engine index: every write the package sent to another package before the one with this serial number, of whatever agent:
what an acquire from outside the job may cover (R268; log 95). -/
def foreignWrites : Nat := 9
/-- In place of the number of a word of T: channel k's remote writes are those of word 2^40 + k. -/
def channelWrites (k : Nat) : Nat := 2 ^ 40 + k

/-- A token: the cycle it was sent in, and the unacknowledged writes its release covers (R31, R268, R273). -/
structure Tok where
  sent : Nat
  cov : List WriteId := []
  deriving DecidableEq, Repr

/-- A page-table leaf as a TLB holds it (R222, R360). -/
structure Leaf where
  size : Nat
  frame : Nat
  die : DieId
  r : Bool
  w : Bool
  poison : Bool
  deriving DecidableEq, Repr

/-- One TLB entry with its tags (R225): the first offset of its page. -/
structure TlbEntry where
  asn : BitVec 8
  buf : BitVec 12
  first : Nat
  incarn : BitVec 16
  leaf : Leaf
  deriving DecidableEq, Repr

/-- A result an issued word will write when it lands (R33, R110, R112). -/
inductive Eff where
  | x (r : BitVec 5) (v : Word)
  | p (r : BitVec 3) (v : Bool)
  | b (r : BitVec 2) (v : Word)
  | mask (r : BitVec 3) (v : BitVec 4096)
  | row (r : BitVec 7) (v : Row) (cls : BitVec 64)
  | lane (r : BitVec 7) (w lane : Nat) (v : Nat)
  | tensor (t : BitVec 6) (v : BitVec 256)
  | xspec (n : BitVec 4) (v : BitVec 128)
  | chain (n : BitVec 3) (v : BitVec 128)
  | csr (n : BitVec 12) (v : Word)
  /-- CSRX's write of FSTAT: flags set since its read stay (R199) -/
  | fstatX (since : Nat) (v : Word)
  | flags (f : FlagSet)
  deriving DecidableEq, Repr

/-- A directory entry as an MMA or a channel uses it: index and contents, aliases resolved, and whether through an alias (R147, R327). -/
structure DirUse where
  index : Nat
  entry : BitVec 128
  viaAlias : Bool := false
  /-- the index that was asked for -/
  asked : Nat := index
  deriving DecidableEq, Repr

/-- A matrix multiply-add under way or retained: its registers, tensors and entries as read at issue (R142, R147, R159, R351). -/
structure Mma where
  z : BitVec 2
  at_ : Nat
  bt : Nat
  ta : BitVec 256
  tb : BitVec 256
  idx : Word
  kr : Word
  ck : Bool
  dirs : List DirUse
  /-- queue bytes it has consumed, for a replay (R318): A's and B's in order, with poison marks -/
  qa : List (Byte × Bool) := []
  qb : List (Byte × Bool) := []
  /-- of a queue operand, the lanes at the last index inside its tensor, once popped: what CLAMP reads beyond it (R144) -/
  ka : List (Val × Bool) := []
  kb : List (Val × Bool) := []
  /-- tile-queue entries it has popped for A and for B -/
  ea : Nat := 0
  eb : Nat := 0
  /-- its number in M's stream, and its word -/
  id : Nat := 0
  word : Word := 0
  deriving DecidableEq, Repr

/-- One accepted copy transfer (R327): whole tensor entries, spec, origins, resolved directory entries, the write pointer it began at. -/
structure Xfer where
  src : BitVec 256
  dst : BitVec 256
  spec : BitVec 128
  sorg : Word
  dorg : Word
  dirs : List DirUse := []
  start : Nat := 0
  flags : FlagSet := 0
  noted : Bool := false
  srcNum : Nat := 0
  /-- RMODE of T as the transfer's XCOPY or record saw it (R58) -/
  rm : BitVec 3 := 0
  cov : List WriteId := []
  /-- when it was accepted (R384) -/
  since : Nat := 0
  /-- a record's transfer: the buffer the record lies in, which its status is written to (R238, R331) -/
  recBuf : Option (BitVec 12) := none
  deriving DecidableEq, Repr

/-- A programming request's kind (R295, R296, R298, R289). -/
inductive PgmKind where
  | row (l : Nat) (data : BitVec 512)
  | tile (i : Nat) (kl : Word) (image : List Byte)
  | ret (p : Nat)
  | rewrite (l : Nat)
  deriving DecidableEq, Repr

/-- A programming request (R290): the job that sent it (record and GEN), its tag and counter. -/
structure PgmReq where
  jrec : Nat
  gen : BitVec 24
  tag : BitVec 32
  kind : PgmKind
  dc : Option (BitVec 12)
  /-- the column it acts on: that of the core which issued it (R290) -/
  col : CoreId := 0
  poisoned : Bool := false
  deferred : Option Nat := none
  deriving DecidableEq, Repr

/-- The state PGMSTAT reports of a finished request (R297). -/
structure PgmDone where
  tag : BitVec 32
  ok : Bool
  prow : Nat
  iter : Nat
  retired : Nat
  cause : BitVec 8
  deriving DecidableEq, Repr

/-- An index that GATHER, SCATTER or SCADD has popped and not done (R254): the cycle of its pop, whether its row's read waits under R251, and the
bytes or elements of the row already written. -/
structure IndexCur where
  idx : Nat
  since : Nat
  waited : Bool := false
  part : Nat := 0
  deriving DecidableEq, Repr

/-- Which part of a long instruction waits for what: the work of an issued word (R32, R42, R242, R433). -/
inductive Work where
  /-- its results land at its cycle -/
  | fixed
  | hold
  | trap (n : BitVec 3) (code : BitVec 16)
  | tksend (e : Engine) (n : Nat)
  | ldx (va : Word) (size : BitVec 2) (sx : Bool) (d : BitVec 5)
  | stx (va : Word) (data : List Byte)
  | atomic (op : BitVec 4) (va : Word) (size : BitVec 2) (s cmp : Word) (scope : BitVec 3) (d : BitVec 5)
  | probe (va len : Word) (kind : BitVec 2) (d : BitVec 5)
  | lock (on : Bool) (va len : Word) (d : BitVec 5)
  | load (q : BitVec 4) (va bpr rows stride : Word) (n done : Nat)
  | store (q : BitVec 4) (va bpr rows stride : Word) (n done : Nat)
  | index (op : BitVec 2) (dq iq : BitVec 4) (tensor : BitVec 256) (tnum : Nat) (isz : BitVec 2) (n done : Nat) (cur : Option IndexCur)
  | wback (inv : Bool) (va len : Word) (scope : BitVec 3) (level : BitVec 2)
  | ubdisc (va len : Word)
  | msend (q : BitVec 4) (tgt : Word) (n : Nat) (credit : Option (BitVec 8 × Nat)) (popped : List Byte)
  | rel (scope : BitVec 3) (cov : List WriteId)
  | acq (scope : BitVec 3)
  | phase (scope : BitVec 3) (cov : List WriteId)
  | depdec (die : BitVec 2) (ctr : BitVec 12) (amt : BitVec 24) (cov : List WriteId)
  | depset (die : BitVec 2) (ctr : BitVec 12) (w lrec : Word)
  | xcopy (k : BitVec 2) (x : Xfer)
  /-- a cancelled channel's writes before serial number `before` are still to be acknowledged; the buffers of its transfers; the record it cut off,
  with the CTL it is to have, until that is written (R334) -/
  | xcancel (k : BitVec 2) (before : Nat) (bufs : List (BitVec 12)) (rec : Option (Word × Word))
  | xfill (tensor : BitVec 256) (val org : Word)
  | tqin (q : BitVec 6) (tensor : BitVec 256) (org : Word) (moving : Option Row)
  | tqout (q : BitVec 6) (tensor : BitVec 256) (org : Word) (left : Bool)
  | pgm (r : PgmReq) (src : Nat) (len : Nat)
  | mopen (z : BitVec 2) (zf : Bool) (ty : BitVec 5)
  | mma (m : Mma) (done : Nat) (start : Option Int)
  | tend (z : BitVec 2) (replaying : Option Nat) (done : Nat) (start : Option Int) (result : Nat)
  | mrd (z : BitVec 2) (tensor : BitVec 256) (fmt : BitVec 5) (mode : Nat) (sat : Bool) (org : Word) (done : Nat)
  | mcvt (z : BitVec 2) (ty : BitVec 5) (row : Row)
  | seedscan (z : BitVec 2) (target : List Int) (grid : Int) (first count : BitVec 32) (j : Nat) (d : BitVec 5) (done : Nat)
  | seedfit (z : BitVec 2) (target : List Int) (grid : Int) (seed : BitVec 32) (j : Nat) (rt : BitVec 256) (d : BitVec 5)
  | chain (iq oq : BitVec 6) (entry : BitVec 128) (scalars : List Word) (guard : Bool) (n rows slots : Nat) (row : Option (Row × BitVec 5 × BitVec 256)) (fl : FlagSet)
  /-- a system-core operation that holds issue until what it did is seen everywhere -/
  | sysAccess
  | sysRead (a : Word) (d : BitVec 5)
  | sysWrite (a v : Word)
  | tlbinv (cb rng : Word) (scope : BitVec 3)
  /-- a table entry still to reach the other dies -/
  | route (keys : Bool) (i : Nat) (v : Word)
  deriving DecidableEq, Repr

/-- An issued word that has not completed. -/
structure Flight where
  id : Nat
  pc : Word
  issued : Nat
  land : Option Nat
  effs : List Eff := []
  tks : BitVec 4 := 0
  work : Work := .fixed
  cov : List WriteId := []
  /-- it raised a stop in its execution; after a resume it goes on or starts again (R202) -/
  halted : Bool := false
  /-- the RMODE and the ABFTTOL the word sees (R58, R197) -/
  rm : BitVec 3 := 0
  tol : BitVec 32 := 0
  /-- the page-table leaf its first page translated to at issue (R226, R243) -/
  page : Option TlbEntry := none
  /-- at its issue an earlier pending store held its read (R251) -/
  waited : Bool := false
  deriving DecidableEq, Repr

/-- One stream: its registers, its place, and its words in flight (R105-R112, R33, R41). -/
structure Stream where
  x : Vector Word 32 := Vector.replicate 32 0
  p : Vector Bool 8 := Vector.replicate 8 false
  b : Vector Word 4 := Vector.replicate 4 0
  l : Vector Loop 4 := Vector.replicate 4 {}
  pc : Word := 0
  /-- the cycle the next word's IDLE is counted from (R29, R116) -/
  last : Int := -1
  atEnd : Bool := false
  fstat : BitVec 5 := 0
  /-- flags set of late, with their cycles (R197, R199) -/
  flagged : List (Nat × FlagSet) := []
  rmode : BitVec 3 := 0
  flights : List Flight := []
  nextId : Nat := 0
  /-- A's next word meets every other condition since this cycle, and waits for an interlock (true) or for its own queue's data (R252) -/
  waits : Option (Nat × Bool) := none
  /-- the first cycle after a wait of R433 ended, before which nothing issues -/
  gate : Nat := 0
  /-- unacknowledged writes of other streams this one has acquired (R268) -/
  cov : List WriteId := []
  deriving DecidableEq, Repr

/-- One byte of a data queue in its source format: when it landed (none: its place is reserved), its poison mark (R307, R391). -/
structure QByte where
  b : Byte
  land : Option Nat
  poison : Bool := false
  owner : Nat := 0
  /-- an uncorrectable error of the queue's memory (R310) -/
  ue : Bool := false
  deriving DecidableEq, Repr

/-- A data queue: its bytes in push order, elements already popped of the first unit, bytes a window retains (R305-R319). -/
structure DataQ where
  bytes : List QByte := []
  sub : Nat := 0
  retained : Nat := 0
  /-- where its first byte lies in a 16-byte unit of the queue's memory, and whether bytes popped of that unit were marked (R387, R391) -/
  pos : Nat := 0
  mark : Bool := false
  deriving DecidableEq, Repr

/-- A tile-queue entry: image, tag, a poison mark per 128 bytes, an uncorrectable error, the cycle from which it can be popped (R314). -/
structure TqEntry where
  image : Row
  tag : BitVec 5
  poison : BitVec 32 := 0
  ue : Bool := false
  ready : Nat := 0
  /-- the cycle its push was accepted in, and its pusher's place in the order of one cycle (R316) -/
  taken : Nat := 0
  rank : Nat := 0
  deriving DecidableEq, Repr

/-- A tile queue; entries retained by windows count as occupied (R319). -/
structure TileQ where
  entries : List TqEntry := []
  retained : Nat := 0
  /-- places taken by a TQOUT that has left its wait (R317) -/
  reserved : Nat := 0
  /-- K-steps already taken from the head entry (R145) -/
  used : Nat := 0
  deriving DecidableEq, Repr

/-- An open window (R158, R159). -/
structure Window where
  replayable : Bool := true
  err : Bool := false
  replays : BitVec 2 := 0
  retained : List Mma := []
  sampled : Bool := false
  /-- the operand bytes of its last run, when it is sampled (R394) -/
  log : List Byte := []
  /-- the values of those operands, K-step by K-step: rows of A, columns of B -/
  steps : List (List (List Val) × List (List Val)) := []
  deriving DecidableEq, Repr

/-- An accumulator tile (R137-R139, R156): rows, classes (2 bits an element), type, checksums, window, rows with an uncorrectable error. -/
structure Tile where
  rows : Vector Row 32 := Vector.replicate 32 0
  cls : BitVec 2048 := 0
  ty : BitVec 5 := 0x0C
  armed : Bool := false
  ckRow : Vector (BitVec 1024) 32 := Vector.replicate 32 0
  ckCol : Vector (BitVec 1024) 32 := Vector.replicate 32 0
  win : Option Window := none
  /-- the replay count of the last window, once it has closed (R139) -/
  replayed : BitVec 2 := 0
  ue : BitVec 32 := 0
  deriving DecidableEq, Repr

/-- A channel's state (R325). -/
inductive ChanState where
  | idle | busy | error
  deriving DecidableEq, Repr

/-- A copy channel (R325-R336). -/
structure Channel where
  st : ChanState := .idle
  wp : Nat := 0
  xfers : List Xfer := []
  /-- the chain's current record, and whether it is being run -/
  recVa : Option Word := none
  /-- the 64 bytes of the record being run, as they were read -/
  image : List Byte := []
  running : Bool := false
  notify : Bool := false
  cause : BitVec 8 := 0
  /-- a stop to deliver to T (R439) -/
  stop : Option Stop := none
  /-- bytes past WP that are written and not yet acknowledged by their target (R273) -/
  flying : Nat := 0
  /-- what T had acquired when it started the chain (R271) -/
  cov : List WriteId := []
  deriving DecidableEq, Repr

/-- An entry of MQCRED (R323). -/
structure Credit where
  tgt : Word
  gen : BitVec 8
  esz : Nat
  n : Nat
  /-- a request for it is on its way (R323) -/
  asked : Bool
  deriving DecidableEq, Repr

/-- A per-buffer counter entry (R381). -/
structure BufCount where
  buf : BitVec 12
  busy : Nat := 0
  bytes : Nat := 0
  stall : Nat := 0
  deriving DecidableEq, Repr

/-- A level of a loop table (R25, R339). -/
structure Level where
  kind : BitVec 2
  rank : BitVec 3
  extent : BitVec 32
  deriving DecidableEq, Repr

/-- A kernel descriptor as read (R339), with its programs and argument block. -/
structure Kernel where
  reissue : Bool := false
  levels : List (Option Level) := []
  progs : List (List Word) := []
  args : List Byte := []
  sp : List Nat := [0, 0, 0, 0]
  acc : Nat := 0
  chan : Nat := 0
  dq : Nat := 0
  tqmask : BitVec 32 := 0
  ubres : Nat := 0
  llcq : Nat := 0
  qcfg : List Word := []
  xspec : List (BitVec 128) := []
  tensors : List (BitVec 256) := []
  deriving DecidableEq, Repr

/-- A launch record with its source, time and base priority (R337-R341). -/
structure LaunchRec where
  desc : Word := 0
  arg : Word := 0
  status : Word := 0
  donedc : BitVec 12 := 0
  waitdc : BitVec 12 := 0
  den : Bool := false
  wen : Bool := false
  asn : BitVec 8 := 0
  dies : BitVec 4 := 0
  tag : Word := 0
  host : Bool := false
  base : Nat := 0
  since : Nat := 0
  /-- the place of its source in the order of one cycle (R341) -/
  rank : Nat := 0
  /-- the unacknowledged writes the launch's release still covers, with the job they belong to (R344) -/
  cov : List (Nat × WriteId) := []
  deriving DecidableEq, Repr

/-- An entry of the launch table (R342, R348). -/
structure Launch where
  record : LaunchRec
  kernel : Kernel
  lq : Fin 16
  ready : Option Nat := none
  eff : Nat := 0
  next : Nat := 0
  /-- jobs that have been dispatched, or lost before -/
  placed : Nat := 0
  total : Nat := 0
  ended : Nat := 0
  nerr : Nat := 0
  err : Option (BitVec 7 × BitVec 16) := none
  deriving DecidableEq, Repr

/-- A job forwarded by another die's distributor (R345). -/
structure Forward where
  owner : DieId
  launch : Nat
  job : Nat
  since : Nat
  eff : Nat := 0
  /-- it was dispatched before, on a die that was lost (R350) -/
  again : Bool := false
  deriving DecidableEq, Repr

/-- Why a job stops (R201, R203, R214, R37). -/
inductive StopKind where
  | trap | preempt | suspend | kill | abort
  deriving DecidableEq, Repr

/-- Where a job stands (R36-R45, R201-R209). -/
inductive Phase where
  | starting
  | running
  | stopping (why : StopKind) (at_ : Nat)
  | saving (why : StopKind) (done : Nat)
  | saved
  | resuming
  | restoring (done : Nat)
  deriving DecidableEq, Repr

/-- A job's trap registers (R200). -/
structure TrapRegs where
  cause : BitVec 8 := 0
  stream : BitVec 3 := 0
  pc : Word := 0
  info0 : Word := 0
  info1 : Word := 0
  deriving DecidableEq, Repr

/-- A job: everything its context holds (R27, R28, R207, R208). -/
structure Job where
  idx : Nat := 0
  gen : BitVec 24 := 0
  owner : DieId := 0
  launch : Nat := 0
  number : Nat := 0
  asn : BitVec 8 := 0
  host : Bool := false
  prio : Nat := 0
  base : Nat := 0
  tag : Word := 0
  kernel : Kernel := {}
  phase : Phase := .starting
  /-- where it is resident (R35) -/
  home : Option (CoreId × SlotId) := none
  banks : List Nat := []
  /-- TSC units when it was placed last, and since when it waits -/
  placed : Nat := 0
  since : Nat := 0
  start : Nat := 0
  /-- the cycle it was stopped in, from which its saved times count (R41, R45) -/
  stopped : Nat := 0
  streams : Vector Stream 5 := Vector.replicate 5 {}
  accctl : Bool := false
  abfttol : BitVec 32 := 0
  llcq : BitVec 24 := 0
  ubres : BitVec 24 := 0
  cyc : Word := 0
  trapCause : BitVec 8 := 0
  trapStream : BitVec 3 := 0
  trapPc : Word := 0
  trapInfo0 : Word := 0
  trapInfo1 : Word := 0
  /-- the number of the word whose stop the trap registers hold, for R81 -/
  trapId : Nat := 0
  /-- the trap registers before the stop they hold: an ABORT of its cycle discards that stop (R203) -/
  undo : TrapRegs := {}
  /-- the last cycle one of its words completed or came to rest in (R201) -/
  ended : Nat := 0
  abortCode : BitVec 16 := 0
  sp : Memory := []
  spPoison : List Nat := []
  tiles : Vector Tile 4 := Vector.replicate 4 {}
  masks : Vector (BitVec 4096) 8 := Vector.replicate 8 0
  chains : Vector (BitVec 128) 8 := Vector.replicate 8 0
  tensors : Vector (BitVec 256) 64 := Vector.replicate 64 0
  xspecs : Vector (BitVec 128) 16 := Vector.replicate 16 0
  /-- tokens from engine i towards engine j at 5 i + j -/
  tokens : Vector (List Tok) 25 := Vector.replicate 25 []
  dqs : Vector DataQ 16 := Vector.replicate 16 {}
  tqs : Vector TileQ 32 := Vector.replicate 32 {}
  chans : Vector Channel 4 := Vector.replicate 4 {}
  mqcred : List Credit := []
  msends : Word := 0
  pgmNext : BitVec 32 := 1
  pgmOut : Nat := 0
  pgmDone : List PgmDone := []
  pgmStop : List Stop := []
  oor : Nat := 0
  inval : Nat := 0
  lodev : Nat := 0
  lodcyc : Nat := 0
  zsub : Nat := 0
  zsubTensors : List Nat := []
  gone : List (BitVec 13 × BitVec 16 × Bool) := []
  ubused : Nat := 0
  bufs : List BufCount := []
  /-- 0 in a cycle of progress; else one more than the whole cycles without any since (R40) -/
  stall : Nat := 0
  /-- the column an MMA of its saved state read (R147): grove and logical core, as a core number -/
  column : Option CoreId := none
  /-- save-area bytes SYSWR changed outside the architected offsets (log 15) -/
  edits : Map Word := []
  /-- a RESUME of it is under way; a SUSPEND waits for its start or resume (R214) -/
  asked : Bool := false
  suspendAsked : Bool := false
  /-- a pre-emption waits for its start or resume (R347) -/
  preemptAsked : Bool := false
  deriving DecidableEq, Repr

/-- A job record: its generation, residency count and job (R207, R218). -/
structure Rec where
  gen : BitVec 24 := 0
  resid : BitVec 5 := 0
  job : Option Job := none
  /-- words SYSWR left in the record's save area while no job holds it (R213) -/
  area : Map Word := []
  deriving DecidableEq, Repr

/-- Slot arbitration of one engine (R35), and its last issue cycle (R386). -/
structure Arb where
  cur : SlotId := 0
  wait : Vector Nat 2 := Vector.replicate 2 0
  lastIssue : Option Nat := none
  /-- the last cycle the engine chose a slot in -/
  seen : Option Nat := none
  deriving DecidableEq, Repr

/-- An MMA in the array's buffer: slot, word, and which retained MMA of a replaying TEND it is (R141, R438). -/
structure ArrayEntry where
  slot : SlotId
  id : Nat
  deriving DecidableEq, Repr

/-- An L1 line: its data and poison (R244). -/
structure L1Line where
  key : Nat
  data : BitVec 1024
  poison : Bool
  deriving DecidableEq, Repr

/-- A message-port request waiting: the sender's package, die, core, slot (R323). -/
structure MqReq where
  pkg : BitVec 13
  die : DieId
  core : CoreId
  slot : Nat
  /-- the job record of a sender in this package -/
  jrec : Nat := 0
  deriving DecidableEq, Repr

/-- An append on its way to a port (R321, R323). -/
structure MqAppend where
  sender : MqReq
  gen : BitVec 8
  data : List Byte
  /-- the owner tag of the bank it is for, as it stood when the append was accepted; none: not accepted yet (R218, R322) -/
  tag : Option (BitVec 12)
  deriving DecidableEq, Repr

/-- A message queue of a core: its binding and port (R320-R323). -/
structure Mq where
  valid : Bool := false
  log2 : BitVec 4 := 0
  gen : BitVec 8 := 0
  count : BitVec 16 := 0
  handle : BitVec 32 := 0
  offset : BitVec 20 := 0
  head : BitVec 32 := 0
  tail : BitVec 32 := 0
  held : Nat := 0
  reqs : List MqReq := []
  appends : List MqAppend := []
  /-- who appended each filled entry, oldest first (R323) -/
  owners : List MqReq := []
  /-- written HEAD values that free entries, which the port has still to take, oldest first (R322) -/
  heads : List (BitVec 32) := []
  deriving DecidableEq, Repr

/-- An L1 fill a PREF asks another package for (R263): the PREF's slot and number, the line's key in the L1, the leaf it was translated through
(R226). -/
structure Fill where
  slot : SlotId
  id : Nat
  key : Nat
  page : Option TlbEntry := none
  /-- a later access of A's made its data too old, or an acquire dropped the line: what returns is not installed (R250, R273) -/
  stale : Bool := false
  /-- its packet waits for a changed route (R367): the address to ask for -/
  unsent : Option Word := none
  deriving DecidableEq, Repr

/-- A core: slots, arbiters, array, L1, TLB, tile cache, owner tags, message queues, quarantine (R13-R19, R35, R218, R225, R244, R286, R397). -/
structure Core where
  slots : Vector (Option Nat) 2 := Vector.replicate 2 none
  /-- the candidate each slot is kept for (R347): launch owner, launch, job -/
  reserved : Vector (Option (DieId × Nat × Nat)) 2 := Vector.replicate 2 none
  arbs : Vector Arb 5 := Vector.replicate 5 {}
  /-- the V engine is held until this cycle (R34, R110) -/
  vFree : Nat := 0
  array : List ArrayEntry := []
  arrayDone : Nat := 0
  l1 : List L1Line := []
  tlb : List TlbEntry := []
  /-- tile cache: index, GEN, image, least recently used first -/
  tcache : List (Nat × BitVec 16 × List Byte) := []
  tags : Vector (BitVec 12) 256 := Vector.replicate 256 0
  mqs : Vector Mq 4 := Vector.replicate 4 {}
  fills : List Fill := []
  quarantined : Bool := false
  badWindows : List Nat := []
  deriving DecidableEq, Repr

/-- A row write under way in a column (R292). -/
structure PgmRun where
  req : PgmReq
  /-- rows still to write: logical row and data -/
  rows : List (Nat × BitVec 512)
  /-- the physical row being programmed, its iteration and try -/
  prow : Option Nat := none
  iter : Nat := 0
  tries : Nat := 0
  lastIter : Nat := 0
  retired : Nat := 0
  /-- rows programmed and verified but not swung: logical, physical -/
  made : List (Nat × Nat) := []
  since : Nat := 0
  deriving DecidableEq, Repr

/-- A row that a swing has just replaced (R287): the logical row, its bytes and error mark until then, and the grove's cycle of the swing. -/
structure PastRow where
  row : Nat
  bytes : BitVec 512
  ue : Bool
  cyc : Nat
  deriving DecidableEq, Repr

/-- One copy of a column's system area (R280): its sequence number, and whether an uncorrectable error is in it. What both hold, the map, the pool, the
retired list and the wear counts, is the column's own (log 102). -/
structure AreaCopy where
  seq : Nat := 0
  ue : Bool := false
  deriving DecidableEq, Repr

/-- A canopy column (R279-R300): the row map's entries that differ from the shipped identity (VALID and PROW), the bytes of physical rows, the pool. -/
structure Column where
  map : Map (BitVec 32) := []
  rows : Map (BitVec 512) := []
  /-- shipped pool rows already taken, and rows returned, oldest first -/
  taken : List Nat := []
  returned : List Nat := []
  retired : List Nat := []
  wear : Map Nat := []
  /-- physical rows with corrected bits found in them, and rows with an uncorrectable error (R289) -/
  soft : Map Nat := []
  hard : List Nat := []
  /-- the two copies of the system area, and which of them is in use (R280) -/
  areas : Vector AreaCopy 2 := Vector.replicate 2 {}
  area : Fin 2 := 0
  /-- start-up found no copy that passes its ECC (R410) -/
  lost : Bool := false
  past : List PastRow := []
  low : Bool := false
  queue : List PgmReq := []
  run : Option PgmRun := none
  deriving DecidableEq, Repr

/-- A grove: clock, droop and throttle (R386), SRAM, shared tile queues and bindings, programming engine registers (R281, R299), spare. -/
structure Grove where
  cyc : Nat := 0
  half : Bool := false
  stretch : Nat := 0
  throttle : Nat := 0
  throttling : Bool := false
  /-- an alarm of this cycle: the counts the next one begins with (R386) -/
  reload : Option (Nat × Nat) := none
  sram : Memory := []
  sramPoison : List Nat := []
  tqs : Vector TileQ 16 := Vector.replicate 16 {}
  bind : Vector Word 16 := Vector.replicate 16 0
  pgmperm : Vector Word 4 := Vector.replicate 4 0
  wearlim : BitVec 24 := 100000
  poollow : BitVec 24 := 4096
  govctl : BitVec 16 := BitVec.ofNat 16 Config.govFuse
  govCount : Nat := 0
  govStart : Nat := 0
  spareUsed : Bool := false
  auditOff : Bool := false
  deriving DecidableEq, Repr

/-- A dependence counter (R369). -/
structure Dc where
  value : BitVec 24 := 0
  act : BitVec 2 := 0
  scope : Bool := false
  under : Bool := false
  asn : BitVec 8 := 0
  sysrec : Bool := false
  lrec : Word := 0
  deriving DecidableEq, Repr

/-- A launch queue (R340): pending records oldest first; whether its head has a launch-table entry. -/
structure Lq where
  enable : Bool := true
  ceil : BitVec 3 := 7
  recs : List LaunchRec := []
  entry : Option Nat := none
  ringBase : Word := 0
  ringSize : BitVec 16 := 0
  tail : BitVec 32 := 0
  head : BitVec 32 := 0
  overNoted : Bool := false
  deriving DecidableEq, Repr

/-- A monitor (R384). -/
structure Monitor where
  en : Bool := false
  mode : Bool := false
  kind : BitVec 4 := 0
  filter : BitVec 12 := 0xFFF
  shift : BitVec 6 := 0
  base : Word := 0
  count : Word := 0
  min : Word := BitVec.allOnes 64
  max : Word := 0
  bins : Vector Word 32 := Vector.replicate 32 0
  /-- the microsecond of its last samples of kind 2 -/
  last : Nat := 0
  deriving DecidableEq, Repr

/-- An understory region: temperature, band, a lower band and since when its samples show it (R362); forced duty (R415). -/
structure Region where
  temp : Nat := 0
  band : Nat := 0
  lower : Option (Nat × Nat) := none
  hot : Bool := false
  deriving DecidableEq, Repr

/-- An audit log entry (R394). -/
structure AuditEntry where
  core : Nat
  handle : BitVec 32
  tag : Word
  job : Nat
  tile : BitVec 2
  count : Nat
  bytes : List Byte
  /-- how many of them are operand bytes -/
  operands : Nat
  sig : BitVec 32
  offset : Nat
  steps : List (List (List Val) × List (List Val)) := []
  kept : Bool := false
  /-- the words of its header that SYSWR wrote zero to last (R396) -/
  zeros : BitVec 8 := 0
  deriving DecidableEq, Repr

/-- What holds a system core's issue (R226, R237, R238, R359). -/
inductive SysHold where
  | segset (buf : BitVec 12) (asn : BitVec 8) (new : BitVec 256)
  | migrate (buf : BitVec 12) (asn : BitVec 8) (die : DieId)
  deriving DecidableEq, Repr

/-- A die's system core (R210-R216). -/
structure SysCore where
  stream : Stream := {}
  trapCause : BitVec 8 := 0
  trapStream : BitVec 3 := 0
  trapPc : Word := 0
  trapInfo0 : Word := 0
  trapInfo1 : Word := 0
  svec : Word := 0
  intrap : Bool := false
  jobstat : BitVec 2 := 0
  cyc : Word := 0
  prog : List Word := []
  started : Bool := false
  halted : Bool := false
  asleep : Bool := false
  hold : Option SysHold := none
  deriving DecidableEq, Repr

/-- A counter decrement on its way: counter, amount, error flag (R370). -/
structure DecReq where
  ctr : BitVec 12
  amt : BitVec 24
  /-- it comes from a job that ended otherwise than by retirement (R348) -/
  err : Bool := false
  deriving DecidableEq, Repr

/-- A die's copy of a SWM = 1 line whose home is elsewhere: data, dirty mask, poison, the address space that fetched it, its home (R228, R261, R275). -/
structure Copy where
  data : BitVec 1024
  dirty : BitVec 128 := 0
  poison : Bool := false
  asn : BitVec 8 := 0
  home : DieId := 0
  /-- the records that lock it here (R230) -/
  locks : List (Nat × Nat) := []
  deriving DecidableEq, Repr

/-- A die (R10-R19). -/
structure Die where
  fenced : Bool := false
  segs : Map (BitVec 256) := []
  routes : Map Word := []
  keys : Map Word := []
  lftree : BitVec 16 := 0
  egrate : Map Word := []
  /-- until when the packets sent under a key of a port take up the rate of R413, by 16 port + key, in 1/17 ns -/
  egressBusy : Map Nat := []
  copies : Map Copy := []
  standing : Map Nat := []
  /-- FRAME_LOW was noticed and the frame pool's TAIL has not moved since (R235) -/
  lateNoted : Bool := false
  /-- packages whose route changed with earlier packets still out (R367) -/
  rerouted : List (BitVec 13) := []
  groves : Vector Grove 8 := Vector.replicate 8 {}
  cores : Vector Core 64 := Vector.replicate 64 {}
  columns : Vector Column 64 := Vector.replicate 64 {}
  recs : Vector Rec 128 := Vector.replicate 128 {}
  dcs : Map Dc := []
  decs : List DecReq := []
  onZero : List (BitVec 12 × LaunchRec × Fin 16) := []
  lqs : Vector Lq 16 := Vector.replicate 16 {}
  launches : Map Launch := []
  forwards : List Forward := []
  noDispatch : Bool := false
  evq : List Word := []
  evPend : List Word := []
  evOver : Bool := false
  capen : Bool := false
  capbase : Word := 0
  capsize : BitVec 20 := 0
  caphead : BitVec 32 := 0
  captail : BitVec 32 := 0
  capdrop : Word := 0
  profbase : Word := 0
  profsize : BitVec 20 := 0
  profhead : BitVec 32 := 0
  proftail : BitVec 32 := 0
  profdrop : Word := 0
  counts : Map Word := []
  mons : Vector Monitor 16 := Vector.replicate 16 {}
  dispthr : BitVec 2 := 2
  preemptd : BitVec 4 := 2
  wdog : BitVec 32 := 0x01000000
  audfrac : BitVec 6 := 10
  drpthr : BitVec 8 := 45
  drpstr : BitVec 4 := 6
  drpthrot : BitVec 10 := 64
  lockstat : BitVec 5 := 0
  pwrlim : BitVec 12 := BitVec.ofNat 12 Config.plFuse
  pwravg : BitVec 12 := 0
  duty : BitVec 4 := 8
  capping : Bool := false
  hmfloor : BitVec 25 := 1
  regions : Map Region := []
  stamps : Map (BitVec 16) := []
  spareGroups : Nat := 256
  /-- the moments of corrected errors of a row group, and the groups with an uncorrectable one (R390) -/
  groupErrs : Map (List Nat) := []
  groupBad : List Nat := []
  /-- the last window and the last sample judged, in ms and in 64 us of global time (R414, R362) -/
  pwrWindow : Nat := 0
  thermAt : Nat := 0
  audit : List AuditEntry := []
  notices : Map Nat := []
  sys : SysCore := {}
  deriving DecidableEq, Repr

/-- A die-cache line at its home (R228-R232): data, dirty mask, poison, the records that lock it, the home die, and for an unbacked
line without a frame whether it is lost and which record it is charged to (none: the standing count). -/
structure Line where
  data : BitVec 1024 := 0
  dirty : BitVec 128 := 0
  poison : Bool := false
  locks : List (Nat × Nat) := []
  home : DieId := 0
  ub : Bool := false
  lost : Bool := false
  charge : Option (Nat × Nat) := none
  /-- the tick a write allocated it in, and the package core number of the job it was charged to then (R233) -/
  born : Option (Nat × Nat) := none
  deriving DecidableEq, Repr

/-- Something the package sent out: a packet, a notice or a reply (R406-R408). -/
inductive Out where
  | packet (port : Fin 16) (pkg : BitVec 13) (p : Packet)
  | reply (pkg : BitVec 13) (data : List Byte) (poison : Bool)
  | notice (port : Fin 16) (pkg : BitVec 13) (incarn : Option (BitVec 16))
  deriving DecidableEq, Repr

/-- An append on its way to another package (R323, R324): its MSEND's target and word, the entry, and how its port refused it: without a
cause, its generation being over, so that it goes again with a new credit; or with the cause its MSEND stops with. -/
structure Appended where
  tgt : Word
  pc : Word
  entry : List Byte
  refused : Option (Option Cause) := none
  deriving DecidableEq, Repr

/-- A remote write, or a request of a message port, accepted at egress and not acknowledged by its target: package, incarnation, class, the
stream's word, its serial number, and whether it is a write (R269, R367). -/
structure RemoteOut where
  pkg : BitVec 13
  die : DieId
  jrec : Nat
  wid : WriteId
  incarn : BitVec 16 := 0
  ord : Bool := true
  n : Nat := 0
  write : Bool := true
  app : Option Appended := none
  deriving DecidableEq, Repr

/-- The SPDM responder (R411, R412): version and algorithms agreed, the transcript, a session on the mailbox and one of the fabric manager. -/
structure Spdm where
  version : Option Byte := none
  algorithms : Bool := false
  transcript : List Byte := []
  sessions : Nat := 0
  mailbox : Option (List Byte × Bool) := none
  fabric : Option (List Byte × Bool) := none
  reply : List Byte := []
  deriving DecidableEq, Repr

/-- A part of the package whose own steps a turn runs one after another: a word in flight, a slot, a core, a canopy column, a die. -/
inductive Own where
  | word (w : Who) (id : Nat)
  | slot (d : DieId) (c : CoreId) (k : SlotId)
  | core (d : DieId) (c : CoreId)
  | column (d : DieId) (col : CoreId)
  | die (d : DieId)
  deriving DecidableEq, Repr

/-- A packet that waits at egress for its partition's rate (R413): when it may leave, in 1/17 ns. -/
structure Departure where
  due : Nat
  ord : Bool
  port : Fin 16
  pkg : BitVec 13
  packet : Packet
  deriving DecidableEq, Repr

/-- A turn of the agenda: what the machine does next (log 4). -/
inductive Turn where
  /-- one nominal clock period passes -/
  | tick
  /-- engine e of a core chooses a slot and issues (R35) -/
  | engine (d : DieId) (c : CoreId) (e : Engine)
  /-- a die's system core issues -/
  | sysCore (d : DieId)
  /-- a step of the machine -/
  | event (i : Instr)
  | own (o : Own)
  /-- a line leaves a die's copies, a core's L1, a TLB entry goes (R225, R228, R244) -/
  | evict (d : DieId) (key : Nat)
  | l1Drop (d : DieId) (c : CoreId) (i : Nat)
  | tlbDrop (d : DieId) (c : CoreId) (i : Nat)
  /-- soft errors (R387-R392, log 21): bytes poisoned, a canopy row, a tile row, an array fault of an MMA, an instruction word -/
  | upsetLine (d : DieId) (key : Nat)
  | upsetSp (d : DieId) (r : RecId) (unit : Nat)
  | upsetSram (d : DieId) (g : GroveId) (unit : Nat)
  | upsetRow (d : DieId) (col : CoreId) (prow bits : Nat)
  | upsetTile (d : DieId) (r : RecId) (z : Fin 4) (row : Fin 32)
  | upsetArray (d : DieId) (c : CoreId)
  | upsetState (w : Who) (off : Word)
  | upsetFetch (w : Who)
  | upsetArea (d : DieId) (r : RecId) (off : Nat)
  | upsetTq (d : DieId) (r : RecId) (q : Fin 32) (i : Nat)
  | upsetGroveTq (d : DieId) (g : GroveId) (q : Fin 16) (i : Nat)
  | upsetDq (d : DieId) (r : RecId) (q : Fin 16) (i : Nat)
  | upsetTree (d : DieId) (col : CoreId) (copy : Fin 2)
  /-- a corrected error, with the row group of one in the understory -/
  | corrected (d : DieId) (what : Fin 3) (group : Fin 16384)
  /-- an error in slot i of a core's tile cache (R286), and a row of a die's DRAM repaired at start-up (R405) -/
  | upsetCached (d : DieId) (c : CoreId) (i : Nat) (fixed : Bool)
  | lpRepair (d : DieId)
  /-- firmware overrides the fused package identity (R406, log 8) -/
  | identity (id : BitVec 13)
  | resent (p : Fin 16)
  deriving DecidableEq, Repr

/-- The clock record: nominal periods since package reset and the TSC replicas in 1/17 ns (R16, R378). -/
structure Clock where
  tick : Nat := 0
  rep : Vector Nat 4 := Vector.replicate 4 0
  deriving DecidableEq, Repr

/-- The state of the package. -/
structure State where
  clock : Clock := {}
  dies : Vector Die 4 := Vector.replicate 4 {}
  lpddr : Memory := []
  lpPoison : List Nat := []
  hostMem : Memory := []
  hostPoison : List Nat := []
  masters : Map Line := []
  incarnation : BitVec 16 := 0
  packageId : BitVec 13 := Config.fusedIdentity
  idOverridden : Bool := false
  boot : BitVec 3 := 0
  trip : BitVec 4 := 0
  hsaddr : Word := 0
  hsdata : Word := 0
  hsstat : BitVec 2 := 0
  /-- what the host's last read returned, each byte with its poison -/
  hostRead : List (Byte × Bool) := []
  msix : BitVec 6 := 0
  measures : Map (BitVec 512) := []
  spdm : Spdm := {}
  firmware : Option (List Byte) := none
  /-- spare lanes left of a UCIe module, 80 b + m; absent: 4; 0 after retirement is Map 5 (R403) -/
  lanes : Map Nat := []
  retiredModules : List Nat := []
  linkDown : BitVec 16 := 0
  noticed : List (BitVec 13 × Option (BitVec 16)) := []
  deadPkgs : List (BitVec 13 × Option (BitVec 16)) := []
  outbox : List Out := []
  departing : List Departure := []
  remoteOut : List RemoteOut := []
  /-- how many of them there have been -/
  outSeq : Nat := 0
  /-- the CXL port failed to train (R398) -/
  cxlDown : Bool := false
  /-- buffers whose new accesses are held: ASN and buffer (R238, R359) -/
  held : List (BitVec 8 × BitVec 12) := []
  cur : Who := .eng 0 0 0 .c
  agenda : List Turn := []
  free : Nat := 0
  deriving DecidableEq, Repr

/-- The machine's own stops. Each is safe: the model stops where a proof could otherwise lean on a value it made up. -/
inductive Fault where
  /-- exec was asked to run a word for a stream that does not exist: no word of the machine reaches issue there (safe; raised by runWord) -/
  | noStream
  deriving DecidableEq, Repr

/-- Refusals. -/
inductive Refusal where
  /-- an instruction whose meaning is not written yet (safe; raised by exec's arms only) -/
  | notModelled (mnemonic : String)
  /-- the agenda named an instruction word as an event: words are issued by their streams (safe; raised by step) -/
  | notAnEvent
  deriving DecidableEq, Repr

/-- p0 reads true in every stream (R107). -/
def freshStream : Stream := { p := (Vector.replicate 8 false).set 0 true }

/-- The machine right after package reset, before start-up (R409, R410): every field at the value INVENTORY.md names. -/
def State.reset : State :=
  { dies := Vector.replicate 4 { sys := { stream := freshStream } } }

end Sys2Proof.Machine
end

