-- ==== Sys2Proof/Machine/Ops.lean ====
section
/-! DEFINITION. The named operations over the state: places, registers with their shadows, tokens, words in flight, events, and taking and
leaving an exception (spec/02_jobs.md R29-R34, spec/04_encoding.md R80, R81, spec/09_registers_control.md R200-R212). -/

namespace Sys2Proof.Machine
open Sys2Proof

/-- The grove of a core (R13). -/
def groveOf (c : CoreId) : GroveId := ⟨c.val / 8, by omega⟩
/-- The package core number (R13). -/
def pkgCore (d : DieId) (c : CoreId) : Nat := 64 * d.val + c.val

def State.die (s : State) (d : DieId) : Die := s.dies[d]
def State.updDie (s : State) (d : DieId) (f : Die → Die) : State := { s with dies := s.dies.set d (f (s.dies[d])) }
def State.core (s : State) (d : DieId) (c : CoreId) : Core := (s.die d).cores[c]
def State.updCore (s : State) (d : DieId) (c : CoreId) (f : Core → Core) : State :=
  s.updDie d fun x => { x with cores := x.cores.set c (f (x.cores[c])) }
def State.grove (s : State) (d : DieId) (g : GroveId) : Grove := (s.die d).groves[g]
def State.updGrove (s : State) (d : DieId) (g : GroveId) (f : Grove → Grove) : State :=
  s.updDie d fun x => { x with groves := x.groves.set g (f (x.groves[g])) }
def State.column (s : State) (d : DieId) (c : CoreId) : Column := (s.die d).columns[c]
def State.updColumn (s : State) (d : DieId) (c : CoreId) (f : Column → Column) : State :=
  s.updDie d fun x => { x with columns := x.columns.set c (f (x.columns[c])) }
def State.sysc (s : State) (d : DieId) : SysCore := (s.die d).sys
def State.updSys (s : State) (d : DieId) (f : SysCore → SysCore) : State := s.updDie d fun x => { x with sys := f x.sys }

/-- The job in record r of a die. -/
def State.job? (s : State) (d : DieId) (r : Nat) : Option Job := ((s.die d).recs[r]?).bind (·.job)
/-- Changes the job in record r. -/
def State.updJob (s : State) (d : DieId) (r : Nat) (f : Job → Job) : State :=
  s.updDie d fun x => { x with recs := updAt x.recs r fun y => { y with job := y.job.map f } }
/-- The record whose job is in a slot. -/
def State.slotRec? (s : State) (d : DieId) (c : CoreId) (k : SlotId) : Option Nat := (s.core d c).slots[k]
/-- The job in a slot. -/
def State.slotJob? (s : State) (d : DieId) (c : CoreId) (k : SlotId) : Option Job := (s.slotRec? d c k).bind (s.job? d)

/-- The cycle count a stream lives by: its grove's, or nominal periods on the system core (log 18). -/
def State.timeOf (s : State) : Who → Nat
  | .eng d c _ _ => (s.grove d (groveOf c)).cyc
  | .sys _ => s.clock.tick

/-- The current stream's die. -/
def whoDie : Who → DieId
  | .eng d _ _ _ => d
  | .sys d => d

/-- A stream that exists: of a job in the named slot, or a system core that was started. -/
def State.stream? (s : State) : Who → Option Stream
  | .eng d c k e => (s.slotJob? d c k).map fun j => j.streams[e.idx]
  | .sys d => if (s.sysc d).started then some (s.sysc d).stream else none

/-- Changes a stream. -/
def State.updStream (s : State) (w : Who) (f : Stream → Stream) : State :=
  match w with
  | .eng d c k e =>
    match s.slotRec? d c k with
    | some r => s.updJob d r fun j => { j with streams := j.streams.set e.idx (f (j.streams[e.idx])) }
    | none => s
  | .sys d => s.updSys d fun x => { x with stream := f x.stream }

/-- The job a stream belongs to. -/
def State.jobOf? (s : State) : Who → Option Job
  | .eng d c k _ => s.slotJob? d c k
  | .sys _ => none

/-- Changes the job a stream belongs to. -/
def State.updJobOf (s : State) (w : Who) (f : Job → Job) : State :=
  match w with
  | .eng d c k _ =>
    match s.slotRec? d c k with
    | some r => s.updJob d r f
    | none => s
  | .sys _ => s

/-- The current stream (an empty one where none exists), its job and its cycle. -/
def State.str (s : State) : Stream := (s.stream? s.cur).getD {}
def State.jb (s : State) : Job := (s.jobOf? s.cur).getD {}
def State.now (s : State) : Nat := s.timeOf s.cur
def State.updStr (s : State) (f : Stream → Stream) : State := s.updStream s.cur f
def State.updJb (s : State) (f : Job → Job) : State := s.updJobOf s.cur f

/-- The engine a stream issues on, by its index; 5 for the system core (R200). -/
def whoNum : Who → Nat
  | .eng _ _ _ e => e.idx.val
  | .sys _ => 5

/-! ## Reading registers inside and outside shadows (R33, R105) -/

/-- Has the word's result landed by this cycle? -/
def Flight.landed (f : Flight) (now : Nat) : Bool :=
  match f.land with
  | some t => decide (t ≤ now)
  | none => false

/-- The values a read may return (R33): the latest-issued landed write, or the base, then every later write still in flight. -/
def shadow {α : Type} (now : Nat) (base : α) (fs : List Flight) (get : Eff → Option α) : List α :=
  fs.foldl (fun l f => f.effs.foldl (fun l e =>
    match get e with
    | none => l
    | some v => if f.landed now then [v] else l ++ [v]) l) [base]

/-- One of the allowed values, afresh for each read: a free value where there is more than one (log 3). -/
def State.choose {α : Type} (s : State) (site : Nat) (d : α) : List α → α
  | [] => d
  | [v] => v
  | l => l.getD (Config.freeNat s.free site % l.length) d

/-- xr(n) of R79 as the k-th read of this word. -/
def State.readX (s : State) (k : Nat) (r : BitVec 5) : Word :=
  if r = 0 then 0
  else s.choose k 0 (shadow s.now (s.str.x[r.toNat]?.getD 0) s.str.flights fun
    | .x q v => if q = r then some v else none
    | _ => none)

/-- A predicate; p0 reads true (R107). -/
def State.readP (s : State) (k : Nat) (r : BitVec 3) : Bool :=
  if r = 0 then true
  else s.choose k false (shadow s.now (s.str.p[r.toNat]?.getD false) s.str.flights fun
    | .p q v => if q = r then some v else none
    | _ => none)

/-- A branch target; the interlock of R34 leaves it no shadow. -/
def State.readB (s : State) (r : BitVec 2) : Word :=
  s.choose 60 0 (shadow s.now (s.str.b[r.toNat]?.getD 0) s.str.flights fun
    | .b q v => if q = r then some v else none
    | _ => none)

/-- The guard's value (R78). -/
def State.guard (s : State) (g : Guard) : Bool := s.readP 61 g.p != g.pn

/-- Values of a table the job's streams share: the writer's own flights give candidates; another engine sees old or new whole (R111, R351). -/
def State.readTable {α : Type} (s : State) (site : Nat) (base : α) (owner : Engine) (get : Eff → Option α) : α :=
  s.choose site base (shadow s.now base (s.jb.streams[owner.idx]).flights get)

/-- The tensor entry a word names, read whole once (R351). -/
def State.tensor (s : State) (site : Nat) (t : BitVec 6) : BitVec 256 :=
  s.readTable site (s.jb.tensors[t.toNat]?.getD 0) .a fun
    | .tensor q v => if q = t then some v else none
    | _ => none

/-- Where a word reads the second tensor entry it names: one named twice is read once (R351). -/
def secondSite (t u : BitVec 6) : Nat := if t = u then 3 else 4

/-- The transform spec a word names (R351). -/
def State.xspec (s : State) (site : Nat) (n : BitVec 4) : BitVec 128 :=
  s.readTable site (s.jb.xspecs[n.toNat]?.getD 0) .t fun
    | .xspec q v => if q = n then some v else none
    | _ => none

/-- The chain-table entry (R191). -/
def State.chainEntry (s : State) (site : Nat) (n : BitVec 3) : BitVec 128 :=
  s.readTable site (s.jb.chains[n.toNat]?.getD 0) .v fun
    | .chain q v => if q = n then some v else none
    | _ => none

/-- A mask, whole; m0 reads all ones (R171, R174). -/
def State.mask (s : State) (site : Nat) (n : BitVec 3) : BitVec 4096 :=
  if n = 0 then BitVec.allOnes 4096
  else s.readTable site (s.jb.masks[n.toNat]?.getD 0) .v fun
    | .mask q v => if q = n then some v else none
    | _ => none

/-- The stream's RMODE as this word sees it (R58, R197). -/
def State.rmode (s : State) : BitVec 3 :=
  s.choose 62 0 (shadow s.now s.str.rmode s.str.flights fun
    | .csr n v => if n = 1 then some (v.extractLsb' 0 3) else none
    | _ => none)

/-- A slot control register as this word sees it: the writing stream is C (R195, R197). -/
def State.slotCsr (s : State) (site : Nat) (n : BitVec 12) (base : Word) : Word :=
  s.choose site base (shadow s.now base (s.jb.streams[(0 : Fin 5)]).flights fun
    | .csr m v => if m = n then some v else none
    | _ => none)

/-- ABFTTOL as this word sees it (R157, R197). -/
def State.tolSeen (s : State) : BitVec 32 := (s.slotCsr 66 0x011 (zx64 s.jb.abfttol)).extractLsb' 0 32

/-! ## Writing results -/

/-- The bit of a W1024 element's class in a tile's class bits. -/
def clsBits : Cls → BitVec 2
  | .fin => 0 | .pinf => 1 | .ninf => 2 | .nan => 3
def clsOf (b : BitVec 2) : Cls := if b = 0 then .fin else if b = 1 then .pinf else if b = 2 then .ninf else .nan

/-- Replaces the n bits at position lo of a bit vector. -/
def setBits {w : Nat} (v : BitVec w) (lo n x : Nat) : BitVec w :=
  (v &&& ~~~((BitVec.ofNat w (2 ^ n - 1)) <<< lo)) ||| ((BitVec.ofNat w (x % 2 ^ n)) <<< lo)

/-- Writes row r of a tile with the row's 64 class bits. -/
def Tile.setRow (t : Tile) (r : Nat) (v : Row) (cls : BitVec 64) : Tile :=
  { t with rows := t.rows.setIfInBounds r v, cls := setBits t.cls (64 * r) 64 cls.toNat, ue := setBits t.ue r 1 0 }

/-- Changes tile z of a job. -/
def Job.updTile (j : Job) (z : BitVec 2) (f : Tile → Tile) : Job :=
  { j with tiles := updAt j.tiles z.toNat f }
/-- Tile z of a job. -/
def Job.tile (j : Job) (z : BitVec 2) : Tile := j.tiles[z.toNat]?.getD {}

/-- Flags set in this cycle or later. -/
def Stream.flagsFrom (st : Stream) (t : Nat) : FlagSet := st.flagged.foldl (fun a p => if t ≤ p.1 then a ||| p.2 else a) 0

/-- Writes a register effect into a stream in cycle now (R105-R108); x0 and p0 discard (R79). A write of FSTAT keeps flags set in its
cycle (R197). -/
def Stream.applyEff (now : Nat) (st : Stream) : Eff → Stream
  | .x r v => if r = 0 then st else { st with x := st.x.setIfInBounds r.toNat v }
  | .p r v => if r = 0 then st else { st with p := st.p.setIfInBounds r.toNat v }
  | .b r v => { st with b := st.b.setIfInBounds r.toNat v }
  | .csr n v =>
    if n = 0 then { st with fstat := v.extractLsb' 0 5 ||| st.flagsFrom now }
    else if n = 1 then { st with rmode := v.extractLsb' 0 3 } else st
  | .fstatX since v => { st with fstat := v.extractLsb' 0 5 ||| st.flagsFrom (since + 1) }
  | .flags f => { st with fstat := st.fstat ||| f, flagged := (now, f) :: st.flagged.filter fun p => decide (now ≤ p.1 + 4) }
  | _ => st

/-- Writes a shared effect into the job: tables, masks, rows, slot registers. -/
def Job.applyEff (j : Job) : Eff → Job
  | .mask r v => if r = 0 then j else { j with masks := j.masks.setIfInBounds r.toNat v }
  | .row r v c => j.updTile (r.extractLsb' 5 2) fun t => t.setRow (r.toNat % 32) v c
  | .lane r w k v => j.updTile (r.extractLsb' 5 2) fun t =>
      { t with rows := updAt t.rows (r.toNat % 32) fun b => setBits b (w * k) w v }
  | .tensor t v => { j with tensors := j.tensors.setIfInBounds t.toNat v }
  | .xspec n v => { j with xspecs := j.xspecs.setIfInBounds n.toNat v }
  | .chain n v => { j with chains := j.chains.setIfInBounds n.toNat v }
  | .csr n v =>
    if n = 0x010 then { j with accctl := v.getLsbD 0 }
    else if n = 0x011 then { j with abfttol := if v.extractLsb' 0 32 = 0x80000000 then 0 else v.extractLsb' 0 32 }
    else j
  | _ => j

/-- Do two effects write the same register? A later-issued landed write silences an earlier one (R33); a row of V is
one register, whichever lanes a write gives it (log 87). -/
def Eff.same : Eff → Eff → Bool
  | .x u _, .x y _ => u == y
  | .p u _, .p y _ => u == y
  | .b u _, .b y _ => u == y
  | .mask u _, .mask y _ => u == y
  | .row u .., .row y .. => u == y
  | .row u .., .lane y .. | .lane u .., .row y .. => u == y
  | .tensor u _, .tensor y _ => u == y
  | .xspec u _, .xspec y _ => u == y
  | .chain u _, .chain y _ => u == y
  | .csr u _, .csr y _ => u == y
  | .fstatX .., .csr y _ => y == 0
  | .csr u _, .fstatX .. => u == 0
  | .fstatX .., .fstatX .. => true
  | _, _ => false

/-- What earlier-issued flights would still write to the destinations of the landing effects is discarded (R33). -/
def silence (id : Nat) (effs : List Eff) (fs : List Flight) : List Flight :=
  fs.map fun f => if f.id < id then { f with effs := f.effs.filter fun e => !effs.any fun n => n.same e } else f

/-- A control register of a die or of its system core takes a value (R195, R198). -/
def Die.putCsr (x : Die) (n : BitVec 12) (v : Word) : Die :=
  if n = 0x100 then { x with dispthr := v.extractLsb' 0 2 }
  else if n = 0x101 then { x with preemptd := v.extractLsb' 0 4 }
  else if n = 0x102 then { x with wdog := v.extractLsb' 0 32 }
  else if n = 0x103 then { x with audfrac := v.extractLsb' 0 6 }
  else if n = 0x104 then { x with drpthr := v.extractLsb' 0 8 }
  else if n = 0x105 then { x with drpstr := v.extractLsb' 0 4 }
  else if n = 0x106 then { x with drpthrot := v.extractLsb' 0 10 }
  else if n = 0x108 then { x with sys := { x.sys with svec := v } }
  else if n = 0x109 then { x with sys := { x.sys with intrap := v.getLsbD 0 } }
  else if n = 0x018 then { x with sys := { x.sys with trapCause := v.extractLsb' 0 8 } }
  else if n = 0x019 then { x with sys := { x.sys with trapStream := v.extractLsb' 0 3 } }
  else if n = 0x01A then { x with sys := { x.sys with trapPc := v } }
  else if n = 0x01B then { x with sys := { x.sys with trapInfo0 := v } }
  else if n = 0x01C then { x with sys := { x.sys with trapInfo1 := v } }
  else if n = 0x10C then { x with sys := { x.sys with jobstat := v.extractLsb' 0 2 } }
  else x

/-- Writes the effects of a landing word. -/
def State.applyEffs (s : State) (w : Who) (effs : List Eff) : State :=
  let now := s.timeOf w
  let s := s.updStream w fun st => effs.foldl (Stream.applyEff now) st
  match w with
  | .eng .. => s.updJobOf w fun j => effs.foldl Job.applyEff j
  | .sys d => s.updDie d fun x => effs.foldl (fun x e => match e with
    | .csr n v => x.putCsr n v
    | _ => x) x

/-! ## Tokens (R30, R31, R301) -/

/-- The other engines of an engine in mask order (R30). -/
def otherEngines : Engine → List Engine
  | .c => [.a, .t, .m, .v] | .a => [.c, .t, .m, .v] | .t => [.c, .a, .m, .v] | .m => [.c, .a, .t, .v] | .v => [.c, .a, .t, .m]

/-- The engines a token mask names. -/
def maskEngines (e : Engine) (m : BitVec 4) : List Engine :=
  ((otherEngines e).zipIdx).filterMap fun (x, i) => if m.getLsbD i then some x else none

/-- Where the queue from x towards y stands in a job's tokens. -/
def tokIdx (x y : Engine) : Nat := 5 * x.idx.val + y.idx.val
def Job.toks (j : Job) (x y : Engine) : List Tok := j.tokens[tokIdx x y]?.getD []

/-- Tokens from x towards y that were sent before this cycle. -/
def Job.tokCount (j : Job) (x y : Engine) (now : Nat) : Nat := ((j.toks x y).filter fun t => decide (t.sent < now)).length

/-- Removes n tokens from the head and gives what their releases cover. -/
def Job.popToks (j : Job) (x y : Engine) (n : Nat) : Job × List WriteId :=
  ({ j with tokens := j.tokens.setIfInBounds (tokIdx x y) ((j.toks x y).drop n) }, ((j.toks x y).take n).flatMap (·.cov))

/-- Is a write with this identity still unacknowledged in the job? -/
def Job.outstanding (j : Job) (i : WriteId) : Bool :=
  match j.streams[i.1]? with
  | some st => st.flights.any fun f => f.id == i.2
  | none => false

/-- Words that write memory: what a release of their stream covers (R268, R269). -/
def Work.isWrite : Work → Bool
  | .stx .. | .atomic .. | .store .. | .msend .. | .wback .. | .ubdisc .. | .xfill .. | .tqin .. | .sysWrite .. => true
  | .mrd _ t .. => decide (bits t 223 221 < 4)
  | .index op .. => op != 0
  | .seedfit .. => true
  | _ => false

/-- Is a write of a job's record, or one from outside the job, still unacknowledged at its core, or by its remote target (R269)? -/
def State.pendingWrite (s : State) (d : DieId) (r : Nat) (i : WriteId) : Bool :=
  if i.1 = foreignWrites then s.remoteOut.any fun o => o.write && decide (o.n < i.2)
  else if i.1 = sysWrites then (s.sysc d).stream.flights.any fun f => f.id == i.2
  else
    (match s.job? d r with
      | some j => j.outstanding i
      | none => false) || s.remoteOut.any fun o => o.die == d && o.jrec == r && o.wid == i

/-- Names A's credit request for a target, among its stream's packets that are out (R323, R367). -/
def creditRequest (tgt : Nat) : Nat := 2 ^ 41 + tgt
/-- Names a write that is out though its job has ended, among the packets that are out (R268). -/
def orphanWrite (n : Nat) : Nat := 2 ^ 80 + n

/-- What an acquire from outside the job may cover that is not over: writes still on their way to other packages (R268; log 95). -/
def State.foreign (s : State) : List WriteId := if s.remoteOut = [] then [] else [(foreignWrites, s.outSeq)]

/-- A stream acquires from outside its job (R268, R273). -/
def State.acquireForeign (s : State) (w : Who) : State :=
  s.updStream w fun st => { st with cov := s.foreign ++ st.cov.filter fun i => i.1 != foreignWrites }

/-- Every stream of a job acquires from outside it (R268, R273). -/
def Job.acquireAll (j : Job) (from_ : List WriteId) : Job :=
  { j with streams := j.streams.map fun (st : Stream) => { st with cov := from_ ++ st.cov.filter fun i => i.1 != foreignWrites } }

/-- What a release by engine number e covers now: its own writes issued before word id that are unacknowledged, and those it acquired. -/
def State.covers (s : State) (w : Who) (before : Nat) : List WriteId :=
  match w with
  | .sys d => (((s.sysc d).stream.flights.filter fun f => f.work.isWrite && decide (f.id < before)).map fun f => (sysWrites, f.id)) ++
      (s.sysc d).stream.cov.filter fun i => s.pendingWrite d 0 i
  | .eng d c k e =>
    match s.slotRec? d c k, s.stream? w with
    | some r, some st =>
      let n := e.idx.val
      ((st.flights.filter fun f => f.work.isWrite && decide (f.id < before)).map fun f => (n, f.id)) ++
        ((s.remoteOut.filter fun o => o.die == d && o.jrec == r && o.wid.1 == n && decide (o.wid.2 < before)).map fun o => o.wid) ++
        st.cov.filter fun i => s.pendingWrite d r i
    | _, _ => []

/-- An acquire drops every L1 line of a core, and what its fills bring (R244, R275). -/
def Core.dropL1s (x : Core) : Core := { x with l1 := [], fills := x.fills.map fun (p : Fill) => { p with stale := true } }

/-- Drops every L1 line of a stream's core, and the fills on their way: an acquire (R244, R275). -/
def State.acquireL1 (s : State) (w : Who) : State :=
  match w with
  | .eng d c _ _ => s.updCore d c Core.dropL1s
  | .sys _ => s

/-- An acquire of A's by tokens drops its L1 (R244, R273). -/
def State.acquireTokens (s : State) : State :=
  match s.cur with
  | .eng _ _ _ .a => s.acquireL1 s.cur
  | _ => s

/-- An acquire from outside its job by a stream takes effect (R268, R275). -/
def State.acquire (s : State) (w : Who) : State := (s.acquireL1 w).acquireForeign w

/-- Tokens named by a mask, popped (R30); the stream acquires what they cover. -/
def State.popMask (s : State) (e : Engine) (m : BitVec 4) (extra : Option (Engine × Nat)) : State :=
  let xs := (maskEngines e m).map fun x => (x, 1)
  let xs := match extra with
    | some p => xs ++ [p]
    | none => xs
  let s := if xs = [] then s else s.acquireTokens
  xs.foldl (fun s p =>
    let r := s.jb.popToks p.1 e p.2
    (s.updJb fun _ => r.1).updStr fun st => { st with cov := st.cov ++ r.2 }) s

/-- Are the tokens a word pops present (R29, R304)? -/
def State.tokensReady (s : State) (m : BitVec 4) (extra : Option (Engine × Nat)) : Bool :=
  match s.cur with
  | .sys _ => true
  | .eng _ _ _ e =>
    let need (x : Engine) : Nat := (if (maskEngines e m).contains x then 1 else 0) +
      (match extra with
        | some (y, n) => if y = x then n else 0
        | none => 0)
    (otherEngines e).all fun x => decide (need x ≤ s.jb.tokCount x e s.now)

/-! ## Events and time of the package -/

/-- TSC in nanoseconds on a die, as its replica stands (R378). -/
def State.tsc (s : State) (d : DieId) : Word := BitVec.ofNat 64 (s.clock.rep[d] / 17)
/-- Global time in units of 1/17 ns: ten a nominal period (R16). -/
def State.time (s : State) : Nat := 10 * s.clock.tick
/-- One millisecond in those units. -/
def msUnits : Nat := 17000000
/-- A microsecond and a nanosecond in the same units. -/
def usUnits : Nat := 17000
def nsUnits : Nat := 17

/-- Is the die live (R404)? -/
def State.live (s : State) (d : DieId) : Bool := !(s.die d).fenced
/-- The master: the lowest-numbered live die (R18). -/
def State.master (s : State) : DieId := ((List.finRange 4).find? s.live).getD 0

/-- An event record (R210). -/
def eventRecord (kind : Nat) (fatal : Bool) (cause : BitVec 7) (core : Nat) (handle : BitVec 32) : Word :=
  BitVec.ofNat 8 kind ++ BitVec.ofBool fatal ++ cause ++ (0 : BitVec 8) ++ BitVec.ofNat 8 core ++ handle

/-- A job's handle (R207). -/
def handleOf (gen : BitVec 24) (r : Nat) : BitVec 32 := gen ++ BitVec.ofNat 8 (r % 128)

/-- Wakes a system core that sleeps at END (R211). -/
def SysCore.wake (x : SysCore) : SysCore := { x with asleep := false }

/-- Fences a die (R404): its clocks stop, FENCED is set, MSI-X is raised. -/
def State.fence (s : State) (d : DieId) : State :=
  { (s.updDie d fun x => { x with fenced := true }) with msix := s.msix ||| (1#6 <<< d.val) }

/-- The ports a notice leaves by: those a live die's LFTREE marks whose link is up (R408; log 63). -/
def State.treePorts (s : State) : List (Fin 16) :=
  (List.finRange 16).filter fun p => !s.linkDown.getLsbD p.val && s.live (Fin.ofNat 4 (p.val / 4)) && (s.die (Fin.ofNat 4 (p.val / 4))).lftree.getLsbD p.val

/-- LATECNT of the die's frame pool counts from die reset (R235). -/
def Memory.clearLatecnt (m : Memory) : Memory := (List.range 4).foldl (fun m d => m.writes (d * 2 ^ 37 + 40) (leBytes 8 0)) m

/-- Package reset (R409, R410 step 1): every volatile field at its reset value; the canopy, its engines' non-volatile registers,
the fused identity and the counted incarnation kept; an override of the identity is not (log 8). The new incarnation is announced on the ports the
tree marked until then (R408; log 63); a message raised to the host is on its way (R399). -/
def State.packageReset (s : State) (trip : Bool) : State :=
  { State.reset with
    dies := Vector.ofFn fun d => { (State.reset.dies[d]) with
      columns := (s.dies[d]).columns.map fun (c : Column) =>
        { c with
          queue := [], low := false, past := []
          run := none
          returned := c.returned ++ (match c.run with
            | some r => r.made.map (·.2) ++ r.prow.toList
            | none => []) }
      groves := Vector.ofFn fun g => { (({} : Grove)) with
        pgmperm := ((s.dies[d]).groves[g]).pgmperm, wearlim := ((s.dies[d]).groves[g]).wearlim
        poollow := ((s.dies[d]).groves[g]).poollow, govctl := ((s.dies[d]).groves[g]).govctl } }
    incarnation := s.incarnation + 1
    trip := if trip then 1 else 0
    hostMem := s.hostMem
    hostPoison := s.hostPoison
    lpddr := s.lpddr.clearLatecnt
    lpPoison := s.lpPoison
    msix := s.msix
    outbox := s.outbox ++ s.treePorts.map fun p => Out.notice p s.packageId (some (s.incarnation + 1))
    free := s.free }

/-- An event that needs no place of its own: into the queue, or pending behind a full one (R210). -/
def State.pushEvent (s : State) (d : DieId) (ev : Word) : State :=
  s.updDie d fun x =>
    if x.evq.length < 512 ∧ x.evPend = [] then { x with evq := x.evq ++ [ev], sys := x.sys.wake }
    else { x with evPend := x.evPend ++ [ev] }

/-- A number of its own for every stream, under 2^13; whole jobs and system cores count on from 2^13. -/
def whoSite : Who → Nat
  | .eng d c k e => 1024 * d.val + 16 * c.val + 8 * k.val + e.idx.val
  | .sys d => 2 ^ 13 + 1024 + d.val

/-- A number for a cause of a whole job, by its record. -/
def jobSite (d : DieId) (r : Nat) : Nat := 2 ^ 13 + 128 * d.val + r

/-- Two words for the info of a stop the spec gives none: free values (log 38). -/
def State.bare (s : State) (site : Nat) : Word × Word :=
  (BitVec.ofNat 64 (Config.freeNat s.free (2 ^ 18 + 2 * site)), BitVec.ofNat 64 (Config.freeNat s.free (2 ^ 18 + 2 * site + 1)))

/-- TRAPINFO0 and TRAPINFO1 of a stop (R80): its info, zero above it; a half below what the spec gives, or an info it does not give, is free. -/
def Stop.words (st : Stop) (bare : Word × Word) : Word × Word :=
  (st.info0.getD bare.1, match st.info1 with
    | some v => v
    | none => if st.info0.isSome then 0 else bare.2)

/-- A control register of the system core as a stop sees it: a CSRW of it that has not landed may have taken effect or not (R197, R33). -/
def State.sysSees (s : State) (d : DieId) (site : Nat) (n : BitVec 12) (base : Word) : Word :=
  s.choose site base (shadow (s.timeOf (.sys d)) base (s.sysc d).stream.flights fun
    | .csr m v => if m = n then some v else none
    | _ => none)
/-- INTRAP and SVEC as a stop of the system core sees them. -/
def State.sysInTrap (s : State) (d : DieId) : Bool := (s.sysSees d 74 0x109 (zx64 (BitVec.ofBool (s.sysc d).intrap))).getLsbD 0
def State.sysVec (s : State) (d : DieId) : Word := s.sysSees d 75 0x108 (s.sysc d).svec

/-- A stop enters the system core's trap registers (R212): INTRAP is set, and the core goes on at SVEC. -/
def State.sysEnter (s : State) (d : DieId) (pc : Word) (st : Stop) : State :=
  let info := st.words (s.bare (whoSite (.sys d)))
  let vec := s.sysVec d
  s.updSys d fun x => { x with
    trapCause := BitVec.ofBool st.cause.fatal ++ st.cause.code, trapStream := 5, trapPc := pc
    trapInfo0 := info.1, trapInfo1 := info.2, intrap := true, asleep := false
    stream := { x.stream with pc := vec } }

/-- An event for a die's system core enters its queue or pends behind a full one; the first to find the queue full raises EVENT_OVER there
(R210). Answers whether it does. -/
def State.offerEvent (s : State) (d : DieId) (ev : Word) : State × Bool :=
  let full := decide (512 ≤ (s.die d).evq.length) && !(s.die d).evOver
  let s := s.pushEvent d ev
  (if full then s.updDie d fun x => { x with evOver := true } else s, full)

/-- MACHINE_CHECK on die d (R212, R400, R404): the core halts, nothing new is dispatched, the master's core gets an MCHECK event;
a die other than 0 is fenced, die 0 resets the package. An EVENT_OVER that the event raises on a master that is in a trap is its own
MACHINE_CHECK. -/
def State.machineCheck (s : State) (d : DieId) : State :=
  let s := s.updDie d fun x => { x with noDispatch := true, sys := { x.sys with halted := true } }
  let m := s.master
  let (s, full) := s.offerEvent m (eventRecord 7 true Cause.machineCheck.code 0xFF 0)
  let s := { s with msix := s.msix ||| (1#6 <<< d.val) }
  if d = 0 ∨ (full = true ∧ s.sysInTrap m = true ∧ m = 0) then s.packageReset false
  else
    let s := s.fence d
    if full && !s.sysInTrap m then s.sysEnter m (s.sysc m).stream.pc { cause := .eventOver } else s

/-- A stop on the system core (R212): its trap registers, INTRAP, SVEC; or MACHINE_CHECK. -/
def State.sysTrap (s : State) (d : DieId) (pc : Word) (st : Stop) : State :=
  if s.sysInTrap d then s.machineCheck d else s.sysEnter d pc st

/-- Queues an event for a die's system core, with the stop it may raise there (R210). -/
def State.queueEvent (s : State) (d : DieId) (ev : Word) : State :=
  let (s, full) := s.offerEvent d ev
  if full then s.sysTrap d (s.sysc d).stream.pc { cause := .eventOver } else s

/-- The oldest event, removed (R211); a pending one then enters by EVENT_ENTER (R210), and until none pends the queue counts as full (log 36).
Answers 0 when the queue is empty. -/
def State.popEvent (s : State) (d : DieId) : Word × State :=
  match (s.die d).evq with
  | [] => (0, s)
  | e :: r => (e, s.updDie d fun x => { x with evq := r, evOver := x.evOver && x.evPend != [] })

/-- Queues a notice (R205, R210). -/
def State.notice (s : State) (d : DieId) (c : Cause) (core : Nat) (handle : BitVec 32) : State :=
  s.queueEvent d (eventRecord 5 c.fatal c.code core handle)

/-- A notice queued at most once per 1 ms under a key (R386, R387, R394). -/
def State.noticeMs (s : State) (d : DieId) (key : Nat) (c : Cause) (core : Nat) : State :=
  match (s.die d).notices.get? key with
  | some t => if s.time < t + msUnits then s else
      (s.updDie d fun x => { x with notices := x.notices.put key s.time }).notice d c core 0
  | none => (s.updDie d fun x => { x with notices := x.notices.put key s.time }).notice d c core 0

/-- Adds to a die count (R383). -/
def State.count (s : State) (d : DieId) (off : Nat) (n : Nat) : State :=
  s.updDie d fun x => { x with counts := x.counts.put off (x.counts.getD off 0 + BitVec.ofNat 64 n) }

/-! ## Taking an exception (R80, R81, R200-R203) -/

/-- Is the job one whose streams may issue? -/
def Job.running (j : Job) : Bool := j.phase == .running

/-- May streams issue and long words step in this cycle: the job runs, or was stopped in this very cycle (R41, R42, R201)? -/
def Job.issuing (j : Job) (now : Nat) : Bool :=
  match j.phase with
  | .running => true
  | .stopping _ t => t == now
  | _ => false

/-- The trap registers as they stand. -/
def Job.trapRegs (j : Job) : TrapRegs := { cause := j.trapCause, stream := j.trapStream, pc := j.trapPc, info0 := j.trapInfo0, info1 := j.trapInfo1 }

/-- A stop of this very cycle is discarded: the trap registers are as before it (R203). -/
def Job.untrap (j : Job) (now : Nat) : Job :=
  match j.phase with
  | .stopping _ t => if t = now then { j with
      trapCause := j.undo.cause, trapStream := j.undo.stream, trapPc := j.undo.pc, trapInfo0 := j.undo.info0, trapInfo1 := j.undo.info1 } else j
  | _ => j

/-- A stop of a job at cycle `now`, of engine number e (7: the whole job), at word address pc: the trap registers are written and issue ends.
Of two stops in one cycle that of the lower engine index is taken, and of two of one stream that of the earlier-issued word, whose number is
id; a stop of a job already stopping is not recorded (R81, R203). -/
def Job.trap (j : Job) (e : Nat) (pc : Word) (st : Stop) (bare : Word × Word) (now : Nat) (id : Nat := 0) : Job :=
  let write (j : Job) : Job := { j with
    undo := if j.running then j.trapRegs else j.undo
    trapCause := BitVec.ofBool st.cause.fatal ++ st.cause.code, trapStream := BitVec.ofNat 3 e, trapPc := pc
    trapInfo0 := (st.words bare).1, trapInfo1 := (st.words bare).2, phase := .stopping .trap now, trapId := id }
  match j.phase with
  | .running => write j
  | .stopping .trap t => if t = now ∧ (e < j.trapStream.toNat ∨ (e = j.trapStream.toNat ∧ id < j.trapId)) then write j else j
  -- a trap in the cycle of a pre-emption is taken (R38)
  | .stopping .preempt t => if t = now then write j else j
  | _ => j

/-- Was the job pre-empted in this very cycle? -/
def Job.preemptedNow (j : Job) (now : Nat) : Bool :=
  match j.phase with
  | .stopping .preempt t => t == now
  | _ => false

/-- A trap in the cycle `now` of a job's pre-emption is taken instead of it (R38): its slot is no longer kept for the candidate, which chooses
again. -/
def State.dropPreempt (s : State) (w : Who) (now : Nat) : State :=
  match w, s.jobOf? w with
  | .eng d c k _, some j => if j.preemptedNow now then s.updCore d c fun x => { x with reserved := x.reserved.set k none } else s
  | _, _ => s

/-- May a long word of this stream take its next step in this cycle (R42)? -/
def State.mayStep (s : State) (w : Who) : Bool :=
  s.live (whoDie w) && (match s.jobOf? w with
    | some j => j.issuing (s.timeOf w)
    | none => true)

/-- A stop raised by stream w at word address pc, by the word with this number: at issue, the next one's. -/
def State.stopAt (s : State) (w : Who) (pc : Word) (st : Stop) (id : Option Nat := none) : State :=
  -- a consumption that ends in POISON or UE_CONSUMED counts on the die (R391)
  let s := if st.cause = .poison ∨ st.cause = .ueConsumed then s.count (whoDie w) 0x068 1 else s
  match w with
  | .eng _ _ _ e => (s.dropPreempt w (s.timeOf w)).updJobOf w fun j =>
      j.trap e.idx.val pc st (s.bare (whoSite w)) (s.timeOf w) (id.getD (j.streams[e.idx]).nextId)
  | .sys d => s.sysTrap d pc st

/-- A stop at issue of the current word: nothing else has changed (R80). -/
def State.takeStop (s : State) (st : Stop) : State := s.stopAt s.cur s.str.pc st

/-- Return from an exception on the system core: the next pc is TRAPPC, INTRAP is cleared (ERET, R212). -/
def State.exceptionReturn (s : State) (d : DieId) : State :=
  s.updSys d fun x => { x with intrap := false, stream := { x.stream with pc := x.trapPc } }

/-! ## Issue -/

/-- Where the stream goes after a word. -/
inductive Flow where
  /-- on, through the loop-end step -/
  | fall
  /-- a taken branch: no loop-end step (R122) -/
  | jump (pc : Word)
  /-- the pc stays for the word's own later use (TRAP, R117) -/
  | stay
  deriving DecidableEq, Repr

/-- The loop-end step for a word at address a (R122). -/
def Stream.loopEnd (st : Stream) : Stream :=
  match st.l.toList.findIdx? fun l => l.active && l.last.toNat == st.pc.toNat with
  | none => { st with pc := st.pc + 1 }
  | some i =>
    let l := st.l[i]?.getD {}
    if 1 < l.count.toNat then
      { st with l := st.l.setIfInBounds i { l with count := l.count - 1 }, pc := l.first.zeroExtend 64 }
    else { st with l := st.l.setIfInBounds i { l with count := 0, active := false }, pc := st.pc + 1 }

/-- Puts a word in flight in the current stream: completion cycle, results, work. -/
def State.launchWord (s : State) (tks : BitVec 4) (land : Option Nat) (effs : List Eff) (work : Work) : State :=
  let rm := s.rmode
  let tol := s.tolSeen
  let now := s.now
  s.updStr fun st =>
    { st with
      flights := st.flights ++ [{ id := st.nextId, pc := st.pc, issued := now, land := land, effs := effs, tks := tks, work := work, cov := st.cov, rm := rm, tol := tol }]
      nextId := st.nextId + 1 }

/-- The tokens a word pops at its issue (R30), before it does anything else. -/
def State.popped (s : State) (h : Hdr) (extra : Option (Engine × Nat)) : State :=
  match s.cur with
  | .eng _ _ _ e => s.popMask e h.tkp extra
  | .sys _ => s

/-- The issue of the current word is over: the cycle counted, the engine taken, the pc moved. -/
def State.finish (s : State) (flow : Flow) : State :=
  let now := s.now
  let s := s.updStr fun st =>
    let st := { st with last := max st.last now }
    match flow with
    | .fall => st.loopEnd
    | .jump pc => { st with pc := pc }
    | .stay => st
  let s := match s.cur with
    | .eng d c _ e =>
      (s.updCore d c fun x => { x with arbs := updAt x.arbs e.idx.val fun a => { a with lastIssue := some now } }).updJb fun j => { j with stall := 0 }
    | .sys _ => s
  { s with free := s.free + 1 }

end Sys2Proof.Machine
end

