-- ==== Sys2Proof/Machine/Operands.lean ====
section
/-! DEFINITION. What the operand forms of an instruction name: its header, its guard, the x registers it reads or writes (spec/04_encoding.md
R75-R95), and the interlocks that rest on them (spec/02_jobs.md R34). -/

namespace Sys2Proof.Machine
open Sys2Proof

/-- The header of an instruction word; none for a step of the machine. -/
def hdr? : Instr → Option Hdr
  | .nop h => some h
  | .prep h _ _ => some h
  | .prepr h _ _ => some h
  | .br h _ _ => some h
  | .brl h _ _ => some h
  | .loop h _ _ _ => some h
  | .loopi h _ _ _ => some h
  | .lbrk h _ _ => some h
  | .endw h => some h
  | .hold h _ _ => some h
  | .trap h _ _ _ => some h
  | .mark h _ _ => some h
  | .tksend h _ _ => some h
  | .tkwait h _ _ => some h
  | .qpop h _ _ _ _ => some h
  | .qpush h _ _ _ _ => some h
  | .waitv h _ _ _ _ _ => some h
  | .tsread h _ _ => some h
  | .csrr h _ _ _ => some h
  | .csrw h _ _ _ => some h
  | .csrx h _ _ _ _ => some h
  | .add h _ _ _ _ => some h
  | .sub h _ _ _ _ => some h
  | .mul h _ _ _ _ => some h
  | .mulh h _ _ _ _ => some h
  | .mulhu h _ _ _ _ => some h
  | .div h _ _ _ _ => some h
  | .divu h _ _ _ _ => some h
  | .rem h _ _ _ _ => some h
  | .remu h _ _ _ _ => some h
  | .and h _ _ _ _ => some h
  | .or h _ _ _ _ => some h
  | .xor h _ _ _ _ => some h
  | .shl h _ _ _ _ => some h
  | .shr h _ _ _ _ => some h
  | .sar h _ _ _ _ => some h
  | .min h _ _ _ _ => some h
  | .minu h _ _ _ _ => some h
  | .max h _ _ _ _ => some h
  | .maxu h _ _ _ _ => some h
  | .sel h _ _ _ _ _ => some h
  | .clz h _ _ _ => some h
  | .ctz h _ _ _ => some h
  | .popc h _ _ _ => some h
  | .addi h _ _ _ _ => some h
  | .andi h _ _ _ _ => some h
  | .ori h _ _ _ _ => some h
  | .xori h _ _ _ _ => some h
  | .shli h _ _ _ _ => some h
  | .shri h _ _ _ _ => some h
  | .sari h _ _ _ _ => some h
  | .muli h _ _ _ _ => some h
  | .movi h _ _ => some h
  | .movhi h _ _ => some h
  | .ceq h _ _ _ _ => some h
  | .cne h _ _ _ _ => some h
  | .clt h _ _ _ _ => some h
  | .cltu h _ _ _ _ => some h
  | .cle h _ _ _ _ => some h
  | .cleu h _ _ _ _ => some h
  | .ceqi h _ _ _ _ => some h
  | .cnei h _ _ _ _ => some h
  | .clti h _ _ _ _ => some h
  | .cgei h _ _ _ _ => some h
  | .pand h _ _ _ _ => some h
  | .por h _ _ _ _ => some h
  | .pxor h _ _ _ _ => some h
  | .pandn h _ _ _ _ => some h
  | .pset h _ _ _ => some h
  | .pget h _ _ _ => some h
  | .fadd h _ _ _ _ _ => some h
  | .fsub h _ _ _ _ _ => some h
  | .fmul h _ _ _ _ _ => some h
  | .ffma h _ _ _ _ _ _ => some h
  | .fmin h _ _ _ _ _ => some h
  | .fmax h _ _ _ _ _ => some h
  | .fcvt h _ _ _ _ _ _ _ _ => some h
  | .fceq h _ _ _ _ _ => some h
  | .fclt h _ _ _ _ _ => some h
  | .fcle h _ _ _ _ _ => some h
  | .ldq h _ _ _ _ _ => some h
  | .ldsq h _ _ _ _ _ => some h
  | .stq h _ _ _ _ _ => some h
  | .stsq h _ _ _ _ _ => some h
  | .ldx h _ _ _ _ _ _ => some h
  | .stx h _ _ _ _ _ => some h
  | .gather h _ _ _ _ _ _ => some h
  | .scatter h _ _ _ _ _ _ => some h
  | .scadd h _ _ _ _ _ _ => some h
  | .aadd h _ _ _ _ _ _ _ => some h
  | .amin h _ _ _ _ _ _ _ => some h
  | .amax h _ _ _ _ _ _ _ => some h
  | .aand h _ _ _ _ _ _ _ => some h
  | .aor h _ _ _ _ _ _ _ => some h
  | .axor h _ _ _ _ _ _ _ => some h
  | .axchg h _ _ _ _ _ _ _ => some h
  | .acas h _ _ _ _ _ _ _ => some h
  | .afadd h _ _ _ _ _ _ _ => some h
  | .rprobe h _ _ _ _ _ => some h
  | .lock h _ _ _ _ => some h
  | .unlock h _ _ _ _ => some h
  | .rwb h _ _ _ _ _ => some h
  | .rinv h _ _ _ _ _ => some h
  | .ubdisc h _ _ _ _ _ => some h
  | .pref h _ _ _ _ _ => some h
  | .msend h _ _ _ _ => some h
  | .acq h _ => some h
  | .rel h _ => some h
  | .phase h _ => some h
  | .tdef h _ _ _ => some h
  | .xcopy h _ _ _ _ _ _ _ => some h
  | .xset h _ _ _ => some h
  | .xchain h _ _ _ => some h
  | .xstat h _ _ _ => some h
  | .xcancel h _ _ => some h
  | .xfill h _ _ _ _ => some h
  | .tqin h _ _ _ _ => some h
  | .tqout h _ _ _ _ => some h
  | .pgmrow h _ _ _ _ _ => some h
  | .pgmtile h _ _ _ _ _ => some h
  | .pgmstat h _ _ _ => some h
  | .pgmret h _ _ => some h
  | .mopen h _ _ _ _ => some h
  | .mma h _ _ _ _ _ _ _ => some h
  | .tstart h _ _ _ _ _ => some h
  | .tend h _ _ => some h
  | .mrd h _ _ _ _ _ _ _ _ => some h
  | .mcvt h _ _ _ _ _ _ => some h
  | .mchk h _ _ _ _ => some h
  | .seedscan h _ _ _ _ _ _ _ => some h
  | .seedfit h _ _ _ _ _ _ _ => some h
  | .vadd h _ _ _ _ _ => some h
  | .vsub h _ _ _ _ _ => some h
  | .vmul h _ _ _ _ _ => some h
  | .vfma h _ _ _ _ _ => some h
  | .vmin h _ _ _ _ _ => some h
  | .vmax h _ _ _ _ _ => some h
  | .vabs h _ _ _ _ => some h
  | .vneg h _ _ _ _ => some h
  | .vand h _ _ _ _ _ => some h
  | .vor h _ _ _ _ _ => some h
  | .vxor h _ _ _ _ _ => some h
  | .vshl h _ _ _ _ _ => some h
  | .vshr h _ _ _ _ _ => some h
  | .vsar h _ _ _ _ _ => some h
  | .vcmp h _ _ _ _ _ _ => some h
  | .vsel h _ _ _ _ _ => some h
  | .vmov h _ _ _ _ => some h
  | .vbcast h _ _ _ _ => some h
  | .vcvt h _ _ _ _ _ _ _ => some h
  | .vrnd h _ _ _ _ _ _ _ => some h
  | .vred h _ _ _ _ _ _ _ => some h
  | .vscan h _ _ _ _ _ _ _ => some h
  | .vperm h _ _ _ _ _ => some h
  | .vrot h _ _ _ _ _ => some h
  | .vexp2 h _ _ _ _ => some h
  | .vlog2 h _ _ _ _ => some h
  | .vrcp h _ _ _ _ => some h
  | .vrsq h _ _ _ _ => some h
  | .vsqrt h _ _ _ _ => some h
  | .vtanh h _ _ _ _ => some h
  | .vsigm h _ _ _ _ => some h
  | .verf h _ _ _ _ => some h
  | .vsin h _ _ _ _ => some h
  | .vcos h _ _ _ _ => some h
  | .vpop h _ _ _ => some h
  | .vpush h _ _ _ => some h
  | .chain h _ _ _ _ _ => some h
  | .mand h _ _ _ _ => some h
  | .mor h _ _ _ _ => some h
  | .mnot h _ _ _ => some h
  | .mseti h _ _ _ _ => some h
  | .vget h _ _ _ _ => some h
  | .vput h _ _ _ _ => some h
  | .vsnap h _ _ _ _ => some h
  | .cset h _ _ _ => some h
  | .launch h _ _ _ _ => some h
  | .depdec h _ _ _ => some h
  | .depset h _ _ _ _ => some h
  | .depread h _ _ _ => some h
  | .abort h _ _ => some h
  | .resume h _ _ => some h
  | .kill h _ _ => some h
  | .suspend h _ _ => some h
  | .tlbinv h _ _ _ _ => some h
  | .segset h _ _ _ => some h
  | .frame h _ _ _ => some h
  | .migrate h _ _ _ => some h
  | .sysrd h _ _ _ => some h
  | .syswr h _ _ _ => some h
  | .eret h => some h
  | .routew h _ _ _ => some h
  | .lockdown h _ _ => some h
  | .holdExpire _ _ _ _ => none
  | .evtheadRead _ => none
  | .indexStep _ _ _ => none
  | .releaseDone _ _ => none
  | .channelAccept _ _ _ => none
  | .channelGranule _ _ _ _ _ => none
  | .recordRun _ _ _ _ _ => none
  | .recordDone _ _ _ _ => none
  | .tqWaitEnd _ _ _ => none
  | .pgmAccept _ _ _ => none
  | .pgmRequestStart _ _ => none
  | .pgmIteration _ _ _ => none
  | .govWindow _ _ => none
  | .pgmRate _ _ => none
  | .mmaStart _ _ => none
  | .mmaKstep _ _ => none
  | .tendCheck _ _ _ => none
  | .chainRow _ _ _ => none
  | .counterDecrement _ => none
  | .abortComplete _ _ => none
  | .killComplete _ _ => none
  | .segsetApply _ => none
  | .migrateMove _ => none
  | .registerWrite _ _ _ => none
  | .tqBindingWrite _ _ _ _ => none
  | .mqBindingWrite _ _ _ _ _ => none
  | .monitorClear _ _ => none
  | .fenceWrite _ _ => none
  | .lqTailWrite _ _ _ => none
  | .hostRingPull _ _ => none
  | .onZeroEnqueue _ => none
  | .launchCheck _ _ => none
  | .launchReady _ _ => none
  | .dispatch _ => none
  | .priorityAge _ => none
  | .jobStart _ _ => none
  | .preempt _ => none
  | .jobSave _ _ => none
  | .jobRestore _ _ => none
  | .jobRetire _ _ => none
  | .jobStall _ _ => none
  | .stopDelivery _ _ => none
  | .eventEnter _ => none
  | .systemCoreWake _ => none
  | .mqCreditRequest _ _ _ => none
  | .mqAppend _ _ _ => none
  | .mqHeadWrite _ _ _ _ => none
  | .msendCredit _ _ _ => none
  | .monitorSample _ _ _ _ => none
  | .droopAlarm _ _ _ => none
  | .throttleEnd _ _ => none
  | .powerWindow _ _ => none
  | .thermalSample _ _ => none
  | .rowGroupRefresh _ _ => none
  | .rowgroupSpare _ _ => none
  | .laneRepair _ _ => none
  | .dieFence _ => none
  | .dieLoss _ _ => none
  | .linkDown _ _ => none
  | .linkUp _ => none
  | .linkFailureNotice _ _ _ => none
  | .packetIngress _ _ => none
  | .auditReplay _ _ _ => none
  | .coreSpared _ _ _ => none
  | .hostMemAccess _ _ _ => none
  | .hostSnoop _ _ => none
  | .hsdataRead => none
  | .hsdataWrite _ => none
  | .getVersion _ => none
  | .getCapabilities _ => none
  | .negotiateAlgorithms _ => none
  | .getDigests _ => none
  | .getCertificate _ => none
  | .challenge _ => none
  | .getMeasurements _ => none
  | .keyExchange _ _ _ => none
  | .finish _ _ => none
  | .fabricManagerWrite _ _ _ => none
  | .measurementExtend _ _ _ => none
  | .packageReset _ => none
  | .firmwareVerify _ _ _ => none
  | .recoveryImage _ => none
  | .powerLoss => none
  | .dataReturn _ _ _ => none
  | .writeAcknowledgement _ _ => none
  | .resultLanding _ _ => none

/-- The guard of an instruction whose layout has one. -/
def guard? : Instr → Option Guard
  | .nop _ => none
  | .prep _ _ _ => none
  | .prepr _ _ _ => none
  | .br _ g _ => some g
  | .brl _ g _ => some g
  | .loop _ _ _ _ => none
  | .loopi _ _ _ _ => none
  | .lbrk _ g _ => some g
  | .endw _ => none
  | .hold _ g _ => some g
  | .trap _ g _ _ => some g
  | .mark _ g _ => some g
  | .tksend _ _ _ => none
  | .tkwait _ _ _ => none
  | .qpop _ g _ _ _ => some g
  | .qpush _ g _ _ _ => some g
  | .waitv _ _ _ _ _ _ => none
  | .tsread _ g _ => some g
  | .csrr _ g _ _ => some g
  | .csrw _ g _ _ => some g
  | .csrx _ g _ _ _ => some g
  | .add _ g _ _ _ => some g
  | .sub _ g _ _ _ => some g
  | .mul _ g _ _ _ => some g
  | .mulh _ g _ _ _ => some g
  | .mulhu _ g _ _ _ => some g
  | .div _ g _ _ _ => some g
  | .divu _ g _ _ _ => some g
  | .rem _ g _ _ _ => some g
  | .remu _ g _ _ _ => some g
  | .and _ g _ _ _ => some g
  | .or _ g _ _ _ => some g
  | .xor _ g _ _ _ => some g
  | .shl _ g _ _ _ => some g
  | .shr _ g _ _ _ => some g
  | .sar _ g _ _ _ => some g
  | .min _ g _ _ _ => some g
  | .minu _ g _ _ _ => some g
  | .max _ g _ _ _ => some g
  | .maxu _ g _ _ _ => some g
  | .sel _ g _ _ _ _ => some g
  | .clz _ g _ _ => some g
  | .ctz _ g _ _ => some g
  | .popc _ g _ _ => some g
  | .addi _ g _ _ _ => some g
  | .andi _ g _ _ _ => some g
  | .ori _ g _ _ _ => some g
  | .xori _ g _ _ _ => some g
  | .shli _ g _ _ _ => some g
  | .shri _ g _ _ _ => some g
  | .sari _ g _ _ _ => some g
  | .muli _ g _ _ _ => some g
  | .movi _ _ _ => none
  | .movhi _ _ _ => none
  | .ceq _ g _ _ _ => some g
  | .cne _ g _ _ _ => some g
  | .clt _ g _ _ _ => some g
  | .cltu _ g _ _ _ => some g
  | .cle _ g _ _ _ => some g
  | .cleu _ g _ _ _ => some g
  | .ceqi _ g _ _ _ => some g
  | .cnei _ g _ _ _ => some g
  | .clti _ g _ _ _ => some g
  | .cgei _ g _ _ _ => some g
  | .pand _ g _ _ _ => some g
  | .por _ g _ _ _ => some g
  | .pxor _ g _ _ _ => some g
  | .pandn _ g _ _ _ => some g
  | .pset _ g _ _ => some g
  | .pget _ g _ _ => some g
  | .fadd _ g _ _ _ _ => some g
  | .fsub _ g _ _ _ _ => some g
  | .fmul _ g _ _ _ _ => some g
  | .ffma _ g _ _ _ _ _ => some g
  | .fmin _ g _ _ _ _ => some g
  | .fmax _ g _ _ _ _ => some g
  | .fcvt _ g _ _ _ _ _ _ _ => some g
  | .fceq _ g _ _ _ _ => some g
  | .fclt _ g _ _ _ _ => some g
  | .fcle _ g _ _ _ _ => some g
  | .ldq _ g _ _ _ _ => some g
  | .ldsq _ g _ _ _ _ => some g
  | .stq _ g _ _ _ _ => some g
  | .stsq _ g _ _ _ _ => some g
  | .ldx _ g _ _ _ _ _ => some g
  | .stx _ g _ _ _ _ => some g
  | .gather _ g _ _ _ _ _ => some g
  | .scatter _ g _ _ _ _ _ => some g
  | .scadd _ g _ _ _ _ _ => some g
  | .aadd _ g _ _ _ _ _ _ => some g
  | .amin _ g _ _ _ _ _ _ => some g
  | .amax _ g _ _ _ _ _ _ => some g
  | .aand _ g _ _ _ _ _ _ => some g
  | .aor _ g _ _ _ _ _ _ => some g
  | .axor _ g _ _ _ _ _ _ => some g
  | .axchg _ g _ _ _ _ _ _ => some g
  | .acas _ g _ _ _ _ _ _ => some g
  | .afadd _ g _ _ _ _ _ _ => some g
  | .rprobe _ g _ _ _ _ => some g
  | .lock _ g _ _ _ => some g
  | .unlock _ g _ _ _ => some g
  | .rwb _ g _ _ _ _ => some g
  | .rinv _ g _ _ _ _ => some g
  | .ubdisc _ g _ _ _ _ => some g
  | .pref _ g _ _ _ _ => some g
  | .msend _ g _ _ _ => some g
  | .acq _ _ => none
  | .rel _ _ => none
  | .phase _ _ => none
  | .tdef _ g _ _ => some g
  | .xcopy _ g _ _ _ _ _ _ => some g
  | .xset _ g _ _ => some g
  | .xchain _ g _ _ => some g
  | .xstat _ g _ _ => some g
  | .xcancel _ g _ => some g
  | .xfill _ g _ _ _ => some g
  | .tqin _ g _ _ _ => some g
  | .tqout _ g _ _ _ => some g
  | .pgmrow _ g _ _ _ _ => some g
  | .pgmtile _ g _ _ _ _ => some g
  | .pgmstat _ g _ _ => some g
  | .pgmret _ g _ => some g
  | .mopen _ g _ _ _ => some g
  | .mma _ g _ _ _ _ _ _ => some g
  | .tstart _ g _ _ _ _ => some g
  | .tend _ g _ => some g
  | .mrd _ g _ _ _ _ _ _ _ => some g
  | .mcvt _ g _ _ _ _ _ => some g
  | .mchk _ g _ _ _ => some g
  | .seedscan _ g _ _ _ _ _ _ => some g
  | .seedfit _ g _ _ _ _ _ _ => some g
  | .vadd _ g _ _ _ _ => some g
  | .vsub _ g _ _ _ _ => some g
  | .vmul _ g _ _ _ _ => some g
  | .vfma _ g _ _ _ _ => some g
  | .vmin _ g _ _ _ _ => some g
  | .vmax _ g _ _ _ _ => some g
  | .vabs _ g _ _ _ => some g
  | .vneg _ g _ _ _ => some g
  | .vand _ g _ _ _ _ => some g
  | .vor _ g _ _ _ _ => some g
  | .vxor _ g _ _ _ _ => some g
  | .vshl _ g _ _ _ _ => some g
  | .vshr _ g _ _ _ _ => some g
  | .vsar _ g _ _ _ _ => some g
  | .vcmp _ g _ _ _ _ _ => some g
  | .vsel _ g _ _ _ _ => some g
  | .vmov _ g _ _ _ => some g
  | .vbcast _ g _ _ _ => some g
  | .vcvt _ g _ _ _ _ _ _ => some g
  | .vrnd _ g _ _ _ _ _ _ => some g
  | .vred _ g _ _ _ _ _ _ => some g
  | .vscan _ g _ _ _ _ _ _ => some g
  | .vperm _ g _ _ _ _ => some g
  | .vrot _ g _ _ _ _ => some g
  | .vexp2 _ g _ _ _ => some g
  | .vlog2 _ g _ _ _ => some g
  | .vrcp _ g _ _ _ => some g
  | .vrsq _ g _ _ _ => some g
  | .vsqrt _ g _ _ _ => some g
  | .vtanh _ g _ _ _ => some g
  | .vsigm _ g _ _ _ => some g
  | .verf _ g _ _ _ => some g
  | .vsin _ g _ _ _ => some g
  | .vcos _ g _ _ _ => some g
  | .vpop _ g _ _ => some g
  | .vpush _ g _ _ => some g
  | .chain _ g _ _ _ _ => some g
  | .mand _ g _ _ _ => some g
  | .mor _ g _ _ _ => some g
  | .mnot _ g _ _ => some g
  | .mseti _ g _ _ _ => some g
  | .vget _ g _ _ _ => some g
  | .vput _ g _ _ _ => some g
  | .vsnap _ g _ _ _ => some g
  | .cset _ g _ _ => some g
  | .launch _ g _ _ _ => some g
  | .depdec _ g _ _ => some g
  | .depset _ g _ _ _ => some g
  | .depread _ g _ _ => some g
  | .abort _ g _ => some g
  | .resume _ g _ => some g
  | .kill _ g _ => some g
  | .suspend _ g _ => some g
  | .tlbinv _ g _ _ _ => some g
  | .segset _ g _ _ => some g
  | .frame _ g _ _ => some g
  | .migrate _ g _ _ => some g
  | .sysrd _ g _ _ => some g
  | .syswr _ g _ _ => some g
  | .eret _ => none
  | .routew _ g _ _ => some g
  | .lockdown _ g _ => some g
  | .holdExpire _ _ _ _ => none
  | .evtheadRead _ => none
  | .indexStep _ _ _ => none
  | .releaseDone _ _ => none
  | .channelAccept _ _ _ => none
  | .channelGranule _ _ _ _ _ => none
  | .recordRun _ _ _ _ _ => none
  | .recordDone _ _ _ _ => none
  | .tqWaitEnd _ _ _ => none
  | .pgmAccept _ _ _ => none
  | .pgmRequestStart _ _ => none
  | .pgmIteration _ _ _ => none
  | .govWindow _ _ => none
  | .pgmRate _ _ => none
  | .mmaStart _ _ => none
  | .mmaKstep _ _ => none
  | .tendCheck _ _ _ => none
  | .chainRow _ _ _ => none
  | .counterDecrement _ => none
  | .abortComplete _ _ => none
  | .killComplete _ _ => none
  | .segsetApply _ => none
  | .migrateMove _ => none
  | .registerWrite _ _ _ => none
  | .tqBindingWrite _ _ _ _ => none
  | .mqBindingWrite _ _ _ _ _ => none
  | .monitorClear _ _ => none
  | .fenceWrite _ _ => none
  | .lqTailWrite _ _ _ => none
  | .hostRingPull _ _ => none
  | .onZeroEnqueue _ => none
  | .launchCheck _ _ => none
  | .launchReady _ _ => none
  | .dispatch _ => none
  | .priorityAge _ => none
  | .jobStart _ _ => none
  | .preempt _ => none
  | .jobSave _ _ => none
  | .jobRestore _ _ => none
  | .jobRetire _ _ => none
  | .jobStall _ _ => none
  | .stopDelivery _ _ => none
  | .eventEnter _ => none
  | .systemCoreWake _ => none
  | .mqCreditRequest _ _ _ => none
  | .mqAppend _ _ _ => none
  | .mqHeadWrite _ _ _ _ => none
  | .msendCredit _ _ _ => none
  | .monitorSample _ _ _ _ => none
  | .droopAlarm _ _ _ => none
  | .throttleEnd _ _ => none
  | .powerWindow _ _ => none
  | .thermalSample _ _ => none
  | .rowGroupRefresh _ _ => none
  | .rowgroupSpare _ _ => none
  | .laneRepair _ _ => none
  | .dieFence _ => none
  | .dieLoss _ _ => none
  | .linkDown _ _ => none
  | .linkUp _ => none
  | .linkFailureNotice _ _ _ => none
  | .packetIngress _ _ => none
  | .auditReplay _ _ _ => none
  | .coreSpared _ _ _ => none
  | .hostMemAccess _ _ _ => none
  | .hostSnoop _ _ => none
  | .hsdataRead => none
  | .hsdataWrite _ => none
  | .getVersion _ => none
  | .getCapabilities _ => none
  | .negotiateAlgorithms _ => none
  | .getDigests _ => none
  | .getCertificate _ => none
  | .challenge _ => none
  | .getMeasurements _ => none
  | .keyExchange _ _ _ => none
  | .finish _ _ => none
  | .fabricManagerWrite _ _ _ => none
  | .measurementExtend _ _ _ => none
  | .packageReset _ => none
  | .firmwareVerify _ _ _ => none
  | .recoveryImage _ => none
  | .powerLoss => none
  | .dataReturn _ _ _ => none
  | .writeAcknowledgement _ _ => none
  | .resultLanding _ _ => none

/-- The x registers an instruction reads or writes (R79): fields, groups of consecutive registers, the link register of BRL. -/
def xregs : Instr → List (BitVec 5)
  | .nop _ => []
  | .prep _ _ _ => []
  | .prepr _ _ s => [s]
  | .br _ _ _ => []
  | .brl _ _ _ => [31]
  | .loop _ _ s _ => [s]
  | .loopi _ _ _ _ => []
  | .lbrk _ _ _ => []
  | .endw _ => []
  | .hold _ _ _ => []
  | .trap _ _ _ _ => []
  | .mark _ _ _ => []
  | .tksend _ _ _ => []
  | .tkwait _ _ _ => []
  | .qpop _ _ d _ _ => [d]
  | .qpush _ _ s _ _ => [s]
  | .waitv _ _ _ _ mode arg => if mode then [arg.extractLsb' 0 5] else []
  | .tsread _ _ d => [d]
  | .csrr _ _ d _ => [d]
  | .csrw _ _ s _ => [s]
  | .csrx _ _ d s _ => [d, s]
  | .add _ _ d s1 s2 => [d, s1, s2]
  | .sub _ _ d s1 s2 => [d, s1, s2]
  | .mul _ _ d s1 s2 => [d, s1, s2]
  | .mulh _ _ d s1 s2 => [d, s1, s2]
  | .mulhu _ _ d s1 s2 => [d, s1, s2]
  | .div _ _ d s1 s2 => [d, s1, s2]
  | .divu _ _ d s1 s2 => [d, s1, s2]
  | .rem _ _ d s1 s2 => [d, s1, s2]
  | .remu _ _ d s1 s2 => [d, s1, s2]
  | .and _ _ d s1 s2 => [d, s1, s2]
  | .or _ _ d s1 s2 => [d, s1, s2]
  | .xor _ _ d s1 s2 => [d, s1, s2]
  | .shl _ _ d s1 s2 => [d, s1, s2]
  | .shr _ _ d s1 s2 => [d, s1, s2]
  | .sar _ _ d s1 s2 => [d, s1, s2]
  | .min _ _ d s1 s2 => [d, s1, s2]
  | .minu _ _ d s1 s2 => [d, s1, s2]
  | .max _ _ d s1 s2 => [d, s1, s2]
  | .maxu _ _ d s1 s2 => [d, s1, s2]
  | .sel _ _ d s1 s2 _ => [d, s1, s2]
  | .clz _ _ d s1 => [d, s1]
  | .ctz _ _ d s1 => [d, s1]
  | .popc _ _ d s1 => [d, s1]
  | .addi _ _ d s1 _ => [d, s1]
  | .andi _ _ d s1 _ => [d, s1]
  | .ori _ _ d s1 _ => [d, s1]
  | .xori _ _ d s1 _ => [d, s1]
  | .shli _ _ d s1 _ => [d, s1]
  | .shri _ _ d s1 _ => [d, s1]
  | .sari _ _ d s1 _ => [d, s1]
  | .muli _ _ d s1 _ => [d, s1]
  | .movi _ d _ => [d]
  | .movhi _ d _ => [d]
  | .ceq _ _ _ s1 s2 => [s1, s2]
  | .cne _ _ _ s1 s2 => [s1, s2]
  | .clt _ _ _ s1 s2 => [s1, s2]
  | .cltu _ _ _ s1 s2 => [s1, s2]
  | .cle _ _ _ s1 s2 => [s1, s2]
  | .cleu _ _ _ s1 s2 => [s1, s2]
  | .ceqi _ _ _ s1 _ => [s1]
  | .cnei _ _ _ s1 _ => [s1]
  | .clti _ _ _ s1 _ => [s1]
  | .cgei _ _ _ s1 _ => [s1]
  | .pand _ _ _ _ _ => []
  | .por _ _ _ _ _ => []
  | .pxor _ _ _ _ _ => []
  | .pandn _ _ _ _ _ => []
  | .pset _ _ _ s1 => [s1]
  | .pget _ _ d _ => [d]
  | .fadd _ _ d s1 s2 _ => [d, s1, s2]
  | .fsub _ _ d s1 s2 _ => [d, s1, s2]
  | .fmul _ _ d s1 s2 _ => [d, s1, s2]
  | .ffma _ _ d s1 s2 _ s3 => [d, s1, s2, s3]
  | .fmin _ _ d s1 s2 _ => [d, s1, s2]
  | .fmax _ _ d s1 s2 _ => [d, s1, s2]
  | .fcvt _ _ d s1 _ _ _ _ _ => [d, s1]
  | .fceq _ _ _ s1 s2 _ => [s1, s2]
  | .fclt _ _ _ s1 s2 _ => [s1, s2]
  | .fcle _ _ _ s1 s2 _ => [s1, s2]
  | .ldq _ _ _ base len _ => [base, len]
  | .ldsq _ _ _ base shape stride => [base, shape, stride]
  | .stq _ _ _ base len _ => [base, len]
  | .stsq _ _ _ base shape stride => [base, shape, stride]
  | .ldx _ _ d base _ _ _ => [d, base]
  | .stx _ _ s base _ _ => [s, base]
  | .gather _ _ _ _ _ cnt _ => [cnt]
  | .scatter _ _ _ _ _ cnt _ => [cnt]
  | .scadd _ _ _ _ _ cnt _ => [cnt]
  | .aadd _ _ d base s _ _ _ => [d, base, s]
  | .amin _ _ d base s _ _ _ => [d, base, s]
  | .amax _ _ d base s _ _ _ => [d, base, s]
  | .aand _ _ d base s _ _ _ => [d, base, s]
  | .aor _ _ d base s _ _ _ => [d, base, s]
  | .axor _ _ d base s _ _ _ => [d, base, s]
  | .axchg _ _ d base s _ _ _ => [d, base, s]
  | .acas _ _ d base s _ _ _ => [d, base, s]
  | .afadd _ _ d base s _ _ _ => [d, base, s]
  | .rprobe _ _ d base len _ => [d, base, len]
  | .lock _ _ d base len => [d, base, len]
  | .unlock _ _ d base len => [d, base, len]
  | .rwb _ _ base len _ _ => [base, len]
  | .rinv _ _ base len _ _ => [base, len]
  | .ubdisc _ _ base len _ _ => [base, len]
  | .pref _ _ base len _ _ => [base, len]
  | .msend _ _ _ tgt bytes => [tgt, bytes]
  | .acq _ _ => []
  | .rel _ _ => []
  | .phase _ _ => []
  | .tdef _ _ _ s => [s, s + 1, s + 2, s + 3]
  | .xcopy _ _ _ _ _ _ sorg dorg => [sorg, dorg]
  | .xset _ _ _ s => [s, s + 1]
  | .xchain _ _ _ head => [head]
  | .xstat _ _ d _ => [d]
  | .xcancel _ _ _ => []
  | .xfill _ _ _ val org => [val, org]
  | .tqin _ _ _ _ org => [org]
  | .tqout _ _ _ _ org => [org]
  | .pgmrow _ _ row _ off dc => [row, off, dc]
  | .pgmtile _ _ idx _ kl dc => [idx, kl, dc]
  | .pgmstat _ _ d tag => [d, tag]
  | .pgmret _ _ prow => [prow]
  | .mopen _ _ _ _ _ => []
  | .mma _ _ _ _ _ idx kr _ => [idx, kr]
  | .tstart _ _ _ _ _ thr => [thr]
  | .tend _ _ _ => []
  | .mrd _ _ _ _ _ _ _ _ org => [org]
  | .mcvt _ _ _ _ _ _ _ => []
  | .mchk _ _ d _ _ => [d]
  | .seedscan _ _ _ _ fs cnt _ d => [fs, cnt, d, d + 1]
  | .seedfit _ _ _ _ seed _ _ d => [seed, d]
  | .vadd _ _ _ _ _ _ => []
  | .vsub _ _ _ _ _ _ => []
  | .vmul _ _ _ _ _ _ => []
  | .vfma _ _ _ _ _ _ => []
  | .vmin _ _ _ _ _ _ => []
  | .vmax _ _ _ _ _ _ => []
  | .vabs _ _ _ _ _ => []
  | .vneg _ _ _ _ _ => []
  | .vand _ _ _ _ _ _ => []
  | .vor _ _ _ _ _ _ => []
  | .vxor _ _ _ _ _ _ => []
  | .vshl _ _ _ _ _ _ => []
  | .vshr _ _ _ _ _ _ => []
  | .vsar _ _ _ _ _ _ => []
  | .vcmp _ _ _ _ _ _ _ => []
  | .vsel _ _ _ _ _ _ => []
  | .vmov _ _ _ _ _ => []
  | .vbcast _ _ _ val _ => [val]
  | .vcvt _ _ _ _ _ _ _ _ => []
  | .vrnd _ _ _ _ _ _ _ _ => []
  | .vred _ _ _ _ _ _ _ _ => []
  | .vscan _ _ _ _ _ _ _ _ => []
  | .vperm _ _ _ _ _ _ => []
  | .vrot _ _ _ _ amt _ => [amt]
  | .vexp2 _ _ _ _ _ => []
  | .vlog2 _ _ _ _ _ => []
  | .vrcp _ _ _ _ _ => []
  | .vrsq _ _ _ _ _ => []
  | .vsqrt _ _ _ _ _ => []
  | .vtanh _ _ _ _ _ => []
  | .vsigm _ _ _ _ _ => []
  | .verf _ _ _ _ _ => []
  | .vsin _ _ _ _ _ => []
  | .vcos _ _ _ _ _ => []
  | .vpop _ _ _ _ => []
  | .vpush _ _ _ _ => []
  | .chain _ _ _ _ _ cnt => [cnt]
  | .mand _ _ _ _ _ => []
  | .mor _ _ _ _ _ => []
  | .mnot _ _ _ _ => []
  | .mseti _ _ _ _ _ => []
  | .vget _ _ d _ lane => [d, lane]
  | .vput _ _ _ val lane => [val, lane]
  | .vsnap _ _ _ _ d => [d]
  | .cset _ _ _ s => [s, s + 1]
  | .launch _ _ rec _ d => [rec, d]
  | .depdec _ _ ctr amt => [ctr, amt]
  | .depset _ _ ctr val lrec => [ctr, val, lrec]
  | .depread _ _ d ctr => [d, ctr]
  | .abort _ _ _ => []
  | .resume _ _ hreg => [hreg]
  | .kill _ _ hreg => [hreg]
  | .suspend _ _ hreg => [hreg]
  | .tlbinv _ _ cb rng _ => [cb, rng]
  | .segset _ _ cb s => [cb, s, s + 1, s + 2, s + 3]
  | .frame _ _ va fs => [va, fs]
  | .migrate _ _ buf die => [buf, die]
  | .sysrd _ _ d addr => [d, addr]
  | .syswr _ _ val addr => [val, addr]
  | .eret _ => []
  | .routew _ _ idx s => [idx, s, s + 1]
  | .lockdown _ _ _ => []
  | .holdExpire _ _ _ _ => []
  | .evtheadRead _ => []
  | .indexStep _ _ _ => []
  | .releaseDone _ _ => []
  | .channelAccept _ _ _ => []
  | .channelGranule _ _ _ _ _ => []
  | .recordRun _ _ _ _ _ => []
  | .recordDone _ _ _ _ => []
  | .tqWaitEnd _ _ _ => []
  | .pgmAccept _ _ _ => []
  | .pgmRequestStart _ _ => []
  | .pgmIteration _ _ _ => []
  | .govWindow _ _ => []
  | .pgmRate _ _ => []
  | .mmaStart _ _ => []
  | .mmaKstep _ _ => []
  | .tendCheck _ _ _ => []
  | .chainRow _ _ _ => []
  | .counterDecrement _ => []
  | .abortComplete _ _ => []
  | .killComplete _ _ => []
  | .segsetApply _ => []
  | .migrateMove _ => []
  | .registerWrite _ _ _ => []
  | .tqBindingWrite _ _ _ _ => []
  | .mqBindingWrite _ _ _ _ _ => []
  | .monitorClear _ _ => []
  | .fenceWrite _ _ => []
  | .lqTailWrite _ _ _ => []
  | .hostRingPull _ _ => []
  | .onZeroEnqueue _ => []
  | .launchCheck _ _ => []
  | .launchReady _ _ => []
  | .dispatch _ => []
  | .priorityAge _ => []
  | .jobStart _ _ => []
  | .preempt _ => []
  | .jobSave _ _ => []
  | .jobRestore _ _ => []
  | .jobRetire _ _ => []
  | .jobStall _ _ => []
  | .stopDelivery _ _ => []
  | .eventEnter _ => []
  | .systemCoreWake _ => []
  | .mqCreditRequest _ _ _ => []
  | .mqAppend _ _ _ => []
  | .mqHeadWrite _ _ _ _ => []
  | .msendCredit _ _ _ => []
  | .monitorSample _ _ _ _ => []
  | .droopAlarm _ _ _ => []
  | .throttleEnd _ _ => []
  | .powerWindow _ _ => []
  | .thermalSample _ _ => []
  | .rowGroupRefresh _ _ => []
  | .rowgroupSpare _ _ => []
  | .laneRepair _ _ => []
  | .dieFence _ => []
  | .dieLoss _ _ => []
  | .linkDown _ _ => []
  | .linkUp _ => []
  | .linkFailureNotice _ _ _ => []
  | .packetIngress _ _ => []
  | .auditReplay _ _ _ => []
  | .coreSpared _ _ _ => []
  | .hostMemAccess _ _ _ => []
  | .hostSnoop _ _ => []
  | .hsdataRead => []
  | .hsdataWrite _ => []
  | .getVersion _ => []
  | .getCapabilities _ => []
  | .negotiateAlgorithms _ => []
  | .getDigests _ => []
  | .getCertificate _ => []
  | .challenge _ => []
  | .getMeasurements _ => []
  | .keyExchange _ _ _ => []
  | .finish _ _ => []
  | .fabricManagerWrite _ _ _ => []
  | .measurementExtend _ _ _ => []
  | .packageReset _ => []
  | .firmwareVerify _ _ _ => []
  | .recoveryImage _ => []
  | .powerLoss => []
  | .dataReturn _ _ _ => []
  | .writeAcknowledgement _ _ => []
  | .resultLanding _ _ => []

/-- The b register a branch names (R34, R120). -/
def branchReg? : Instr → Option (BitVec 2)
  | .br _ _ b => some b
  | .brl _ _ b => some b
  | _ => none

/-- The destination registers a word in flight holds by the interlock of R34. -/
def Work.holds : Work → List (BitVec 5)
  | .ldx _ _ _ d => [d]
  | .atomic _ _ _ _ _ _ d => [d]
  | .probe _ _ _ d => [d]
  | .lock _ _ _ d => [d]
  | .seedscan _ _ _ _ _ _ d _ => [d, d + 1]
  | _ => []

/-- The x registers the stream's words in flight hold. -/
def Stream.held (st : Stream) : List (BitVec 5) := st.flights.flatMap fun f => f.work.holds

/-- No interlock of R34 on the x registers a word names, whatever its guard (DEDUCED, log 26). -/
def State.xFree (s : State) (i : Instr) : Bool := (xregs i).all fun r => r == 0 || !s.str.held.contains r

/-- The interlock of BR and BRL: every earlier PREP or PREPR of the b register has completed (R34, R120). -/
def State.bFree (s : State) (i : Instr) : Bool :=
  match branchReg? i with
  | none => true
  | some b => s.str.flights.all fun f => f.landed s.now || !f.effs.any fun
    | .b q _ => q == b
    | _ => false

end Sys2Proof.Machine
end

