-- ==== Sys2Proof/Machine/Issue.lean ====
section
/-! DEFINITION. When a word issues, and how its meaning runs (spec/02_jobs.md R29-R35, R433; spec/04_encoding.md R78, R80; spec/17_counters.md R386;
spec/19_links.md R414). -/

namespace Sys2Proof.Machine
open Sys2Proof

/-- Works that keep their stream from issuing a later word until they end: the waits of R433, HOLD, the ordering words (R275: what each
holds is in laterHeld), a system access. -/
def Work.blocks : Work → Bool
  | .hold | .trap .. | .xcopy .. | .pgm .. | .sysAccess | .sysRead .. | .tlbinv .. | .route .. => true
  | .tqin _ _ _ moving => moving.isNone
  | .tqout _ _ _ left => !left
  | .msend _ _ _ credit _ => credit.isNone
  | _ => false

/-- Is the word a read of memory by A (R275)? -/
def readsMem : Instr → Bool
  | .ldq .. | .ldsq .. | .ldx .. | .gather .. | .rwb .. | .rinv .. | .rprobe .. | .lock .. | .unlock .. => true
  | .aadd .. | .amin .. | .amax .. | .aand .. | .aor .. | .axor .. | .axchg .. | .acas .. | .afadd .. => true
  | _ => false
/-- Is the word a write of memory by A, or a message (R275)? -/
def writesMem : Instr → Bool
  | .stq .. | .stsq .. | .stx .. | .scatter .. | .scadd .. | .msend .. | .ubdisc .. => true
  | .aadd .. | .amin .. | .amax .. | .aand .. | .aor .. | .axor .. | .axchg .. | .acas .. | .afadd .. => true
  | _ => false
/-- Words that take an entry of A's access window (R241). -/
def Work.inWindow : Work → Bool
  | .ldx .. | .stx .. | .atomic .. | .load .. | .store .. | .index .. | .wback .. | .msend .. => true
  | _ => false

/-- Held by an earlier release, acquire or phase of A's stream (R275), or by the access window (R241). -/
def State.memFree (s : State) (i : Instr) : Bool :=
  let acc := readsMem i || writesMem i
  let fs := s.str.flights
  fs.all (fun f => match f.work with
    | .rel .. => !(writesMem i)
    | .acq .. => !(readsMem i)
    | .phase .. => !acc
    | .atomic _ _ _ _ _ scope _ => scope == 0 || !acc
    | _ => true) &&
  (!acc || (match i with
    | .rprobe .. | .lock .. | .unlock .. | .ubdisc .. => true
    | _ => decide ((fs.filter fun f => f.work.inWindow).length < 64)))

/-- The extra tokens a TKWAIT pops (R304). -/
def extraPop : Instr → Option (Engine × Nat)
  | .tkwait _ e n => (Engine.ofIdx e.toNat).map fun x => (x, n.toNat)
  | _ => none

/-- The droop gate and the duty gate of a core's engine in this cycle (R386, R414). -/
def State.gatesOpen (s : State) : Bool :=
  match s.cur with
  | .sys _ => true
  | .eng d c _ e =>
    let g := s.grove d (groveOf c)
    decide (g.cyc % 8 < (s.die d).duty.toNat) &&
    (g.throttle == 0 || match (s.core d c).arbs[e.idx].lastIssue with
      | some t => t + 1 != g.cyc
      | none => true)

/-- The engine is structurally free: nothing issued on it in this cycle; V is not held (R34, R110). -/
def State.engineFree (s : State) : Bool :=
  match s.cur with
  | .sys d => !(s.sysc d).halted && !(s.sysc d).asleep && (s.sysc d).hold.isNone
  | .eng d c _ e =>
    (match (s.core d c).arbs[e.idx].lastIssue with
      | some t => decide (t < s.now)
      | none => true) &&
    (e != .v || (decide ((s.core d c).vFree ≤ s.now) &&
      -- a CHAIN whose pass is over goes on before any other word of V (R194)
      [0, 1].all fun (k : SlotId) => match s.slotJob? d c k with
        | some j => (j.streams[(4 : Fin 5)]).flights.all fun f => !f.landed s.now || (match f.work with
            | .chain _ _ _ _ _ n rows .. => n ≤ rows
            | _ => true)
        | none => true))

/-- The IDLE condition of R29. -/
def State.idleMet (s : State) (h : Hdr) : Bool := decide (s.str.last + 1 + h.idle.toNat ≤ (s.now : Int))

/-- Stops of channels and programming requests that wait for T's next boundary (R439). -/
def Job.pending (j : Job) : List Stop := (j.chans.toList.filterMap (·.stop)) ++ j.pgmStop

/-- The stream may issue at all: its die is live, its job runs, it is not at END, nothing of it waits after issue, no stop waits to be
delivered to it (R36, R201, R433, R439). -/
def State.streamOpen (s : State) : Bool :=
  s.live (whoDie s.cur) && (match s.cur with
    | .sys _ => true
    | .eng _ _ _ e => s.jb.issuing s.now && (e != .t || s.jb.pending == [])) &&
  !s.str.atEnd && decide (s.str.gate ≤ s.now) && !s.str.flights.any fun f => f.work.blocks

/-- Does the word meet every condition of R29 that all words share? -/
def State.canIssue (s : State) (i : Instr) (h : Hdr) : Bool :=
  s.streamOpen && s.idleMet h && s.tokensReady h.tkp (extraPop i) && s.xFree i && s.bFree i && s.memFree i && s.engineFree && s.gatesOpen

/-- The outcome of a meaning's body: a new state and where the stream goes, or a stop at issue. -/
abbrev Body := State → Except Stop (State × Flow)

/-- A stop at issue: everything else stays as it was (R80); the model's own counter of free values moves, as for an issue. -/
def State.stopIssue (s : State) (st : Stop) : State := { s.takeStop st with free := s.free + 1 }

/-- Runs a word: no stream, no run; a word whose conditions (those of all words, and `ready`, its own) are not met waits; a stop at issue
leaves everything as it was (R80). -/
def runWord (i : Instr) (h : Hdr) (ready : State → Bool) (body : Body) (s : State) : Host.Outcome State Fault Refusal :=
  match s.stream? s.cur with
  | none => .fault .noStream
  | some _ =>
    if s.canIssue i h && ready s then
      match body (s.popped h (extraPop i)) with
      | .error st => .next (s.stopIssue st)
      | .ok r => .next (r.1.finish r.2)
    else .next s

/-- A word that has no effect but its tokens: it completes in the cycle after issue (R32, R78, R114). -/
def asNop (h : Hdr) (s : State) : Except Stop (State × Flow) := .ok (s.launchWord h.tks (some (s.now + 1)) [] .fixed, .fall)

/-- Runs a word with a guard: a false guard moves tokens and nothing else, and waits for nothing of the word's own (R78; log 126). -/
def runGuarded (i : Instr) (h : Hdr) (g : Guard) (ready : State → Bool) (body : Body) (s : State) : Host.Outcome State Fault Refusal :=
  runWord i h (fun s => !s.guard g || ready s) (fun s => if s.guard g then body s else asNop h s) s

/-- A word that reads at its issue: the writes its stream has acquired, with the tokens it pops, have taken effect (R268, R271). -/
def State.readsNow (s : State) (h : Hdr) : Bool :=
  match s.cur with
  | .sys _ => true
  | .eng .. => (s.popped h none).str.cov.all fun i => !s.jb.outstanding i

/-- No condition of the word's own. -/
def always (_ : State) : Bool := true

/-- A word whose whole effect is results that land after a latency (R110). -/
def results (h : Hdr) (lat : Nat) (effs : List Eff) (s : State) : Except Stop (State × Flow) :=
  .ok (s.launchWord h.tks (some (s.now + lat)) effs .fixed, .fall)

/-- Flags of an instruction are set at its completion (R112): an effect, where there are any. -/
def flagEff (f : FlagSet) : List Eff := if f = 0 then [] else [.flags f]

end Sys2Proof.Machine
end

