-- ==== Sys2Proof/Machine/Space.lean ====
section
/-! DEFINITION. Memories and translation: segments, page walks, TLB, lines at their homes, copies, L1, unbacked lines, late frames, scratchpad and
grove SRAM (spec/10_memories_spaces.md, spec/11_memories_access.md R244, R261, R262, spec/16_tables.md R358, R360). -/

namespace Sys2Proof.Machine
open Sys2Proof

/-! ## Segment and page entries as fields -/

def segLen (e : BitVec 256) : Nat := bits e 52 0
/-- 0 LPDDR, 1 HOST, 2 REMOTE, 3 UNBACKED (R358). -/
def segKind (e : BitVec 256) : Nat := bits e 129 128
def segSwm (e : BitVec 256) : Bool := e.getLsbD 130 && (segKind e == 0 || segKind e == 3)
def segLate (e : BitVec 256) : Bool := e.getLsbD 131
def segAdp (e : BitVec 256) : Bool := e.getLsbD 132
def segW (e : BitVec 256) : Bool := e.getLsbD 133
/-- HOST buffers use die 0 (R221). -/
def segHome (e : BitVec 256) : DieId := if segKind e = 1 then 0 else Fin.ofNat 4 (bits e 135 134)
def segPksel (e : BitVec 256) : Nat := bits e 195 192
def segTarget (e : BitVec 256) : BitVec 13 := e.extractLsb' 224 13
def segIncarn (e : BitVec 256) : BitVec 16 := e.extractLsb' 240 16
def segHasRoot (e : BitVec 256) : Bool := e.getLsbD 127
/-- The byte address of the top-level table, as a device physical address (R358, R401). -/
def segRoot (e : BitVec 256) : Nat := bits e 125 124 * 2 ^ 37 + 4096 * bits e 88 64 + (if e.getLsbD 126 then 2048 else 0)

/-- The segment entry of a buffer on a die's replica (R358). -/
def State.seg (s : State) (d : DieId) (asn : BitVec 8) (b : BitVec 12) : BitVec 256 := (s.die d).segs.getD (4096 * asn.toNat + b.toNat) 0

/-! ## Lines -/

/-- The key of a physical line, of an unbacked line, of a host line. -/
def physKey (a : Nat) : Nat := 3 * (a / 128)
def ubKey (asn : BitVec 8) (b : BitVec 12) (line : Nat) : Nat := 3 * ((asn.toNat * 4096 + b.toNat) * 2 ^ 45 + line) + 1
def hostKey (a : Nat) : Nat := 3 * (a / 128) + 2

/-- The 128 bytes of a line as a vector. -/
def lineOf (l : List Byte) : BitVec 1024 := BitVec.ofNat 1024 (leNat l)
def bytesOf (v : BitVec 1024) (off n : Nat) : List Byte := (List.range n).map fun i => v.extractLsb' (8 * (off + i)) 8
/-- Replaces bytes from an offset. -/
def putBytes (v : BitVec 1024) (off : Nat) (l : List Byte) : BitVec 1024 := setBits v (8 * off) (8 * l.length) (leNat l)
/-- The dirty mask of bytes off to off + n - 1. -/
def maskBytes (off n : Nat) : BitVec 128 := (BitVec.ofNat 128 (2 ^ n - 1)) <<< off

/-- A line's backing bytes and poison: LPDDR6 for a physical line, host memory for a host line, zeros for an unbacked one. -/
def State.backing (s : State) (key : Nat) : BitVec 1024 × Bool :=
  let a := key / 3 * 128
  if key % 3 = 0 then (lineOf (s.lpddr.reads a 128), s.lpPoison.contains (a / 64) || s.lpPoison.contains (a / 64 + 1))
  else if key % 3 = 2 then (lineOf (s.hostMem.reads a 128), s.hostPoison.contains (a / 128))
  else (0, false)

/-- A line's current bytes and poison at its home (R228, R231). -/
def State.homeLine (s : State) (key : Nat) : BitVec 1024 × Bool :=
  match s.masters.get? key with
  | some l => (l.data, l.poison)
  | none => s.backing key

/-- Writes a line's bytes to its frame or to the host, with its marks; an unbacked line has nowhere to go. -/
def State.toBacking (s : State) (key : Nat) (l : Line) : State :=
  let a := key / 3 * 128
  if l.dirty = 0 && !l.poison then s
  else if key % 3 = 0 then
    { s with
      lpddr := s.lpddr.writes a (bytesOf l.data 0 128)
      lpPoison := if l.poison then a / 64 :: (a / 64 + 1) :: s.lpPoison.filter (fun u => u != a / 64 && u != a / 64 + 1)
        else s.lpPoison.filter fun u => u != a / 64 && u != a / 64 + 1 }
  else if key % 3 = 2 then
    { s with
      hostMem := s.hostMem.writes a (bytesOf l.data 0 128)
      hostPoison := if l.poison then a / 128 :: s.hostPoison.filter (· != a / 128) else s.hostPoison.filter (· != a / 128) }
  else s

/-- Writes a home line back; it stays, clean (R262). -/
def State.writeBack (s : State) (key : Nat) : State :=
  match s.masters.get? key with
  | some l => if key % 3 = 1 then s else { (s.toBacking key l) with masters := s.masters.put key { l with dirty := 0 } }
  | none => s

/-- Evicts a home line: written back and dropped, unless it is pinned (R228, R230, R232). -/
def State.evictMaster (s : State) (key : Nat) : State :=
  match s.masters.get? key with
  | some l => if key % 3 = 1 || l.locks != [] then s else { (s.toBacking key l) with masters := s.masters.del key }
  | none => s

/-- Lines of 128 bytes in a die cache of 544 MiB (R12). -/
def dieCacheLines : Nat := 4456448
/-- Is a die's cache full: its master lines and its copies (R12, R228)? -/
def State.cacheFull (s : State) (d : DieId) : Bool :=
  decide (dieCacheLines ≤ (s.masters.filter fun e => e.2.home == d).length + (s.die d).copies.length)

/-- A full die cache gives up a master line of no architected choice that nothing pins (R228). -/
def State.evictFor (s : State) (d : DieId) : State :=
  if !s.cacheFull d then s
  else
    let ks := (s.masters.filter fun e => e.2.home == d && e.2.locks == [] && e.1 % 3 != 1).map (·.1)
    match ks[Config.freeNat s.free 72 % max 1 ks.length]? with
    | some k => s.evictMaster k
    | none => s

/-- A line as it enters its home's cache. -/
def State.newLine (s : State) (key : Nat) (home : DieId) : Line :=
  let b := s.backing key
  { data := b.1, poison := b.2, home := home, ub := key % 3 == 1 }

/-- A line enters its home's cache, which makes room for it; one that finds no place goes to its frame or to the host (R12, R228). -/
def State.enter (s : State) (key : Nat) (l : Line) : State :=
  if (s.masters.get? key).isSome then { s with masters := s.masters.put key l }
  else
    let s := s.evictFor l.home
    if key % 3 != 1 && l.locks == [] && s.cacheFull l.home then s.toBacking key l else { s with masters := s.masters.put key l }

/-- Writes bytes of a line at its home, allocating it in the home die's cache as a dirty line; where the cache has no place for it, in its frame.
A whole-line write clears its mark (R391). -/
def State.masterWrite (s : State) (key off : Nat) (home : DieId) (data : List Byte) (poison : Bool) : State :=
  let l := (s.masters.get? key).getD (s.newLine key home)
  s.enter key { l with
    data := putBytes l.data off data, dirty := l.dirty ||| maskBytes off data.length
    poison := poison || (l.poison && decide (data.length < 128)) }

/-- A copy as a die fetches it from the master. -/
def State.newCopy (s : State) (key : Nat) (asn : BitVec 8) (home : DieId) (locks : List (Nat × Nat)) : Copy :=
  let m := s.homeLine key
  { data := m.1, poison := m.2, asn := asn, home := home, locks := locks }

/-- Writes a die's dirty copy bytes into the master by byte mask; the copy stays, clean, or is dropped (R262). A copy that is locked here and
dropped is fetched again at once (R230; log 96). -/
def State.mergeCopy (s : State) (d : DieId) (key : Nat) (drop : Bool) : State :=
  match (s.die d).copies.get? key with
  | none => s
  | some c =>
    let s := if c.dirty = BitVec.allOnes 128 then s.masterWrite key 0 c.home (bytesOf c.data 0 128) c.poison
      else (List.range 128).foldl (fun s i => if c.dirty.getLsbD i then s.masterWrite key i c.home (bytesOf c.data i 1) c.poison else s) s
    let left (x : Die) : Map Copy :=
      if !drop then x.copies.put key { c with dirty := 0 }
      else if c.locks = [] then x.copies.del key
      else x.copies.put key (s.newCopy key c.asn c.home c.locks)
    s.updDie d fun x => { x with copies := left x }

/-- Makes room for one more copy in a die's cache: a line that nothing pins goes (R228). -/
def State.makeRoom (s : State) (d : DieId) : State :=
  let s := s.evictFor d
  if !s.cacheFull d then s
  else
    let ks := ((s.die d).copies.filter fun e => e.2.locks == []).map (·.1)
    match ks[Config.freeNat s.free 73 % max 1 ks.length]? with
    | some k => s.mergeCopy d k true
    | none => s

/-! ## Places -/

/-- Why a translation fails (R223, R224). -/
inductive XFail where
  | seg | prot | xlate
  deriving DecidableEq, Repr

/-- Where the bytes of an access within one line live. -/
inductive Place where
  /-- a line with a home; SWM = 1; the page's poison; the buffer has no frame here -/
  | line (key off : Nat) (home : DieId) (swm poison unbacked : Bool)
  /-- a remote package's byte -/
  | remote (pkg : BitVec 13) (incarn : BitVec 16) (addr : Nat) (pksel : Nat) (adp poison : Bool)
  /-- the home or frame lies on a fenced die (R404) -/
  | dead
  deriving DecidableEq, Repr

/-- A physical line as the die of its frame holds it: in its cache when the line is present there, else in its LPDDR6; never another die's (R223). -/
def State.frameLine (s : State) (key : Nat) : BitVec 1024 × Bool :=
  match s.masters.get? key with
  | some l => if l.home.val = key / 3 * 128 / 2 ^ 37 then (l.data, l.poison) else s.backing key
  | none => s.backing key

/-- One page-table entry, read at the die of its table (R222, R223, R360). -/
def State.pte (s : State) (a : Nat) : Word := BitVec.ofNat 64 (leNat (bytesOf (s.frameLine (physKey a)).1 (a % 128) 8))

/-- A leaf with its frame's extent checked (R360). -/
def leafOf (e : Word) (lpddrKind : Bool) : Option Leaf :=
  let n := bits e 5 2
  let f := bits e 51 12
  if e.getLsbD 11 || (lpddrKind && decide (Config.framesPerDie < f + 4 ^ n)) then none
  else some { size := n, frame := f, die := Fin.ofNat 4 (bits e 10 9), r := e.getLsbD 6, w := e.getLsbD 7, poison := e.getLsbD 8 }

/-- The walk from a table at a level (R222): the leaf and whether its code belongs to that level; none where an invalid entry is met. -/
def State.walk (s : State) (o : Nat) (lpddrKind : Bool) : Nat → Nat → Option (Leaf × Bool)
  | 0, _ => none
  | k + 1, table =>
    let shift := 12 + 8 * k
    let e := s.pte (table + 8 * (o / 2 ^ shift % 256))
    if !e.getLsbD 0 then none
    else if e.getLsbD 1 then
      match leafOf e lpddrKind with
      | none => none
      | some l => some (l, decide (k < 4 ∧ 4 * k ≤ l.size ∧ l.size ≤ 4 * k + 3))
    else if k = 0 then none
    else s.walk o lpddrKind k (bits e 10 9 * 2 ^ 37 + 4096 * bits e 36 12 + (if e.getLsbD 11 then 2048 else 0))

/-- Does a TLB entry cover an offset of a buffer (R225)? -/
def TlbEntry.covers (t : TlbEntry) (asn : BitVec 8) (b : BitVec 12) (o : Nat) : Bool :=
  t.asn == asn && t.buf == b && decide (t.first ≤ o ∧ o < t.first + 4096 * 4 ^ t.leaf.size)

/-- The physical lines a walk from a table reads, down to the entry that ends it (R222). -/
def State.walkLines (s : State) (o : Nat) : Nat → Nat → List Nat
  | 0, _ => []
  | k + 1, table =>
    let a := table + 8 * (o / 2 ^ (12 + 8 * k) % 256)
    let e := s.pte a
    physKey a :: if e.getLsbD 0 && !e.getLsbD 1 && k != 0 then
      s.walkLines o k (bits e 10 9 * 2 ^ 37 + 4096 * bits e 36 12 + (if e.getLsbD 11 then 2048 else 0)) else []

/-- Places of a die's understory other than its cache, as numbers that Config.rowGroup takes (R12; log 27): a place of a record's tile queue, of a
grove's, a byte of a save slot, a byte of the audit log. -/
def localTqRow (r q i : Nat) : Nat := 2 ^ 80 + 2 ^ 32 * (32 * r + q) + i
def groveTqRow (g : GroveId) (q i : Nat) : Nat := 2 ^ 81 + 2 ^ 32 * (16 * g.val + q) + i
def areaRow (r off : Nat) : Nat := 2 ^ 82 + 2 ^ 21 * r + off / 65536 * 65536
def auditRow (off : Nat) : Nat := 2 ^ 83 + off / 65536 * 65536

/-- An access touches a row of a die's understory: its group's stamp is renewed (R363). -/
def State.restamp (s : State) (d : DieId) (key : Nat) : State :=
  s.updDie d fun x => { x with stamps := x.stamps.put (Config.rowGroup key % 16384) (BitVec.ofNat 16 (s.time / (64 * 17000))) }

/-- A save or a restore goes through every row group of a record's save slot (R12, R363). -/
def State.touchArea (s : State) (d : DieId) (r : Nat) : State := (List.range 26).foldl (fun s i => s.restamp d (areaRow r (65536 * i))) s

/-- The same for a table line, in the cache of its die when it is present there (R223). -/
def State.restampTable (s : State) (key : Nat) : State :=
  match s.masters.get? key with
  | some l => if l.home.val = key / 3 * 128 / 2 ^ 37 then s.restamp l.home key else s
  | none => s

/-- The TLB entry of a core that covers an offset (R225). -/
def State.tlbHit (s : State) (d : DieId) (c : CoreId) (asn : BitVec 8) (b : BitVec 12) (o : Nat) : Option Leaf :=
  ((s.core d c).tlb.find? fun t => t.covers asn b o).map (·.leaf)

/-- Puts a walked leaf into a core's TLB; a full TLB gives up an entry of no architected choice (R225). -/
def State.tlbFill (s : State) (d : DieId) (c : CoreId) (asn : BitVec 8) (b : BitVec 12) (o : Nat) (l : Leaf) (incarn : BitVec 16) : State :=
  s.updCore d c fun x =>
    let t := if x.tlb.length < 2112 then x.tlb else x.tlb.eraseIdx (Config.freeNat s.free 70 % x.tlb.length)
    { x with tlb := { asn := asn, buf := b, first := o / (4096 * 4 ^ l.size) * (4096 * 4 ^ l.size), incarn := incarn, leaf := l } :: t }

/-- Translation of one page's part of an access (R223), for a core's TLB (none: an agent without one, which walks). `pre` is the leaf an earlier
translation of the same access gave. Live dies reach each other whatever dies and modules stand between them (log 121). -/
def State.translate (s : State) (d : DieId) (c : Option CoreId) (asn : BitVec 8) (va n : Nat) (write : Bool) (pre : Option TlbEntry := none) :
    Except XFail (Place × State) :=
  let b : BitVec 12 := BitVec.ofNat 12 (va / 2 ^ 52)
  let o := va % 2 ^ 52
  let e := s.seg d asn b
  if b = 0 ∨ b = 4095 ∨ segLen e = 0 ∨ segLen e < o + n then .error .seg
  else if write && !segW e then .error .prot
  else
    let ub : Place := if s.live (segHome e) then .line (ubKey asn b (o / 128)) (o % 128) (segHome e) (segSwm e) false true else .dead
    if segKind e = 3 ∧ ¬ segHasRoot e then .ok (ub, s)
    else
      let hit := match pre.filter fun t => t.covers asn b o, c with
        | some t, _ => some t.leaf
        | none, some c => s.tlbHit d c asn b o
        | none, none => none
      let found := match hit with
        | some l => some (l, true)
        | none => s.walk o (segKind e == 0 || segKind e == 3) 5 (segRoot e)
      match found with
      | none => if segKind e = 3 then .ok (ub, s) else .error .xlate
      | some (l, ok) =>
        if !ok || l.frame % 4 ^ l.size != 0 then .error .xlate
        else if !write && !l.r then .error .prot
        else if write && (!l.w || l.poison) then .error .prot
        else
          let s := if hit.isNone then (s.walkLines o 5 (segRoot e)).foldl State.restampTable s else s
          let s := match hit, c with
            | none, some c => s.tlbFill d c asn b o l (if segKind e = 2 then segIncarn e else 0)
            | _, _ => s
          let a := l.frame * 4096 + o % (4096 * 4 ^ l.size)
          let p : Place :=
            if segKind e = 1 then (if s.live 0 then .line (hostKey a) (a % 128) 0 false l.poison false else .dead)
            else if segKind e = 2 then .remote (segTarget e) (segIncarn e) (l.die.val * 2 ^ 37 + a) (segPksel e) (segAdp e) l.poison
            else if s.live (segHome e) && s.live l.die then
              .line (physKey (l.die.val * 2 ^ 37 + a)) (a % 128) (segHome e) (segSwm e) l.poison false
            else .dead
          .ok (p, s)

/-- The cause of a failed ordinary access (R224). -/
def XFail.cause : XFail → Cause
  | .seg => .segBad | .prot => .protFatal | .xlate => .xlateFatal
/-- The cause of a failed probe (R224). -/
def XFail.probeCause : XFail → Cause
  | .prot => .probeProt | _ => .probeFault

/-- The pieces of a run of n bytes that stay within a line each: address and length; addresses wrap (R245). -/
def pieces (va : Nat) : Nat → List (Nat × Nat)
  | n => (List.range (n / 128 + 2)).filterMap fun i =>
      let lo := if i = 0 then va else (va / 128 + i) * 128
      let hi := min (va + n) ((va / 128 + i + 1) * 128)
      if lo < hi then some (lo % 2 ^ 64, hi - lo) else none

/-! ## Reading and writing a place -/

/-- The bytes and the poison of a place's line piece as die d sees them: its own copy of a SWM = 1 line, or the home (R261, R267). -/
def State.readPlace (s : State) (d : DieId) (p : Place) (n : Nat) : List Byte × Bool :=
  match p with
  | .line key off home swm poison _ =>
    let m := s.homeLine key
    match (if swm && decide (d ≠ home) then (s.die d).copies.get? key else none) with
    | some c => (bytesOf c.data off n, c.poison || poison)
    | none => (bytesOf m.1 off n, m.2 || poison)
  | .remote .. => (List.replicate n 0, true)
  | .dead => (List.replicate n 0, true)

/-- The retention window of a band in ms (R362). -/
def bandWindow (b : Nat) : Nat := [2048, 1024, 512, 256, 128, 64, 48, 32].getD b 0
/-- 64 us in TSC units. -/
def stampUnits : Nat := 64 * 17000
/-- The age of a row group in units of 64 us (R362). -/
def State.rowAge (s : State) (d : DieId) (g : Nat) : Nat := (BitVec.ofNat 16 (s.time / stampUnits) - (s.die d).stamps.getD g 0).toNat
/-- The die whose cache a place is accessed in, with its line: the accessing die's where it holds a copy, else the home's (R261, R363). -/
def State.cacheRow (s : State) (d : DieId) (p : Place) : Option (DieId × Nat) :=
  match p with
  | .line key _ home swm _ _ => some (if swm && decide (d ≠ home) && ((s.die d).copies.get? key).isSome then d else home, key)
  | _ => none

/-- Has a row group's age reached so many eighths of its window (R363)? -/
def State.rowDue (s : State) (d : DieId) (g eighths : Nat) : Bool :=
  decide (bandWindow ((s.die d).regions.getD (g / 64) {}).band * 125 * eighths ≤ s.rowAge d g * 64)

/-- Does an access of a row of a die's understory wait until its group is refreshed (R363)? -/
def State.rowWaits (s : State) (d : DieId) (key : Nat) : Bool := s.rowDue d (Config.rowGroup key % 16384) 6

/-- Does an access of a place by die d? -/
def State.placeWaits (s : State) (d : DieId) (p : Place) : Bool := (s.cacheRow d p).any fun r => s.rowWaits r.1 r.2

/-- An access of a place by die d renews the stamp of the row it touches (R363). -/
def State.touchRow (s : State) (d : DieId) (p : Place) : State :=
  match s.cacheRow d p with
  | some (x, key) => s.restamp x key
  | none => s

/-- A read of die d leaves a copy of a SWM = 1 line behind (R228). -/
def State.touchCopy (s : State) (d : DieId) (asn : BitVec 8) (p : Place) : State :=
  match p with
  | .line key _ home true _ _ =>
    if d = home then s
    else match (s.die d).copies.get? key with
      | some _ => s
      | none =>
        -- an absent unbacked line reads as zeros and is allocated nowhere (R231)
        if key % 3 = 1 && (s.masters.get? key).isNone then s
        else
          let s := s.makeRoom d
          s.updDie d fun x => { x with copies := x.copies.put key (s.newCopy key asn home []) }
  | _ => s

/-- Writes bytes to a place from die d: into its copy of a SWM = 1 line, or at the home (R261, R267). -/
def State.writePlace (s : State) (d : DieId) (asn : BitVec 8) (p : Place) (data : List Byte) (poison : Bool) : State :=
  match p with
  | .line key off home swm _ _ =>
    if swm && decide (d ≠ home) then
      let s := if ((s.die d).copies.get? key).isSome then s else s.makeRoom d
      let c := ((s.die d).copies.get? key).getD (s.newCopy key asn home [])
      let n : Copy := { c with data := putBytes c.data off data, dirty := c.dirty ||| maskBytes off data.length
                               poison := poison || (c.poison && decide (data.length < 128)), asn := asn }
      s.updDie d fun x => { x with copies := x.copies.put key n }
    else s.masterWrite key off home data poison
  | _ => s

/-- The L1's line under a key (R244). -/
def State.l1Find (s : State) (d : DieId) (c : CoreId) (key : Nat) : Option L1Line := (s.core d c).l1.find? fun l => l.key == key

/-- Fills an L1 line; a full L1 gives up a line of no architected choice (R244). -/
def State.l1Fill (s : State) (d : DieId) (c : CoreId) (key : Nat) (v : BitVec 1024) (poison : Bool) : State :=
  s.updCore d c fun x =>
    let l := x.l1.filter fun y => y.key != key
    let l := if l.length < 512 then l else l.eraseIdx (Config.freeNat s.free 71 % l.length)
    { x with l1 := { key := key, data := v, poison := poison } :: l }

/-- The L1 key of a place; a remote line's is by package and address. -/
def Place.l1Key : Place → Option (Nat × Nat)
  | .line key off _ _ _ _ => some (4 * key, off)
  | .remote pkg inc a .. => some (4 * (((pkg.toNat * 2 ^ 16 + inc.toNat) * 2 ^ 40) + a / 128) + 1, a % 128)
  | .dead => none

/-- A load of A through the L1 (R244): a hit gives the line as it stood at its fill; a miss reads and, where fill is set, fills. -/
def State.loadL1 (s : State) (d : DieId) (c : CoreId) (asn : BitVec 8) (p : Place) (n : Nat) (fill : Bool) : List Byte × Bool × State :=
  match p.l1Key with
  | none => (List.replicate n 0, true, s)
  | some (k, off) =>
    match s.l1Find d c k with
    | some l => (bytesOf l.data off n, l.poison, s)
    | none =>
      let r := s.readPlace d p n
      let s := s.touchCopy d asn p
      match p, fill with
      | .line key _ home swm poison ub, true =>
        let whole := s.readPlace d (.line key 0 home swm poison ub) 128
        (r.1, r.2, s.l1Fill d c k (lineOf whole.1) whole.2)
      | _, _ => (r.1, r.2, s)

/-- What a fill under way brings of an L1 line is too old: an access of A's has read or written the line since (R250). -/
def Core.staleFills (x : Core) (key : Nat) : Core := { x with fills := x.fills.map fun (p : Fill) => if p.key = key then { p with stale := true } else p }

/-- A store of A updates its core's L1 line where present, with its mark (R244, R259). -/
def State.storeL1 (s : State) (d : DieId) (c : CoreId) (p : Place) (data : List Byte) (poison : Bool) : State :=
  match p.l1Key with
  | none => s
  | some (k, off) =>
    let put (l : L1Line) : L1Line := { l with data := putBytes l.data off data, poison := poison || (l.poison && decide (data.length < 128)) }
    s.updCore d c fun x => { x.staleFills k with l1 := x.l1.map fun l => if l.key = k then put l else l }

/-- Atomics and SCADD drop the L1 line they touch (R244). -/
def State.dropL1 (s : State) (d : DieId) (c : CoreId) (p : Place) : State :=
  match p.l1Key with
  | none => s
  | some (k, _) => s.updCore d c fun x => { x.staleFills k with l1 := x.l1.filter fun l => l.key != k }

/-! ## Unbacked lines (R229-R235) -/

/-- Lines a job locks (R229, R230). -/
def State.lockedBy (s : State) (d : DieId) (r : Nat) : Nat :=
  (s.masters.filter fun e => e.2.locks.contains (d.val, r)).length + ((s.die d).copies.filter fun e => e.2.locks.contains (d.val, r)).length
/-- Lines a die pins: locked lines, at their home or as its copies, and reserved unbacked lines of all jobs (R229, R230). -/
def State.pinned (s : State) (d : DieId) : Nat :=
  (s.masters.filter fun e => e.2.home == d && (e.2.locks != [] || e.2.ub)).length + ((s.die d).copies.filter fun e => e.2.locks != []).length
/-- The die's bound of R229. -/
def pinBound : Nat := 3342336

/-- Removes a line's charge from the job or the standing count that holds it (R233). -/
def State.uncharge (s : State) (key : Nat) (l : Line) : State :=
  match l.charge with
  | some (d, r) => s.updJob (Fin.ofNat 4 d) r fun j => { j with ubused := j.ubused - 1 }
  | none =>
    if l.ub then
      let asn := key / 3 / 2 ^ 45 / 4096
      s.updDie l.home fun x => { x with standing := x.standing.put asn (x.standing.getD asn 0 - 1) }
    else s

/-- Bytes at a physical address, coherent with every access to them, each with its line's poison (R213, R401). -/
def State.physBytes (s : State) (a n : Nat) : List (Byte × Bool) :=
  (pieces a n).flatMap fun p => let l := s.homeLine (physKey p.1); (bytesOf l.1 (p.1 % 128) p.2).map fun b => (b, l.2)
/-- The same as a number: the frame pool's descriptor and its fields (R235). -/
def State.physRead (s : State) (a n : Nat) : Nat := leNat ((s.physBytes a n).map (·.1))

/-- A write within one line at the die of its frame, where a walk reads it (R213, R223); a master that another die holds takes it as well. -/
def State.frameWrite (s : State) (key off : Nat) (data : List Byte) (poison : Bool) : State :=
  let d : DieId := Fin.ofNat 4 (key / 3 * 128 / 2 ^ 37)
  match s.masters.get? key with
  | some l =>
    if l.home = d then s.masterWrite key off d data poison
    else
      let b := s.backing key
      (s.toBacking key { data := putBytes b.1 off data, dirty := BitVec.allOnes 128, poison := poison || (b.2 && decide (data.length < 128)) }).masterWrite
        key off d data poison
  | none => s.masterWrite key off d data poison

/-- A write that moves a frame pool's TAIL ends the silence of FRAME_LOW (R235). -/
def State.tailMoved (old s : State) (d : DieId) : State :=
  let a := d.val * 2 ^ 37 + 24
  if (s.die d).lateNoted && old.physRead a 8 != s.physRead a 8 then s.updDie d fun x => { x with lateNoted := false } else s

/-- A write of bytes at a physical address, at its frame's die (R213, R223). -/
def State.physWrite (s : State) (a : Nat) (data : List Byte) (poison : Bool := false) : State :=
  s.tailMoved ((pieces a data.length).foldl (fun (m : State × List Byte) p =>
    (m.1.frameWrite (physKey p.1) (p.1 % 128) (m.2.take p.2) poison, m.2.drop p.2)) (s, data)).1 (Fin.ofNat 4 (a / 2 ^ 37))

/-- The die whose cache holds a physical line, or would: its home's where it is there, else its frame's (R223, R363). -/
def State.frameRow (s : State) (a : Nat) : DieId := ((s.masters.get? (physKey a)).map (·.home)).getD (Fin.ofNat 4 (a / 2 ^ 37))
/-- An access to frames from outside the package's cores renews the stamps of the rows it touches, and waits for a row that is due (R363). -/
def State.touchFrame (s : State) (a n : Nat) : State := (pieces a n).foldl (fun s p => s.restamp (s.frameRow p.1) (physKey p.1)) s
def State.frameWaits (s : State) (a n : Nat) : Bool := (pieces a n).any fun p => s.rowWaits (s.frameRow p.1) (physKey p.1)

/-- Takes a frame from a die's pool (R235); none when it is empty or disabled. -/
def State.takeFrame (s : State) (d : DieId) : Option (Nat × State) :=
  let base := d.val * 2 ^ 37
  let ring := s.physRead base 8
  let size := s.physRead (base + 8) 8
  let head := s.physRead (base + 16) 8
  let tail := s.physRead (base + 24) 8
  let low := s.physRead (base + 32) 8
  let cnt := s.physRead (base + 40) 8
  if size = 0 ∨ head = tail then none
  else
    let f := s.physRead (base + (ring - 0x800000000) + 8 * (head % size)) 4 % 2 ^ 25
    let h2 := (head + 1) % size
    let s := (s.physWrite (base + 16) (leBytes 8 h2)).physWrite (base + 40) (leBytes 8 (cnt + 1))
    let left := (tail + size - h2) % size
    let s := if left ≤ low ∧ (s.die d).lateNoted = false then
      (s.updDie d fun x => { x with lateNoted := true }).notice d .frameLow 0xFF 0 else s
    some (f, s)

/-- The address of the level-4 entry of an offset, when every pointer above it is valid (R234, R237). -/
def State.level4 (s : State) (o : Nat) : Nat → Nat → Option Nat
  | 0, _ => none
  | 1, table => some (table + 8 * (o / 4096 % 256))
  | k + 2, table =>
    let e := s.pte (table + 8 * (o / 2 ^ (12 + 8 * (k + 1)) % 256))
    if e.getLsbD 0 && !e.getLsbD 1 then
      s.level4 o (k + 1) (bits e 10 9 * 2 ^ 37 + 4096 * bits e 36 12 + (if e.getLsbD 11 then 2048 else 0))
    else none

/-- The unbacked lines of a page become dirty framed lines at a frame; absent ones are zeroed there (R234, R237). -/
def State.frameLines (s : State) (asn : BitVec 8) (b : BitVec 12) (o bytes : Nat) (phys : Nat) (home : DieId) : State :=
  (List.range (bytes / 128)).foldl (fun s i =>
    let k := ubKey asn b ((o + 128 * i) / 128)
    let pk := physKey (phys + 128 * i)
    match s.masters.get? k with
    | some l =>
      let s := s.uncharge k l
      let copies (x : Die) : Map Copy := match x.copies.get? k with
        | some c => (x.copies.del k).put pk c
        | none => x.copies
      let s := { s with dies := s.dies.map fun (x : Die) => { x with copies := copies x } }
      { s with masters := (s.masters.del k).put pk { l with
          ub := false, charge := none, born := none, dirty := BitVec.allOnes 128, home := home
          data := if l.lost then 0 else l.data, poison := l.poison || l.lost, lost := false } }
    | none => s.enter pk { dirty := BitVec.allOnes 128, home := home }) s

/-- Late framing of a page (R234): the new state, or the stop UB_NOFRAME. -/
def State.lateFrame (s : State) (d : DieId) (asn : BitVec 8) (va : Nat) : Except Stop State :=
  let b : BitVec 12 := BitVec.ofNat 12 (va / 2 ^ 52)
  let o := va % 2 ^ 52 / 4096 * 4096
  let e := s.seg d asn b
  let home := segHome e
  match (if segHasRoot e then s.level4 o 5 (segRoot e) else none) with
  | none => .error { cause := .ubNoframe, info0 := BitVec.ofNat 64 va, info1 := some 1 }
  | some pa =>
    match s.takeFrame home with
    | none => .error { cause := .ubNoframe, info0 := BitVec.ofNat 64 va, info1 := some 0 }
    | some (f, s) =>
      let leaf := f * 4096 + home.val * 512 + (if segW e then 128 else 0) + 64 + 3
      let s := s.physWrite pa (leBytes 8 leaf)
      let s := s.frameLines asn b o 4096 (home.val * 2 ^ 37 + f * 4096) home
      .ok (s.notice home .ubLate 0xFF 0)

/-- Has a job room for one more unbacked line in its reservation (R232)? A write made by no job needs none (R233). -/
def State.ubRoom (s : State) (who : Option (Nat × Nat)) : Bool :=
  match who with
  | some (jd, r) => match s.job? (Fin.ofNat 4 jd) r with
    | some j => decide (j.ubused < j.ubres.toNat)
    | none => false
  | none => true

/-- The package core number of a job's place. -/
def State.ubCore (s : State) (who : Option (Nat × Nat)) : Option Nat :=
  who.bind fun p => (s.job? (Fin.ofNat 4 p.1) p.2).bind fun j => j.home.map fun h => pkgCore (Fin.ofNat 4 p.1) h.1

/-- Of two jobs that write the same absent line in one cycle, the one of the lower package core number is charged (R233). -/
def State.sharedFirst (s : State) (who : Option (Nat × Nat)) (key : Nat) (l : Line) : State :=
  match l.born, s.ubCore who, who, l.charge with
  | some (t, c), some me, some (jd, r), some (od, o) =>
    if t = s.clock.tick ∧ me < c ∧ s.ubRoom who = true then
      let s := (s.updJob (Fin.ofNat 4 od) o fun j => { j with ubused := j.ubused - 1 }).updJob (Fin.ofNat 4 jd) r fun j => { j with ubused := j.ubused + 1 }
      { s with masters := s.masters.put key { l with charge := who, born := some (t, me) } }
    else s
  | _, _, _, _ => s

/-- Readies an unbacked line for a write by a job (R232), or by no job (R233): RESERVED or framed, or the stop. -/
def State.ubForWrite (s : State) (d : DieId) (who : Option (Nat × Nat)) (asn : BitVec 8) (va : Nat) (key : Nat) (home : DieId) :
    Except Stop State :=
  match s.masters.get? key with
  | some l => if l.lost then .error { cause := .ubLost, info0 := BitVec.ofNat 64 va } else .ok (s.sharedFirst who key l)
  | none =>
    let e := s.seg d asn (BitVec.ofNat 12 (va / 2 ^ 52))
    if s.ubRoom who && decide (s.pinned home < pinBound) then
      let s := s.makeRoom home
      let born := (s.ubCore who).map fun c => (s.clock.tick, c)
      let s := { s with masters := s.masters.put key { home := home, ub := true, charge := who, born := born } }
      .ok (match who with
        | some (jd, r) => s.updJob (Fin.ofNat 4 jd) r fun j => { j with ubused := j.ubused + 1 }
        | none => s.updDie home fun x => { x with standing := x.standing.put asn.toNat (x.standing.getD asn.toNat 0 + 1) })
    else if segLate e then s.lateFrame d asn va
    else .error { cause := .ubOverflow, info0 := BitVec.ofNat 64 va }

/-- Is the line at a place lost (R231)? -/
def State.isLost (s : State) (p : Place) : Bool :=
  match p with
  | .line key _ _ _ _ true => match s.masters.get? key with
    | some l => l.lost
    | none => false
  | _ => false

/-- A write of one line piece by an access that translates now (R223, R232, R261): the new state or the stop. -/
def State.storePiece (s : State) (d : DieId) (c : Option CoreId) (who : Option (Nat × Nat)) (asn : BitVec 8) (va : Nat) (data : List Byte)
    (poison : Bool) (pre : Option TlbEntry := none) : Except Stop (State × Place) :=
  match s.translate d c asn va data.length true pre with
  | .error f => .error { cause := f.cause, info0 := BitVec.ofNat 64 va }
  | .ok (p, s) =>
    match p with
    | .line key _ home _ _ true =>
      match s.ubForWrite d who asn va key home with
      | .error st => .error st
      | .ok s =>
        -- a late frame may just have been made: the page then translates to it
        match s.translate d c asn va data.length true pre with
        | .error f => .error { cause := f.cause, info0 := BitVec.ofNat 64 va }
        | .ok (p, s) => .ok (s.writePlace d asn p data poison, p)
    | _ => .ok (s.writePlace d asn p data poison, p)

/-! ## Scratchpad and grove SRAM -/

/-- Declared scratchpad bytes of a job (R27). -/
def Job.spBytes (j : Job) : Nat := 4096 * (j.kernel.sp.foldl (· + ·) 0)

/-- Bytes of a job's scratchpad with the poison of each 16-byte unit (R391). -/
def Job.spRead (j : Job) (o n : Nat) : List (Byte × Bool) := (List.range n).map fun i => (j.sp.read (o + i), j.spPoison.contains ((o + i) / 16))

/-- Writes scratchpad bytes; a unit wholly rewritten loses its mark, a poisoned byte marks its unit. -/
def Job.spWrite (j : Job) (o : Nat) (l : List (Byte × Bool)) : Job :=
  let touched := (l.zipIdx.filterMap fun (x, i) => if x.2 then some ((o + i) / 16) else none).eraseDups
  let whole := (List.range (l.length / 16 + 1)).filterMap fun i =>
    let u := (o + 15) / 16 + i
    if (u + 1) * 16 ≤ o + l.length then some u else none
  { j with
    sp := j.sp.writes o (l.map (·.1))
    spPoison := touched ++ j.spPoison.filter fun u => !whole.contains u && !touched.contains u }

/-- The grove window of an address space: base and length (R219). -/
def State.window (s : State) (d : DieId) (asn : BitVec 8) : Nat × Nat :=
  let e := s.seg d asn 4095
  (bits e 127 64, segLen e)

/-- Grove SRAM bytes with poison. -/
def Grove.sramRead (g : Grove) (o n : Nat) : List (Byte × Bool) := (List.range n).map fun i => (g.sram.read (o + i), g.sramPoison.contains ((o + i) / 16))

/-- Writes grove SRAM bytes. -/
def Grove.sramWrite (g : Grove) (o : Nat) (l : List (Byte × Bool)) : Grove :=
  let touched := (l.zipIdx.filterMap fun (x, i) => if x.2 then some ((o + i) / 16) else none).eraseDups
  let whole := (List.range (l.length / 16 + 1)).filterMap fun i =>
    let u := (o + 15) / 16 + i
    if (u + 1) * 16 ≤ o + l.length then some u else none
  { g with
    sram := g.sram.writes o (l.map (·.1))
    sramPoison := touched ++ g.sramPoison.filter fun u => !whole.contains u && !touched.contains u }

end Sys2Proof.Machine
end

