-- ==== Sys2Proof/Machine/Events.lean ====
section
/-! DEFINITION. The system address space's frames, event capture, and the sending of tokens at a completion (spec/02_jobs.md R30-R32,
spec/17_counters.md R379, R380, spec/09_registers_control.md R213). -/

namespace Sys2Proof.Machine
open Sys2Proof

/-- The physical address of a system address within the die's installed frames (R213): n bytes from a. -/
def sysFrame (d : DieId) (a n : Nat) : Option Nat :=
  if 0x800000000 ≤ a ∧ a + n ≤ 0x800000000 + 4096 * Config.framesPerDie then some (d.val * 2 ^ 37 + (a - 0x800000000)) else none

/-- Writes bytes at a system address of a die; outside the frames nothing is there to write (R6). -/
def State.sysPut (s : State) (d : DieId) (a : Nat) (data : List Byte) : State :=
  match sysFrame d a data.length with
  | some p => s.physWrite p data
  | none => s

/-- Reads n bytes at a system address of a die, with poison; outside the frames they read zero (R6). -/
def State.sysGet (s : State) (d : DieId) (a n : Nat) : List Byte × Bool :=
  match sysFrame d a n with
  | some p =>
    let l := s.physBytes p n
    (l.map (·.1), l.any (·.2))
  | none => (List.replicate n 0, false)

/-- The source number of a stream's events (R379). -/
def sourceOf : Who → Nat
  | .eng d c _ _ => pkgCore d c
  | .sys d => 0x100 + d.val

/-- Captures one event record (R380). -/
def State.capture (s : State) (d : DieId) (waddr : Nat) (tag : BitVec 16) (kind : Bool) (stream source : Nat) : State :=
  let x := s.die d
  if !x.capen then s
  else if x.capsize = 0 ∨ (x.caphead - x.captail).toNat = x.capsize.toNat then s.updDie d fun x => { x with capdrop := x.capdrop + 1 }
  else
    let r : BitVec 128 := (0 : BitVec 19) ++ BitVec.ofNat 13 waddr ++ tag ++ BitVec.ofBool kind ++ BitVec.ofNat 3 stream ++
      BitVec.ofNat 12 source ++ s.tsc d
    let s := s.sysPut d (x.capbase.toNat + 16 * (x.caphead.toNat % x.capsize.toNat)) (leBytes 16 r.toNat)
    s.updDie d fun x => { x with caphead := x.caphead + 1 }

/-! ## Samples (R384, R385) -/

/-- The number of bits of a number; 0 has none. -/
def bitLength (n : Nat) : Nat := if n = 0 then 0 else n.log2 + 1

/-- The bin of a sample (R385). -/
def Monitor.bin (m : Monitor) (x : Word) : Nat :=
  let d := if m.base ≤ x then (x - m.base).toNat / 2 ^ m.shift.toNat else 0
  Nat.min 31 (if m.mode then bitLength d else d)

/-- A monitor takes a sample (R385). -/
def Monitor.take (m : Monitor) (x : Word) : Monitor :=
  { m with
    count := m.count + 1
    min := if x < m.min then x else m.min
    max := if m.max < x then x else m.max
    bins := updAt m.bins (m.bin x) fun b => b + 1 }

/-- Does the monitor sample this kind and unit (R384)? -/
def Monitor.wants (m : Monitor) (kind unit : Nat) : Bool := m.en && m.kind.toNat == kind && (m.filter == 0xFFF || m.filter.toNat == unit)

/-- Does the monitor sample data-queue bytes (R384)? -/
def Monitor.wantsHeld (m : Monitor) : Bool := m.en && m.kind == 2

/-- A sample of a kind from a unit goes to every monitor of the die that selects it. -/
def State.sample (s : State) (d : DieId) (kind unit : Nat) (x : Nat) : State :=
  s.updDie d fun y => { y with mons := y.mons.map fun m => if m.wants kind unit then m.take (BitVec.ofNat 64 x) else m }

/-! ## Completion -/

/-- The tokens a completing word sends: by its TKS and, for TKSEND, its count (R30, R303). -/
def Flight.sends (f : Flight) (e : Engine) : List (Engine × Nat) :=
  let extra (x : Engine) : Nat := match f.work with
    | .tksend y n => if y = x then n else 0
    | _ => 0
  (otherEngines e).filterMap fun x =>
    let n := (if (maskEngines e f.tks).contains x then 1 else 0) + extra x
    if n = 0 then none else some (x, n)

/-- Removes a flight. -/
def Stream.drop (st : Stream) (id : Nat) : Stream := { st with flights := st.flights.filter fun f => f.id != id }

/-- Changes a flight. -/
def Stream.updFlight (st : Stream) (id : Nat) (f : Flight → Flight) : Stream :=
  { st with flights := st.flights.map fun x => if x.id = id then f x else x }

/-- A stop a word raises in its execution (R202): the word stays, to go on or start again should the job resume. -/
def State.stopFlight (s : State) (w : Who) (f : Flight) (st : Stop) : State :=
  (s.updStream w fun x => x.updFlight f.id fun y => { y with halted := true }).stopAt w f.pc st f.id

/-- Results of word id are written, earlier writes of their registers silenced (R33). -/
def State.landEffs (s : State) (w : Who) (id : Nat) (effs : List Eff) : State :=
  (s.updStream w fun st => { st with flights := silence id effs st.flights }).applyEffs w effs

/-- A word completes in this cycle: its results are written, earlier writes of their registers silenced, its tokens sent, or
TOKEN_OVER where a queue would exceed 15 (R30-R33). -/
def State.complete (s : State) (w : Who) (f : Flight) : State :=
  let s := s.landEffs w f.id f.effs
  match w with
  | .sys _ => s.updStream w fun st => st.drop f.id
  | .eng _ _ _ e =>
    let sends := f.sends e
    match s.jobOf? w with
    | none => s
    | some j =>
      if sends.any fun p => decide (15 < (j.toks e p.1).length + p.2) then
        (s.updStream w fun st => st.updFlight f.id fun y => { y with effs := [] }).stopFlight w f { cause := .tokenOver }
      else
        let cov := s.covers w f.id
        let now := s.timeOf w
        (s.updJobOf w fun j => sends.foldl (fun j p => { j with
          tokens := updAt j.tokens (tokIdx e p.1) fun l => l ++ List.replicate p.2 { sent := now, cov := cov } }) { j with ended := now }).updStream w
          fun st => st.drop f.id

/-- The flight with a number in a stream of a live die: a fenced die's clocks stand (R404). -/
def State.flight? (s : State) (w : Who) (id : Nat) : Option Flight :=
  if s.live (whoDie w) then (s.stream? w).bind fun st => st.flights.find? fun f => f.id == id else none

/-- Completes a word whose work has just ended, with the given results. -/
def State.completeWith (s : State) (w : Who) (f : Flight) (effs : List Eff) : State := s.complete w { f with effs := effs }

end Sys2Proof.Machine
end

