-- ==== Sys2Proof/Machine/Control.lean ====
section
/-! DEFINITION. The control words: NOP, branches, loops, END, HOLD, TRAP, MARK, and the landing of results (spec/06_registers_scalar.md
R113-R124, spec/02_jobs.md R32, R33, spec/95_what_each_step_holds.md). -/

namespace Sys2Proof.Machine
open Sys2Proof

/-- The length of the current stream's program in words (R23, R120). -/
def State.programLength (s : State) : Nat :=
  match s.cur with
  | .eng _ _ _ e => (s.jb.kernel.progs[e.idx.val]?.getD []).length
  | .sys d => (s.sysc d).prog.length

/-- NOP (R114). -/
def execNop (h : Hdr) (s : State) : Host.Outcome State Fault Refusal := runWord (.nop h) h always (asNop h) s

/-- PREP: its own address plus a signed offset, unchecked (R119). -/
def execPrep (h : Hdr) (b : BitVec 2) (off24 : BitVec 24) (s : State) : Host.Outcome State Fault Refusal :=
  runWord (.prep h b off24) h always (fun s => results h 2 [.b b (s.str.pc + sx64 off24)] s) s

/-- PREPR (R119). -/
def execPrepr (h : Hdr) (b : BitVec 2) (r : BitVec 5) (s : State) : Host.Outcome State Fault Refusal :=
  runWord (.prepr h b r) h always (fun s => results h 2 [.b b (s.readX 0 r)] s) s

/-- A taken or untaken branch (R120). -/
def branch (h : Hdr) (g : Guard) (b : BitVec 2) (link : Bool) : Body := fun s =>
  if s.guard g then
    let t := s.readB b
    if s.programLength ≤ t.toNat then .error { cause := .badTarget, info0 := t }
    else
      let effs := if link then [Eff.x 31 (s.str.pc + 1)] else []
      .ok (s.launchWord h.tks (some (s.now + 1)) effs .fixed, .jump t)
  else asNop h s

/-- BR (R120). -/
def execBr (h : Hdr) (g : Guard) (b : BitVec 2) (s : State) : Host.Outcome State Fault Refusal :=
  runWord (.br h g b) h always (branch h g b false) s

/-- BRL (R120). -/
def execBrl (h : Hdr) (g : Guard) (b : BitVec 2) (s : State) : Host.Outcome State Fault Refusal :=
  runWord (.brl h g b) h always (branch h g b true) s

/-- The nesting check of R121 for a body first to last against loop register k. -/
def Loop.clash (o : Loop) (first last : Nat) : Bool :=
  o.active && (o.last.toNat == last ||
    (decide (first ≤ o.last.toNat ∧ o.first.toNat ≤ last) &&
      !decide (o.first.toNat ≤ first ∧ last ≤ o.last.toNat) && !decide (first ≤ o.first.toNat ∧ o.last.toNat ≤ last)))

/-- Starts a loop of n passes (R121); it is in effect for the next word, so the word completes at its issue cycle (R32, R110). -/
def startLoop (h : Hdr) (l : BitVec 2) (n : State → Nat) (end16 : BitVec 16) : Body := fun s =>
  let pc := s.str.pc.toNat
  let first := pc + 1
  let last := pc + end16.toNat - 1
  match (List.range 4).find? fun k => k != l.toNat && ((s.str.l[k]?.getD {}).clash first last) with
  | some k => .error { cause := .loopNest, info0 := BitVec.ofNat 64 k }
  | none =>
    let n := n s
    let s' := s.updStr fun st => { st with
      l := st.l.setIfInBounds l.toNat { count := BitVec.ofNat 32 n, first := BitVec.ofNat 16 first, last := BitVec.ofNat 16 last, active := n != 0 } }
    let s' := s'.launchWord h.tks (some s.now) [] .fixed
    -- an empty loop skips its body, unless this word ends the body of a loop that is still active: the step of R122 then gives the next word
    if n = 0 ∧ ¬ (s'.str.l.toList.any fun o => o.active && o.last.toNat == pc) then .ok (s', .jump (s.str.pc + end16.zeroExtend 64))
    else .ok (s', .fall)

/-- LOOP (R121): the low 32 bits of the count register. -/
def execLoop (h : Hdr) (l : BitVec 2) (r : BitVec 5) (end16 : BitVec 16) (s : State) : Host.Outcome State Fault Refusal :=
  runWord (.loop h l r end16) h always (startLoop h l (fun s => (s.readX 0 r).toNat % 2 ^ 32) end16) s

/-- LOOPI (R121). -/
def execLoopi (h : Hdr) (l : BitVec 2) (cnt18 : BitVec 18) (end16 : BitVec 16) (s : State) : Host.Outcome State Fault Refusal :=
  runWord (.loopi h l cnt18 end16) h always (startLoop h l (fun _ => cnt18.toNat) end16) s

/-- LBRK (R123). -/
def execLbrk (h : Hdr) (g : Guard) (l : BitVec 2) (s : State) : Host.Outcome State Fault Refusal :=
  runGuarded (.lbrk h g l) h g always (fun s =>
    let o := s.str.l[l.toNat]?.getD {}
    if o.active = true then
      let s' := s.updStr fun st => { st with l := st.l.map fun x =>
        if x.active && (decide (o.first.toNat ≤ x.first.toNat) && decide (x.last.toNat ≤ o.last.toNat)) then { x with count := 0, active := false } else x }
      .ok (s'.launchWord h.tks (some s.now) [] .fixed, .jump (o.last.zeroExtend 64 + 1))
    else asNop h s) s

/-- M's END waits for a TEND under way, so that a window it closes is not found open (R161, R205, R419). -/
def endReady (s : State) : Bool :=
  match s.cur with
  | .eng _ _ _ .m => s.str.flights.all fun f => match f.work with
    | .tend .. => false
    | _ => true
  | _ => true

/-- END (R115, R205 WINDOW_LEFT, R211). -/
def execEndw (h : Hdr) (s : State) : Host.Outcome State Fault Refusal :=
  runWord (.endw h) h endReady (fun s =>
    match s.cur with
    | .sys d =>
      let s' := if (s.die d).evq = [] then s.updSys d fun x => { x with asleep := true } else s
      -- no loop-end step follows an END (R124): execution goes on at the next word
      .ok (s'.launchWord h.tks (some (s'.now + 1)) [] .fixed, .jump (s.str.pc + 1))
    | .eng _ _ _ e =>
      match (if e = .m then (List.finRange 4).find? fun z => (s.jb.tiles[z]).win.isSome else none) with
      | some z => .error { cause := .windowLeft, info0 := BitVec.ofNat 64 z.val }
      | none =>
        let s' := s.updStr fun st => { st with atEnd := true }
        .ok (s'.launchWord h.tks (some (s.now + 1)) [] .fixed, .jump s.str.pc)) s

/-- HOLD (R116). -/
def execHold (h : Hdr) (g : Guard) (cyc24 : BitVec 24) (s : State) : Host.Outcome State Fault Refusal :=
  runGuarded (.hold h g cyc24) h g always (fun s =>
    if cyc24 = 0 then asNop h s
    else .ok (s.launchWord h.tks (some (s.now + cyc24.toNat)) [] .hold, .fall)) s

/-- TRAP: it completes like NOP, and stops then (R117). -/
def execTrap (h : Hdr) (g : Guard) (code16 : BitVec 16) (n : BitVec 3) (s : State) : Host.Outcome State Fault Refusal :=
  runGuarded (.trap h g code16 n) h g always (fun s => .ok (s.launchWord h.tks (some (s.now + 1)) [] (.trap n code16), .stay)) s

/-- MARK (R118). -/
def execMark (h : Hdr) (g : Guard) (tag16 : BitVec 16) (s : State) : Host.Outcome State Fault Refusal :=
  runGuarded (.mark h g tag16) h g always
    (fun s => asNop h (s.capture (whoDie s.cur) (s.str.pc.toNat % 2 ^ 13) tag16 false (whoNum s.cur) (sourceOf s.cur))) s

/-! ## Completion -/

/-- A HOLD completes at its last held cycle, from which the next word's IDLE is counted (R116). -/
def State.holdOver (s : State) (w : Who) (f : Flight) : State :=
  (s.complete w f).updStream w fun st => { st with last := max st.last ((f.land.getD 0 : Nat) : Int) }

/-- HOLD_EXPIRE (R116): a HOLD of a job's stream completes at its last held cycle. -/
def execHoldExpire (d : DieId) (c : CoreId) (k : SlotId) (e : Engine) (s : State) : Host.Outcome State Fault Refusal :=
  let w : Who := .eng d c k e
  if !s.mayStep w then .next s
  else match (s.stream? w).bind fun st => st.flights.find? fun f => f.work == .hold && f.landed (s.timeOf w) with
  | some f => .next (s.holdOver w f)
  | none => .next s

end Sys2Proof.Machine
end

