-- ==== Sys2Proof/Machine/Clock.lean ====
section
/-! DEFINITION. One nominal clock period: the TSC replicas, the groves' cycles with stretching, CYC, the stall count (spec/01_device.md R16,
spec/02_jobs.md R40, spec/17_counters.md R378, R386). -/

namespace Sys2Proof.Machine
open Sys2Proof

/-- A replica's next reading: within 17 units (1 ns) of ten units a period, and never below the reading before (R378; free value, log 11). -/
def nextRep (t old free : Nat) : Nat := max old (10 * t + free % 35 - 17)

/-- The clock record after one more period. -/
def Clock.next (c : Clock) (free : Nat) : Clock :=
  { tick := c.tick + 1, rep := Vector.ofFn fun (d : Fin 4) => nextRep (c.tick + 1) c.rep[d] (Config.freeNat free (80 + d.val)) }

/-- A grove's cycle: each of the stretched ones takes two periods; the cycle after an alarm begins with its counts (R386). Answers the grove and
whether its cycle advanced. -/
def Grove.tick (g : Grove) : Grove × Bool :=
  if 0 < g.stretch ∧ !g.half then ({ g with half := true }, false)
  else
    let n := g.reload.getD (g.stretch - 1, g.throttle - 1)
    ({ g with half := false, stretch := n.1, throttle := n.2, reload := none, cyc := g.cyc + 1 }, true)

/-- Is a slot's C stream blocked in LAUNCH on a full launch queue, nothing else of its own holding the word (R40, R344)? -/
def State.launchBlocked (s : State) (d : DieId) (c : CoreId) (k : SlotId) : Bool :=
  let s := { s with cur := .eng d c k .c }
  match (s.jb.kernel.progs[0]?.getD [])[s.str.pc.toNat]? with
  | none => false
  | some w =>
    let h := hdrOf w
    bits w 44 36 == 0x130 && s.streamOpen && s.idleMet h && s.tokensReady h.tkp none && s.guard { p := w.extractLsb' 33 3, pn := w.getLsbD 32 } &&
      (match (s.die d).lqs[(bits w 26 23)]? with
        | some q => decide (64 ≤ q.recs.length)
        | none => false)

/-- A cycle of a resident job: CYC counts it; the watchdog counts it while the job runs or comes to rest, but not while C is blocked in LAUNCH
(R16, R40; log 56). -/
def Job.tick (j : Job) (blocked : Bool) : Job :=
  match j.phase with
  | .running | .stopping .. => { j with cyc := j.cyc + 1, stall := if blocked then j.stall else j.stall + 1 }
  | .saved | .starting | .resuming | .restoring _ => j
  | _ => { j with cyc := j.cyc + 1 }

/-- A die's cycle: its groves, and the jobs resident in groves whose cycle advanced. A fenced die's clocks stand (R404). -/
def Die.tick (x : Die) (blocked : CoreId → SlotId → Bool) : Die :=
  if x.fenced then x
  else
    let on := x.groves.map fun g => g.tick.2
    { x with
      groves := x.groves.map fun g => g.tick.1
      recs := x.recs.map fun r => match r.job with
        | none => r
        | some j => match j.home with
          | none => r
          | some h => if on[groveOf h.1] then { r with job := some (j.tick (blocked h.1 h.2)) } else r
      sys := if x.sys.halted then x.sys else { x.sys with cyc := x.sys.cyc + 1 } }

/-- Packets whose rate has let them wait long enough leave (R413). -/
def State.depart (s : State) : State :=
  { s with
    departing := s.departing.filter fun x => decide (s.time < x.due)
    outbox := s.outbox ++ (s.departing.filter fun x => !decide (s.time < x.due)).map fun x => Out.packet x.port x.pkg x.packet }

/-- One nominal period of the package. -/
def State.tick (s : State) : State :=
  { s with dies := Vector.ofFn fun d => (s.dies[d]).tick (s.launchBlocked d), clock := s.clock.next s.free, free := s.free + 1 }.depart

end Sys2Proof.Machine
end

