-- ==== Sys2Proof/Machine/Flags.lean ====
section
/-! DEFINITION. The arithmetic of one floating-point or integer element with the FSTAT flags it sets (spec/03_numbers.md R65, R70, R435;
spec/06_registers_scalar.md R126-R136). Elements are bit patterns; a result comes with its flags. -/

namespace Sys2Proof.Machine
open Sys2Proof

/-- The format of a scalar float field (R85). -/
def scalarFmt (f : BitVec 2) : BitVec 5 := if f = 0 then 8 else if f = 1 then 7 else 6

/-- a + b, rounded once (R70, R133, R435). -/
def fpAdd (f : BitVec 5) (mode : Nat) (a b : Val) : Nat × FlagSet :=
  let r := roundTo f (Val.add mode a b) mode false
  (r.1, if addInvalid a b then r.2 ||| flInv else r.2)

/-- a x b, rounded once. -/
def fpMul (f : BitVec 5) (mode : Nat) (a b : Val) : Nat × FlagSet :=
  let r := roundTo f (Val.mul a b) mode false
  (r.1, if mulInvalid a b then r.2 ||| flInv else r.2)

/-- a x b + c, rounded once; 0 x infinity is invalid whatever c holds (R65, R133). -/
def fpFma (f : BitVec 5) (mode : Nat) (a b c : Val) : Nat × FlagSet :=
  let p := Val.mul a b
  let r := roundTo f (Val.add mode p c) mode false
  (r.1, if mulInvalid a b || addInvalid p c then r.2 ||| flInv else r.2)

/-- The smaller (or larger) of two elements, copied unchanged; a NaN gives way to a number; the zeros are ordered (R134). -/
def fpMinMax (f : BitVec 5) (larger : Bool) (a b : Nat) : Nat :=
  let va := fmtValue f a
  let vb := fmtValue f b
  if va.isNan && vb.isNan then canonicalNan f
  else if va.isNan then b
  else if vb.isNan then a
  else if Val.lt va vb then (if larger then b else a)
  else if Val.lt vb va then (if larger then a else b)
  else if va.sign != larger then a else b

/-- IEEE comparison, false with a NaN (R135, R178): 0 EQ, 1 NE, 2 LT, 3 LE, 4 GT, 5 GE; NE is true with a NaN. -/
def fpCond (cond : Nat) (a b : Val) : Bool :=
  if cond = 0 then Val.eqv a b
  else if cond = 1 then !Val.eqv a b
  else if a.isNan || b.isNan then false
  else if cond = 2 then Val.lt a b
  else if cond = 3 then !Val.lt b a
  else if cond = 4 then Val.lt b a
  else !Val.lt a b

/-- Signed comparison of integers by the same codes. -/
def intCond (cond : Nat) (a b : Int) : Bool :=
  if cond = 0 then a == b else if cond = 1 then a != b else if cond = 2 then decide (a < b)
  else if cond = 3 then decide (a ≤ b) else if cond = 4 then decide (b < a) else decide (b ≤ a)

/-- One conversion of an element between formats that are not shared-block: unchanged within one format but for a NaN (R136, R180). -/
def convert (src dst : BitVec 5) (b : Nat) (mode : Nat) (sat : Bool) : Nat × FlagSet :=
  let v := fmtValue src b
  if src = dst then (if !fmtIsInt src && v.isNan then canonicalNan src else b % 2 ^ fmtWidth src, 0)
  else roundTo dst v mode sat

/-- An element placed in an x register: integers sign-extended, others zero-extended (R132). -/
def placeX (f : BitVec 5) (b : Nat) : Word :=
  let w := fmtWidth f
  let b := b % 2 ^ w
  if fmtIsInt f && decide (2 ^ (w - 1) ≤ b) then BitVec.ofInt 64 ((b : Int) - 2 ^ w) else BitVec.ofNat 64 b

/-- The integer result of R126 for the two-operand instructions by their order from ADD (0) to MAXU (18). -/
def intOp (op : Nat) (a b : Word) : Word :=
  let k := b.toNat % 64
  if op = 0 then a + b
  else if op = 1 then a - b
  else if op = 2 then a * b
  else if op = 3 then BitVec.ofInt 64 ((a.toInt * b.toInt).fdiv (2 ^ 64))
  else if op = 4 then BitVec.ofNat 64 (a.toNat * b.toNat / 2 ^ 64)
  else if op = 5 then (if b = 0 then BitVec.allOnes 64 else BitVec.ofInt 64 (a.toInt.tdiv b.toInt))
  else if op = 6 then (if b = 0 then BitVec.allOnes 64 else BitVec.ofNat 64 (a.toNat / b.toNat))
  else if op = 7 then (if b = 0 then a else BitVec.ofInt 64 (a.toInt - b.toInt * a.toInt.tdiv b.toInt))
  else if op = 8 then (if b = 0 then a else BitVec.ofNat 64 (a.toNat % b.toNat))
  else if op = 9 then a &&& b
  else if op = 10 then a ||| b
  else if op = 11 then a ^^^ b
  else if op = 12 then a <<< k
  else if op = 13 then a >>> k
  else if op = 14 then a.sshiftRight k
  else if op = 15 then (if a.toInt < b.toInt then a else b)
  else if op = 16 then (if a.toNat < b.toNat then a else b)
  else if op = 17 then (if a.toInt < b.toInt then b else a)
  else (if a.toNat < b.toNat then b else a)

/-- Leading zero bits; 64 for 0 (R127). -/
def clz (a : Word) : Word := if a = 0 then 64 else BitVec.ofNat 64 (63 - Nat.log2 a.toNat)
/-- Trailing zero bits; 64 for 0. -/
def ctz (a : Word) : Word :=
  match (List.range 64).find? fun i => a.getLsbD i with
  | some i => BitVec.ofNat 64 i
  | none => 64
/-- One bits. -/
def popc (a : Word) : Word := BitVec.ofNat 64 ((List.range 64).filter fun i => a.getLsbD i).length

/-- An ABFTTOL value R198 accepts: not negative (but -0), not infinite, no NaN. -/
def tolOk (v : BitVec 32) : Bool :=
  v = 0x80000000 || (match fmtValue 8 v.toNat with
    | .fin neg _ _ => !neg
    | _ => false)

end Sys2Proof.Machine
end

