-- ==== Sys2Proof/Machine/Queue.lean ====
section
/-! DEFINITION. Data queues and tile queues as storage: configuration, pushes, pops with their conversion, tile entries
(spec/14_queues_engines.md R305-R319; spec/03_numbers.md R55, R64). -/

namespace Sys2Proof.Machine
open Sys2Proof

/-! ## Configuration words (R305, R306) -/

def qValid (c : Word) : Bool := c.getLsbD 63
def qCap (c : Word) : Nat := 64 * bits c 52 42
/-- SCALE, signed. -/
def qScale (c : Word) : Int := (c.extractLsb' 34 8).toInt
def qProd (c : Word) : Nat := bits c 33 31
def qCons (c : Word) : Nat := bits c 30 28
def qSrc (c : Word) : BitVec 5 := c.extractLsb' 23 5
def qSnk (c : Word) : BitVec 5 := c.extractLsb' 18 5
def qRnd (c : Word) : Nat := bits c 17 15
def qSat (c : Word) : Bool := c.getLsbD 14
def qFin (c : Word) : Bool := c.getLsbD 13

/-- A format a queue may hold: not reserved, W1024 or SEED (R306). -/
def queueFmtOk (f : BitVec 5) : Bool := decide (f.toNat ≤ 0x0B)

/-- The checks of R306 on a configuration, but for the engine. -/
def queueBad (c : Word) : Option Cause :=
  if !qValid c || decide (4 < qProd c) || decide (4 < qCons c) || decide (bits c 52 42 = 0) || decide (1024 < bits c 52 42) ||
      decide (bits c 62 53 ≠ 0) || decide (bits c 12 0 ≠ 0) then some .queueCfg
  else if !queueFmtOk (qSrc c) || !queueFmtOk (qSnk c) || decide (qRnd c = 7) then some .fmtBad
  else none

/-- The checks of R306 for a push or a pop by engine number e. -/
def queueCheck (c : Word) (push : Bool) (e : Nat) : Option Cause :=
  match queueBad c with
  | some x => some x
  | none => if (if push then qProd c else qCons c) = e then none else some .queueCfg

/-- The configuration word of a job's queue. -/
def Job.qcfg (j : Job) (q : Nat) : Word := j.kernel.qcfg[q]?.getD 0
/-- A job's data queue. -/
def Job.dq (j : Job) (q : Nat) : DataQ := j.dqs[q]?.getD {}
def Job.updDq (j : Job) (q : Nat) (f : DataQ → DataQ) : Job := { j with dqs := updAt j.dqs q f }

/-! ## Units: the bytes that hold a whole number of elements -/

/-- Bytes and elements of one unit of a format: a block, a byte of two INT4, one element. -/
def unitOf (f : BitVec 5) : Nat × Nat := if fmtIsSb f then (sbBytes f, 16) else if f = 1 then (1, 2) else (fmtWidth f / 8, 1)

/-- Element i of one unit, as bits; a block's element has none of its own. -/
def unitBits (f : BitVec 5) (unit i : Nat) : Nat := if f = 1 then unit / 16 ^ i % 16 else unit

/-- Element i of one unit, as a value. -/
def unitVal (f : BitVec 5) (unit i : Nat) : Val := if fmtIsSb f then sbValue f unit i else fmtValue f (unitBits f unit i)

/-- Elements first to first + n - 1 of a byte string that starts on a unit, as values. -/
def elemVals (f : BitVec 5) (bs : List Byte) (first n : Nat) : List Val :=
  let (ub, pe) := unitOf f
  (List.range n).map fun k =>
    let i := first + k
    unitVal f (leNat ((bs.drop (i / pe * ub)).take ub)) (i % pe)

/-- Packs element bits of a format that is not shared-block into bytes. -/
def packElems (f : BitVec 5) (l : List Nat) : List Byte :=
  if f = 1 then
    (List.range (cdiv l.length 2)).map fun i => BitVec.ofNat 8 (l.getD (2 * i) 0 % 16 + 16 * (l.getD (2 * i + 1) 0 % 16))
  else l.flatMap fun v => leBytes (fmtWidth f / 8) v

/-- Values encoded in a format, one rounding each, or one block for each 16 (R55, R60): bytes and flags. -/
def encodeVals (f : BitVec 5) (vs : List Val) (mode : Nat) (sat : Bool) : List Byte × FlagSet :=
  if fmtIsSb f then
    (List.range (vs.length / 16)).foldl (fun (acc : List Byte × FlagSet) i =>
      let r := sbEncode f ((vs.drop (16 * i)).take 16) mode sat
      (acc.1 ++ leBytes (sbBytes f) r.1, acc.2 ||| r.2)) ([], 0)
  else
    let rs := vs.map fun v => roundTo f v mode sat
    (packElems f (rs.map (·.1)), rs.foldl (fun a r => a ||| r.2) 0)

/-! ## Data queues (R307) -/

/-- Bytes no push may take: held bytes and what windows retain. -/
def DataQ.used (q : DataQ) : Nat := q.bytes.length + q.retained
/-- Are n bytes free? -/
def DataQ.fits (q : DataQ) (c : Word) (n : Nat) : Bool := decide (q.used + n ≤ qCap c)

/-- Bytes at the head that have landed before this cycle. -/
def DataQ.arrived (q : DataQ) (now : Nat) : Nat :=
  (q.bytes.takeWhile fun b => match b.land with
    | some t => decide (t < now)
    | none => false).length

/-- Elements that can be popped in this cycle. -/
def DataQ.ready (q : DataQ) (c : Word) (now : Nat) : Nat :=
  let (ub, pe) := unitOf (qSrc c)
  q.arrived now / ub * pe - q.sub

/-- Reserves n places for a flight. -/
def DataQ.reserve (q : DataQ) (owner n : Nat) : DataQ := { q with bytes := q.bytes ++ List.replicate n { b := 0, land := none, owner := owner } }

/-- Fills a list of reserved places from the front with bytes that land at a cycle. -/
def fillBytes (owner t : Nat) : List QByte → List (Byte × Bool) → List QByte
  | [], _ => []
  | l, [] => l
  | q :: r, d :: ds =>
    if q.land.isNone && q.owner == owner then { q with b := d.1, poison := d.2, land := some t } :: fillBytes owner t r ds
    else q :: fillBytes owner t r (d :: ds)

/-- A flight's data arrives in the next of its reserved places. -/
def DataQ.fill (q : DataQ) (owner t : Nat) (d : List (Byte × Bool)) : DataQ := { q with bytes := fillBytes owner t q.bytes d }

/-- Pushes bytes that land at a cycle. -/
def DataQ.push (q : DataQ) (t : Nat) (d : List (Byte × Bool)) : DataQ :=
  { q with bytes := q.bytes ++ d.map fun x => { b := x.1, poison := x.2, land := some t } }

/-- A list cut into pieces of n. -/
def chunks {α : Type} (n : Nat) (l : List α) : List (List α) := (List.range (cdiv l.length n)).map fun i => (l.drop (i * n)).take n

/-- The first k bytes, each with the poison mark of the 16-byte unit it lies in: any byte's of the unit, one popped before among them (R391; log 117). -/
def DataQ.view (q : DataQ) (k : Nat) : List QByte :=
  let l := q.bytes.take ((q.pos + k + 15) / 16 * 16 - q.pos)
  let spread (m : Bool) (u : List QByte) : List QByte := u.map fun b => { b with poison := m || u.any (·.poison) }
  (spread q.mark (l.take (16 - q.pos)) ++ (chunks 16 (l.drop (16 - q.pos))).flatMap (spread false)).take k

/-- The bytes and poison of the first elements. -/
def DataQ.peek (q : DataQ) (c : Word) (n : Nat) : List (Byte × Bool) :=
  let (ub, pe) := unitOf (qSrc c)
  (q.view (cdiv (q.sub + n) pe * ub)).map fun b => (b.b, b.poison || b.ue)

/-- Why the first n elements may not be consumed: an error of the queue's memory, or a poison mark (R310). -/
def DataQ.badPop (q : DataQ) (c : Word) (n : Nat) : Option Cause :=
  let (ub, pe) := unitOf (qSrc c)
  let l := q.view (cdiv (q.sub + n) pe * ub)
  if l.any (·.ue) then some .queueUe else if l.any (·.poison) then some .poison else none

/-- Removes n elements; a unit's bytes are freed with its last element. -/
def DataQ.remove (q : DataQ) (c : Word) (n : Nat) : DataQ :=
  let (ub, pe) := unitOf (qSrc c)
  let k := (q.sub + n) / pe * ub
  let pos := (q.pos + k) % 16
  -- marks of bytes popped of the 16-byte unit the head lies in stay with the unit (R391)
  let left := (q.bytes.take k).drop (k - pos)
  { q with bytes := q.bytes.drop k, sub := (q.sub + n) % pe, pos := pos, mark := (decide (q.pos + k < 16) && q.mark) || left.any (·.poison) }

/-- What n popped elements deliver (R309): bytes in the sink format with their poison, and flags. -/
def DataQ.deliver (q : DataQ) (c : Word) (n : Nat) (rmode : BitVec 3) : List (Byte × Bool) × FlagSet :=
  let raw := q.peek c n
  let (ub, pe) := unitOf (qSrc c)
  let pois (i : Nat) : Bool := ((raw.drop ((q.sub + i) / pe * ub)).take ub).any (·.2)
  if qSrc c = qSnk c ∧ qScale c = 0 ∧ (q.sub = 0 ∨ pe = 1) ∧ n % pe = 0 then (raw, 0)
  else
    let vs := (elemVals (qSrc c) (raw.map (·.1)) q.sub n)
    let out : List Byte × FlagSet :=
      if qSrc c = qSnk c ∧ qScale c = 0 ∧ !fmtIsSb (qSrc c) then
        (packElems (qSnk c) ((List.range n).map fun k => unitBits (qSrc c)
          (leNat (((raw.map (·.1)).drop ((q.sub + k) / pe * ub)).take ub)) ((q.sub + k) % pe)), 0)
      else encodeVals (qSnk c) (vs.map (Val.scale (qScale c))) (effMode (qRnd c) (qFin c) rmode) (qSat c)
    let (sb, se) := unitOf (qSnk c)
    ((out.1.zipIdx.map fun (b, i) => (b, (List.range se).any fun k => decide (i / sb * se + k < n) && pois (i / sb * se + k))), out.2)

/-- The element pops that n bytes of the sink format are. -/
def sinkElems (c : Word) (n : Nat) : Nat :=
  let (sb, se) := unitOf (qSnk c)
  n / sb * se

/-! ## Tile queues (R314-R316) -/

/-- A six-bit queue field: 0-15 a data queue, 16-47 local tile queues, 48-63 the grove's (R85). -/
inductive QName where
  | data (q : Nat) | localTq (q : Nat) | groveTq (q : Nat)
  deriving DecidableEq, Repr

def qName (q : BitVec 6) : QName := if q.toNat < 16 then .data q.toNat else if q.toNat < 48 then .localTq (q.toNat - 16) else .groveTq (q.toNat - 48)

/-- May the current job use the tile queue (R314, R315)? -/
def State.tqUsable (s : State) : QName → Bool
  | .data _ => false
  | .localTq q => s.jb.kernel.tqmask.getLsbD q
  | .groveTq q => match s.cur with
    | .eng d c _ _ => let b := (s.grove d (groveOf c)).bind[q]?.getD 0; b.getLsbD 63 && b.extractLsb' 0 8 == s.jb.asn
    | .sys _ => false

/-- A tile queue's contents as the current stream sees it. -/
def State.tq (s : State) : QName → TileQ
  | .data _ => {}
  | .localTq q => s.jb.tqs[q]?.getD {}
  | .groveTq q => match s.cur with
    | .eng d c _ _ => (s.grove d (groveOf c)).tqs[q]?.getD {}
    | .sys _ => {}

/-- Changes a tile queue. -/
def State.updTq (s : State) (n : QName) (f : TileQ → TileQ) : State :=
  match n with
  | .data _ => s
  | .localTq q => s.updJb fun j => { j with tqs := updAt j.tqs q f }
  | .groveTq q => match s.cur with
    | .eng d c _ _ => s.updGrove d (groveOf c) fun g => { g with tqs := updAt g.tqs q f }
    | .sys _ => s

/-- A tile queue's depth (R314). -/
def tqDepth : QName → Nat
  | .groveTq _ => 128
  | _ => 12

/-- Is there space for an entry, retained entries counted (R319)? -/
def TileQ.fits (q : TileQ) (n : QName) : Bool := decide (q.entries.length + q.reserved + q.retained < tqDepth n)
/-- The head entry, when it can be popped in this cycle. -/
def TileQ.head (q : TileQ) (now : Nat) : Option TqEntry :=
  match q.entries with
  | [] => none
  | e :: _ => if e.ready ≤ now then some e else none
/-- Removes the head. -/
def TileQ.pop (q : TileQ) : TileQ := { q with entries := q.entries.drop 1, used := 0 }
/-- The order of pushes accepted in one cycle: by package core number, then by engine index (R316). -/
def tqRank : Who → Nat
  | .eng d c _ e => 5 * pkgCore d c + e.idx.val
  | .sys _ => 0

/-- Adds an entry: behind those of earlier cycles, and among those of its own cycle by their pushers (R316). -/
def TileQ.push (q : TileQ) (e : TqEntry) : TileQ :=
  let later := (q.entries.reverse.takeWhile fun (y : TqEntry) => y.taken == e.taken && decide (e.rank < y.rank)).length
  { q with entries := q.entries.take (q.entries.length - later) ++ e :: q.entries.drop (q.entries.length - later) }

/-- The 4 KiB image of bytes. -/
def rowOf (l : List Byte) : Row := BitVec.ofNat 32768 (leNat l)
/-- A row's bytes. -/
def rowBytes (r : Row) (off n : Nat) : List Byte := (List.range n).map fun i => r.extractLsb' (8 * (off + i)) 8

end Sys2Proof.Machine
end

