-- ==== Sys2Proof/Machine/Tensor.lean ====
section
/-! DEFINITION. Tensor entries and transform specs as fields, their checks, and where elements lie (spec/16_tables.md R352-R357). -/

namespace Sys2Proof.Machine
open Sys2Proof

/-! ## Fields (R352) -/

def tScale (t : BitVec 256) : Int := (t.extractLsb' 240 16).toInt
/-- 0 FAULT, 1 ZERO, 2 REPLAY. -/
def tUepol (t : BitVec 256) : Nat := bits t 231 230
/-- 0 ZERO, 1 CLAMP, 2 FAULT. -/
def tEdge (t : BitVec 256) : Nat := bits t 229 228
def tEoff (t : BitVec 256) : Nat := bits t 227 224
def tLoc (t : BitVec 256) : Nat := bits t 223 221
def tFmt (t : BitVec 256) : BitVec 5 := t.extractLsb' 216 5
def tValid (t : BitVec 256) : Bool := t.getLsbD 192
def tRows (t : BitVec 256) : Nat := bits t 191 160
def tCols (t : BitVec 256) : Nat := bits t 159 128
def tPitch (t : BitVec 256) : Nat := bits t 111 64
def tBase (t : BitVec 256) : Nat := bits t 63 0

/-! ## Where elements lie (R353) -/

/-- The byte offset of element (i, j) from BASE, and its bit within that byte; a shared-block element's block and its place in it. -/
def tElem (t : BitVec 256) (i j : Nat) : Nat × Nat :=
  if fmtIsSb (tFmt t) then
    let e := i * tPitch t + j
    (e / 16 * sbBytes (tFmt t), e % 16)
  else
    let b := (tEoff t + i * tPitch t + j) * fmtWidth (tFmt t)
    (b / 8, b % 8)

/-- The end of the tensor's bytes, from BASE: one past the last element's last byte. -/
def tExtent (t : BitVec 256) : Nat :=
  if fmtIsSb (tFmt t) then ((tRows t - 1) * tPitch t + tCols t - 1) / 16 * sbBytes (tFmt t) + sbBytes (tFmt t)
  else cdiv ((tEoff t + (tRows t - 1) * tPitch t + tCols t) * fmtWidth (tFmt t)) 8

/-- The checks of R354 on an entry with bit 192 set: the cause and the lowest bit of the offending field. -/
def tensorBad (t : BitVec 256) (spBytes : Nat) : Option (Cause × Nat) :=
  let fields : List (Nat × Bool) := [
    (112, bits t 127 112 != 0), (128, tCols t == 0), (160, tRows t == 0), (193, bits t 215 193 != 0), (221, decide (6 ≤ tLoc t)),
    (224, tEoff t != 0 && !(tEoff t == 1 && tFmt t == 1)), (228, tEdge t == 3), (230, tUepol t == 3), (232, bits t 239 232 != 0)]
  match fields.find? (·.2) with
  | some f => some (.tensorBad, f.1)
  | none =>
    if fmtIsSb (tFmt t) && tPitch t % 16 != 0 then some (.tensorAlign, 64)
    else if tRows t != 1 && decide (tPitch t < tCols t) then some (.pitchBad, 64)
    else if decide (tScale t < -512 ∨ 511 < tScale t) then some (.scaleRange, 240)
    else if tLoc t == 0 && decide (spBytes < tBase t + tExtent t) then some (.tensorSpace, 0)
    else none

/-- The stop an instruction that uses an entry makes: undefined or outside the places it may lie (cause bad), else the checks of R355. -/
def State.entryBad (s : State) (num : BitVec 6) (t : BitVec 256) (locs : List Nat) (bad : Cause) : Option Stop :=
  if !tValid t then some { cause := bad, info0 := zx64 num }
  else match tensorBad t s.jb.spBytes with
    | some (c, b) => some { cause := c, info0 := zx64 num, info1 := BitVec.ofNat 64 b }
    | none => if locs.contains (tLoc t) then none else some { cause := bad, info0 := zx64 num }

/-- Does the entry name a reserved format (R47, R354)? -/
def tFmtReserved (t : BitVec 256) : Bool := decide (0x0E ≤ (tFmt t).toNat)

/-- The checks of an entry at its use, a reserved format the last of them. -/
def State.useTensor (s : State) (num : BitVec 6) (t : BitVec 256) (locs : List Nat) (bad : Cause) : Option Stop :=
  match s.entryBad num t locs bad with
  | some e => some e
  | none => if tFmtReserved t then some { cause := .fmtBad } else none

/-! ## Transform specs (R356, R357) -/

def xsRstep (x : BitVec 128) : Int := (x.extractLsb' 96 32).toInt + 1
def xsCstep (x : BitVec 128) : Int := (x.extractLsb' 64 32).toInt + 1
def xsScale (x : BitVec 128) : Int := (x.extractLsb' 48 16).toInt
def xsSlot (x : BitVec 128) : Nat := bits x 47 41
def xsComp (x : BitVec 128) : Nat := bits x 40 39
def xsEdge (x : BitVec 128) : Nat := bits x 38 37
def xsRnd (x : BitVec 128) : Nat := bits x 36 34
def xsSat (x : BitVec 128) : Bool := x.getLsbD 33
def xsFin (x : BitVec 128) : Bool := x.getLsbD 32
def xsTrans (x : BitVec 128) : Bool := x.getLsbD 31

/-- The checks of R357 on a spec, in their order. -/
def xspecBad (x : BitVec 128) : Option Cause :=
  if bits x 30 0 != 0 || xsComp x == 3 || xsEdge x == 3 ||
      (if xsComp x = 0 then xsSlot x != 0 else decide (xsSlot x < 1 ∨ 65 < xsSlot x)) then some .xspecBad
  else if decide (xsScale x < -512 ∨ 511 < xsScale x) then some .scaleRange
  else if xsRnd x = 7 then some .fmtBad
  else none

/-! ## Message queues in a job's scratchpad (R320, R322) -/

def State.mq (s : State) (d : DieId) (c : CoreId) (q : Fin 4) : Mq := (s.core d c).mqs[q]
def State.updMq (s : State) (d : DieId) (c : CoreId) (q : Fin 4) (f : Mq → Mq) : State :=
  s.updCore d c fun x => { x with mqs := x.mqs.set q (f (x.mqs[q])) }

/-- Entries appended and not freed (R322). -/
def Mq.fill (m : Mq) : Nat := (m.tail - m.head).toNat

/-- The record of the job a queue is bound to, when that job is resident on its core (R322). -/
def State.mqOwner (s : State) (d : DieId) (c : CoreId) (m : Mq) : Option Nat :=
  let r := bits m.handle 7 0
  match s.job? d r with
  | some j => if handleOf j.gen j.idx = m.handle ∧ (j.home.map (·.1)) = some c ∧ (s.core d c).slots.any (· == some r) then some r else none
  | none => none

/-- The port looks at a HEAD value written into the header: it takes one that frees entries (R322). -/
def Mq.headWritten (m : Mq) (h : BitVec 32) : Mq :=
  let last := m.heads.getLast?.getD m.head
  if 0 < (h - last).toNat ∧ (h - last).toNat ≤ (m.tail - last).toNat then { m with heads := m.heads ++ [h] } else m

/-- Bytes written into the scratchpad of the job of record r on core c; a written HEAD of a queue of that core's bound to it is looked at as the
write lands (R322). -/
def State.padWrite (s : State) (d : DieId) (c : CoreId) (r : Nat) (off : Nat) (l : List (Byte × Bool)) : State :=
  let s := s.updJob d r fun j => j.spWrite off l
  (List.finRange 4).foldl (fun (s : State) q =>
    let m := s.mq d c q
    let h := m.offset.toNat + 4
    if m.valid && s.mqOwner d c m == some r && decide (off < h + 4 ∧ h < off + l.length) then
      match s.job? d r with
      | some j => s.updMq d c q fun m => m.headWritten (BitVec.ofNat 32 (leNat ((j.spRead h 4).map (·.1))))
      | none => s
    else s) s

/-! ## Elements in local memories -/

/-- Bytes of scratchpad or of the job's grove window with poison; none beyond the declared memory or the window (R219). -/
def State.localRead (s : State) (w : Who) (loc off n : Nat) : Option (List (Byte × Bool)) :=
  match w, s.jobOf? w with
  | .eng d c _ _, some j =>
    if loc = 0 then (if off + n ≤ j.spBytes then some (j.spRead off n) else none)
    else
      let win := s.window d j.asn
      if off + n ≤ win.2 then some ((s.grove d (groveOf c)).sramRead (win.1 + off) n) else none
  | _, _ => none

/-- Writes bytes of scratchpad or of the grove window. -/
def State.localWrite (s : State) (w : Who) (loc off : Nat) (l : List (Byte × Bool)) : Option State :=
  match w, s.jobOf? w with
  | .eng d c k _, some j =>
    if loc = 0 then (if off + l.length ≤ j.spBytes then (s.slotRec? d c k).map fun r => s.padWrite d c r off l else none)
    else
      let win := s.window d j.asn
      if off + l.length ≤ win.2 then some (s.updGrove d (groveOf c) fun g => g.sramWrite (win.1 + off) l) else none
  | _, _ => none

/-- Writes the nibble (hi: the upper one) of a byte. -/
def putNibble (old : Byte) (hi : Bool) (v : Nat) : Byte :=
  if hi then BitVec.ofNat 8 (old.toNat % 16 + 16 * (v % 16)) else BitVec.ofNat 8 (old.toNat / 16 * 16 + v % 16)

/-- An element's bits (a block's element: its block's bits and its place) and poison, read from a local tensor. -/
def State.elemLocal (s : State) (w : Who) (t : BitVec 256) (i j : Nat) : Option (Nat × Nat × Bool) :=
  let (off, b) := tElem t i j
  let n := if fmtIsSb (tFmt t) then sbBytes (tFmt t) else (fmtWidth (tFmt t) + 7) / 8
  match s.localRead w (tLoc t) (tBase t + off) n with
  | none => none
  | some l =>
    let v := leNat (l.map (·.1))
    some (if fmtIsSb (tFmt t) then v else v / 2 ^ b % 2 ^ fmtWidth (tFmt t), b, l.any (·.2))

/-- The value of such an element. -/
def elemVal (f : BitVec 5) (x b : Nat) : Val := if fmtIsSb f then sbValue f x b else fmtValue f x

end Sys2Proof.Machine
end

