-- ==== Sys2Proof/Machine/Queues.lean ====
section
/-! DEFINITION. Tokens, data-queue instructions, WAITV and TSREAD (spec/14_queues_engines.md R301-R313, R318, R319; spec/17_counters.md
R376-R378). -/

namespace Sys2Proof.Machine
open Sys2Proof

/-- The engine number of the current stream. -/
def State.eng (s : State) : Nat := whoNum s.cur

/-! ## Retention (R318, R319) -/

/-- Source bytes an MMA's retained pops of data queue q hold. -/
def Mma.heldDq (m : Mma) (j : Job) (q : Nat) : Nat :=
  let from_ (t : BitVec 256) (l : List (Byte × Bool)) : Nat :=
    if tLoc t = 5 ∧ tBase t = q then
      let c := j.qcfg q
      let (ub, pe) := unitOf (qSrc c)
      cdiv (sinkElems c l.length) pe * ub
    else 0
  from_ m.ta m.qa + from_ m.tb m.qb

/-- Entries an MMA's retained pops of the tile queue with a six-bit number hold. -/
def Mma.heldTq (m : Mma) (q : Nat) : Nat :=
  let from_ (t : BitVec 256) (n : Nat) : Nat := if tLoc t = 4 ∧ tBase t = q then n else 0
  from_ m.ta m.ea + from_ m.tb m.eb

/-- Forgets an MMA's retained pops of one queue. -/
def Mma.forget (m : Mma) (loc q : Nat) : Mma :=
  { m with
    qa := if tLoc m.ta = loc ∧ tBase m.ta = q then [] else m.qa
    qb := if tLoc m.tb = loc ∧ tBase m.tb = q then [] else m.qb
    ea := if loc = 4 ∧ tLoc m.ta = 4 ∧ tBase m.ta = q then 0 else m.ea
    eb := if loc = 4 ∧ tLoc m.tb = 4 ∧ tBase m.tb = q then 0 else m.eb }

/-- Did an MMA retain pops of a queue? -/
def Mma.keeps (m : Mma) (loc q : Nat) : Bool :=
  (tLoc m.ta == loc && tBase m.ta == q && m.qa != []) || (tLoc m.tb == loc && tBase m.tb == q && m.qb != [])

/-- A window loses its replay when it retained from the queue, and what it retained of it (R319). -/
def Window.lose (loc q : Nat) (w : Window) : Window :=
  if w.retained.any fun m => m.keeps loc q then { w with replayable := false, retained := w.retained.map fun m => m.forget loc q } else w

/-- Every window of the job that retained from a queue loses its replay. -/
def Job.loseReplay (j : Job) (loc q : Nat) : Job :=
  { j with tiles := j.tiles.map fun t => { t with win := t.win.map (Window.lose loc q) } }

/-- A push of n bytes to a data queue: room, or room once retained bytes are freed (R319). -/
def Job.dqRoom (j : Job) (q n : Nat) : Bool :=
  (j.dq q).fits (j.qcfg q) n || (decide (0 < (j.dq q).retained) && decide ((j.dq q).bytes.length + n ≤ qCap (j.qcfg q)))

/-- Frees what windows retain of a data queue, when a waiting push needs it. -/
def Job.dqMake (j : Job) (q n : Nat) : Job :=
  if (j.dq q).fits (j.qcfg q) n then j else (j.updDq q fun x => { x with retained := 0 }).loseReplay 5 q

/-- The six-bit number of a tile queue. -/
def QName.num : QName → Nat
  | .data q => q
  | .localTq q => q + 16
  | .groveTq q => q + 48

/-- The row of its die's understory that place i of a tile queue of the current stream lies in (R12; log 27). -/
def State.tqRow (s : State) (n : QName) (i : Nat) : Nat :=
  match n, s.cur with
  | .groveTq q, .eng _ c _ _ => groveTqRow (groveOf c) q i
  | _, _ => localTqRow s.jb.idx (n.num - 16) i

/-- Does an access of place i wait for a refresh, and an access of it (R363)? -/
def State.tqWaits (s : State) (n : QName) (i : Nat) : Bool := s.rowWaits (whoDie s.cur) (s.tqRow n i)
def State.tqTouch (s : State) (n : QName) (i : Nat) : State := s.restamp (whoDie s.cur) (s.tqRow n i)

/-- The entry a pop takes in this cycle. -/
def State.tqHead (s : State) (n : QName) (now : Nat) : Option TqEntry := if s.tqWaits n 0 then none else (s.tq n).head now

/-- The same for a tile queue. -/
def State.tqRoom (s : State) (n : QName) : Bool :=
  ((s.tq n).fits n || (decide (0 < (s.tq n).retained) && decide ((s.tq n).entries.length + (s.tq n).reserved < tqDepth n))) &&
    !s.tqWaits n (s.tq n).entries.length

/-- Frees what windows retain of a tile queue, when a waiting push needs it: windows of this job, and for a grove's queue of every job there. -/
def State.tqMake (s : State) (n : QName) : State :=
  if (s.tq n).fits n then s
  else
    let s := (s.updTq n fun x => { x with retained := 0 }).updJb fun j => j.loseReplay 4 n.num
    match n, s.cur with
    | .groveTq _, .eng d c _ _ =>
      let lose (j : Job) : Job := match j.home with
        | some h => if groveOf h.1 = groveOf c then j.loseReplay 4 n.num else j
        | none => j
      s.updDie d fun x => { x with recs := x.recs.map fun r => { r with job := r.job.map lose } }
    | _, _ => s

/-- A pop of a tile queue's head, and a push, as accesses of the understory (R363). -/
def State.tqPop (s : State) (n : QName) : State := (s.tqTouch n 0).updTq n TileQ.pop
def State.tqPush (s : State) (n : QName) (e : TqEntry) : State := (s.tqTouch n (s.tq n).entries.length).updTq n fun x => x.push e

/-! ## Pops keep program order (R307) -/

/-- Data queues a word in flight has still to pop (R145, R192, R247, R254, R324). -/
def Work.pops : Work → List Nat
  | .store q _ _ _ _ n done => if done = n then [] else [q.toNat]
  | .index op dq iq _ _ _ n done cur =>
    if done = n then [] else (if op = 0 then [] else [dq.toNat]) ++ if done + 1 = n && cur.isSome then [] else [iq.toNat]
  | .msend q _ n _ popped => if popped.length = n then [] else [q.toNat]
  | .mma m _ _ => if bits m.kr 63 32 = 0 then [] else (if tLoc m.ta = 5 then [tBase m.ta] else []) ++ (if tLoc m.tb = 5 then [tBase m.tb] else [])
  | .chain iq _ _ _ _ n rows _ row _ => if iq.toNat < 16 ∧ rows + row.toList.length < n then [iq.toNat] else []
  | _ => []

/-- Has no earlier word of the stream pops of the queue outstanding? -/
def Stream.popsClear (st : Stream) (before : Nat) (q : Nat) : Bool :=
  st.flights.all fun g => !decide (g.id < before) || !g.work.pops.contains q

/-! ## Tokens -/

/-- TKSEND: its tokens are added at its completion, the cycle after issue (R303). -/
def execTksend (h : Hdr) (eng : BitVec 3) (cnt : BitVec 4) (s : State) : Host.Outcome State Fault Refusal :=
  runWord (.tksend h eng cnt) h always (fun s =>
    match Engine.ofIdx eng.toNat with
    | some e => .ok (s.launchWord h.tks (some (s.now + 1)) [] (.tksend e cnt.toNat), .fall)
    | none => asNop h s) s

/-- TKWAIT: it pops its tokens at issue (R304). -/
def execTkwait (h : Hdr) (eng : BitVec 3) (cnt : BitVec 4) (s : State) : Host.Outcome State Fault Refusal :=
  runWord (.tkwait h eng cnt) h always (asNop h) s

/-! ## QPOP and QPUSH -/

/-- The checks of R306 and R312. -/
def State.qxCheck (s : State) (q : BitVec 4) (size : BitVec 3) (push : Bool) : Option Stop :=
  let c := s.jb.qcfg q.toNat
  match queueCheck c push s.eng with
  | some x => some { cause := x }
  | none =>
    let f := if push then qSrc c else qSnk c
    if f = 1 || fmtIsSb f || fmtWidth f != 8 * 2 ^ size.toNat then some { cause := .elemSize, info0 := zx64 q } else none

/-- QPOP waits for an element, unless it stops. -/
def qpopReady (q : BitVec 4) (size : BitVec 3) (s : State) : Bool :=
  (s.qxCheck q size false).isSome || s.str.popsClear s.str.nextId q.toNat && decide (1 ≤ (s.jb.dq q.toNat).ready (s.jb.qcfg q.toNat) s.now)

/-- QPOP (R309-R312); in A, of a queue A itself fills, a loss-of-decoupling event (R252). -/
def execQpop (h : Hdr) (g : Guard) (d : BitVec 5) (q : BitVec 4) (size : BitVec 3) (s : State) : Host.Outcome State Fault Refusal :=
  runGuarded (.qpop h g d q size) h g (qpopReady q size) (fun s =>
    match s.qxCheck q size false with
    | some st => .error st
    | none =>
      let c := s.jb.qcfg q.toNat
      let x := s.jb.dq q.toNat
      match x.badPop c 1 with
      | some e => .error { cause := e }
      | none =>
        let r := x.deliver c 1 s.rmode
        let s' := s.updJb fun j => j.updDq q.toNat fun y => y.remove c 1
        let s' := if s.eng = 1 ∧ qProd c = 1 then s'.updJb fun j => { j with lodev := min (j.lodev + 1) (2 ^ 32 - 1) } else s'
        results h 2 (.x d (placeX (qSnk c) (leNat (r.1.map (·.1)))) :: flagEff r.2) s') s

/-- QPUSH waits for room, unless it stops. -/
def qpushReady (q : BitVec 4) (size : BitVec 3) (s : State) : Bool :=
  (s.qxCheck q size true).isSome || s.jb.dqRoom q.toNat (2 ^ size.toNat)

/-- QPUSH: the element lands at issue + 1 (R312). -/
def execQpush (h : Hdr) (g : Guard) (r : BitVec 5) (q : BitVec 4) (size : BitVec 3) (s : State) : Host.Outcome State Fault Refusal :=
  runGuarded (.qpush h g r q size) h g (qpushReady q size) (fun s =>
    match s.qxCheck q size true with
    | some st => .error st
    | none =>
      let n := 2 ^ size.toNat
      let bs := (leBytes n (s.readX 0 r).toNat).map fun b => (b, false)
      asNop h (s.updJb fun j => (j.dqMake q.toNat n).updDq q.toNat fun y => y.push (s.now + 1) bs)) s

/-! ## WAITV and TSREAD -/

/-- What WAITV samples, or why it stops (R377). -/
def State.waitSource (s : State) (kind : BitVec 4) (index : BitVec 12) : Except Cause Nat :=
  let i := index.toNat
  if kind = 0 then
    if i < s.jb.kernel.chan then .ok (s.jb.chans[i]?.getD {}).wp else .error .queueCfg
  else if kind = 1 then .ok ((s.die (whoDie s.cur)).dcs.getD i {}).value.toNat
  else if kind = 2 then
    match s.cur with
    | .eng d c _ _ =>
      match (s.core d c).mqs[i]? with
      | some m => if m.valid && m.handle == handleOf s.jb.gen s.jb.idx then .ok (m.tail - m.head).toNat else .error .mqBad
      | none => .error .mqBad
    | .sys d =>
      match (s.die d).cores[i / 4]? with
      | some x => match x.mqs[i % 4]? with
        | some m => .ok (m.tail - m.head).toNat
        | none => .error .mqBad
      | none => .error .mqBad
  else
    match s.cur, Engine.ofIdx i with
    | .eng _ _ _ e, some x => if x = e then .error .queueCfg else .ok (s.jb.tokCount x e s.now)
    | _, _ => .error .queueCfg

/-- The unsigned comparison of R85: 0 GE, 1 EQ, 2 LE, 3 NE. -/
def waitCond (cond : BitVec 2) (v x : Nat) : Bool :=
  if cond = 0 then decide (x ≤ v) else if cond = 1 then v == x else if cond = 2 then decide (v ≤ x) else v != x

/-- WAITV's operand, read afresh in each cycle (R377). -/
def State.waitArg (s : State) (mode : Bool) (arg : BitVec 17) : Nat := if mode then (s.readX 0 (arg.extractLsb' 0 5)).toNat else arg.toNat

/-- WAITV issues in the first cycle whose sample meets the condition. -/
def waitReady (kind : BitVec 4) (index : BitVec 12) (cond : BitVec 2) (mode : Bool) (arg : BitVec 17) (s : State) : Bool :=
  match s.waitSource kind index with
  | .error _ => true
  | .ok v => waitCond cond v (s.waitArg mode arg)

/-- The acquire of a WAITV that is met: of a channel's bytes, of a counter, of a message; kind 3 acquires nothing (R273). -/
def State.acquireMet (s : State) (kind : BitVec 4) : State :=
  if kind = 0 then s.acquireL1 s.cur else if kind = 1 ∨ kind = 2 then s.acquire s.cur else s

/-- WAITV (R376, R377): an acquire, whose pair's writes were acknowledged before the sampled value stood (R273). -/
def execWaitv (h : Hdr) (kind : BitVec 4) (index : BitVec 12) (cond : BitVec 2) (mode : Bool) (arg : BitVec 17) (s : State) :
    Host.Outcome State Fault Refusal :=
  runWord (.waitv h kind index cond mode arg) h (waitReady kind index cond mode arg) (fun s =>
    match s.waitSource kind index with
    | .error c => .error { cause := c }
    | .ok _ => asNop h (s.acquireMet kind)) s

/-- TSREAD (R378). -/
def execTsread (h : Hdr) (g : Guard) (d : BitVec 5) (s : State) : Host.Outcome State Fault Refusal :=
  runGuarded (.tsread h g d) h g always (fun s => results h 2 [.x d (s.tsc (whoDie s.cur))] s) s

end Sys2Proof.Machine
end

