-- ==== Sys2Proof/Machine/Csr.lean ====
section
/-! DEFINITION. Control and status registers: access, values refused, CSRR, CSRW, CSRX (spec/09_registers_control.md R195-R199). -/

namespace Sys2Proof.Machine
open Sys2Proof

/-- What a stream may do with a register (R195). -/
inductive CsrAccess where
  | none | read | write
  deriving DecidableEq, Repr

/-- The access table of R195. -/
def csrAccess (e : Issuer) (n : Nat) : CsrAccess :=
  match e with
  | .eng e =>
    if n = 0 ∨ n = 1 then .write
    else if n = 0x010 ∨ n = 0x011 then (if e = .c then .write else .read)
    else if (0x012 ≤ n ∧ n ≤ 0x015) ∨ (0x018 ≤ n ∧ n ≤ 0x01C) then .read
    else .none
  | .sys =>
    if n = 0 ∨ n = 1 ∨ (0x018 ≤ n ∧ n ≤ 0x01C) ∨ (0x100 ≤ n ∧ n ≤ 0x106) ∨ n = 0x108 ∨ n = 0x109 then .write
    else if n = 0x014 ∨ (0x10A ≤ n ∧ n ≤ 0x10D) then .read
    else .none

/-- Values a field refuses (R198). -/
def csrRefuses (n : Nat) (v : Word) : Bool :=
  if n = 1 then decide (6 ≤ bits v 2 0)
  else if n = 0x011 then !tolOk (v.extractLsb' 0 32)
  else if n = 0x100 then decide (bits v 1 0 = 3)
  else if n = 0x101 then decide (9 ≤ bits v 3 0)
  else if n = 0x103 then decide (33 ≤ bits v 5 0)
  else if n = 0x105 then decide (bits v 3 0 = 0)
  else false

/-- A value with its reserved bits cleared (R198, R199). -/
def csrClean (n : Nat) (v : Word) : Word :=
  let keep (k : Nat) : Word := BitVec.ofNat 64 (v.toNat % 2 ^ k)
  if n = 0 then keep 5 else if n = 1 then keep 3 else if n = 0x010 then keep 1 else if n = 0x011 then keep 32
  else if n = 0x012 ∨ n = 0x013 then keep 24
  else if n = 0x100 then keep 2 else if n = 0x101 then keep 4 else if n = 0x102 then keep 32 else if n = 0x103 then keep 6
  else if n = 0x104 then keep 8 else if n = 0x105 then keep 4 else if n = 0x106 then keep 10 else if n = 0x109 then keep 1
  else if n = 0x018 then keep 8 else if n = 0x019 then keep 3 else v

/-- JOBINFO (R198). -/
def Job.info (j : Job) : Word :=
  let core := match j.home with
    | some h => h.1.val
    | none => 0
  BitVec.ofNat 8 core ++ (0 : BitVec 5) ++ BitVec.ofNat 3 j.prio ++ (0 : BitVec 16) ++ handleOf j.gen j.idx

/-- A slot register 0x010-0x01C of a job on die d (R195, R198). -/
def Job.slotReg (j : Job) (d : DieId) (n : Nat) : Word :=
  if n = 0x010 then zx64 (BitVec.ofBool j.accctl)
  else if n = 0x011 then zx64 j.abfttol
  else if n = 0x012 then zx64 j.llcq
  else if n = 0x013 then zx64 j.ubres
  else if n = 0x014 then j.cyc
  else if n = 0x015 then j.info + BitVec.ofNat 64 (64 * d.val * 2 ^ 56)
  else if n = 0x018 then zx64 j.trapCause
  else if n = 0x019 then zx64 j.trapStream
  else if n = 0x01A then j.trapPc
  else if n = 0x01B then j.trapInfo0
  else if n = 0x01C then j.trapInfo1
  else 0

/-- A register of a die or its system core (R195). -/
def Die.reg (x : Die) (n : Nat) : Word :=
  if n = 0x014 then x.sys.cyc
  else if n = 0x018 then zx64 x.sys.trapCause
  else if n = 0x019 then zx64 x.sys.trapStream
  else if n = 0x01A then x.sys.trapPc
  else if n = 0x01B then x.sys.trapInfo0
  else if n = 0x01C then x.sys.trapInfo1
  else if n = 0x100 then zx64 x.dispthr
  else if n = 0x101 then zx64 x.preemptd
  else if n = 0x102 then zx64 x.wdog
  else if n = 0x103 then zx64 x.audfrac
  else if n = 0x104 then zx64 x.drpthr
  else if n = 0x105 then zx64 x.drpstr
  else if n = 0x106 then zx64 x.drpthrot
  else if n = 0x108 then x.sys.svec
  else if n = 0x109 then zx64 (BitVec.ofBool x.sys.intrap)
  else if n = 0x10A then x.evq.headD 0
  else if n = 0x10B then BitVec.ofNat 64 x.evq.length
  else if n = 0x10C then zx64 x.sys.jobstat
  else if n = 0x10D then zx64 x.lockstat
  else 0

/-- FSTAT as this word sees it (R112, R197): a landed or an unlanded value, and of the flags still to land any. -/
def State.fstatSeen (s : State) : Word :=
  let base := s.choose 63 0 (shadow s.now (zx64 s.str.fstat) s.str.flights fun
    | .csr n v => if n = 0 then some v else none
    | .fstatX _ v => some v
    | _ => none)
  s.str.flights.foldl (fun v f => f.effs.foldl (fun v e => match e with
    | .flags k => if f.landed s.now || Config.freeNat s.free (200 + f.id) % 2 == 1 then v ||| zx64 k else v
    | _ => v) v) base

/-- A control register's value at issue. JOBSTAT has no shadow: its writes are not CSR writes (R214). -/
def State.csrValue (s : State) (n : BitVec 12) : Word :=
  if n = 0 then s.fstatSeen
  else if n = 1 then zx64 s.rmode
  else match s.cur with
    | .eng d .. =>
      let v := s.jb.slotReg d n.toNat
      if n = 0x010 ∨ n = 0x011 then s.slotCsr 64 n v else v
    | .sys d => if n = 0x10C then zx64 (s.sysc d).jobstat else s.choose 64 0 (shadow s.now ((s.die d).reg n.toNat) s.str.flights fun
      | .csr m v => if m = n then some v else none
      | _ => none)

/-- CSRR, CSRW and CSRX (R199): rd the destination of a read, wr the source of a write. A lock comes before the value's check
(log 128). -/
def csrBody (h : Hdr) (rd wr : Option (BitVec 5)) (n : BitVec 12) : Body := fun s =>
  let no := n.toNat
  let acc := csrAccess s.cur.issuer no
  let v : Word := match wr with
    | some r => s.readX 0 r
    | none => 0
  if acc = .none then .error { cause := .csrBad, info0 := zx64 n }
  else if wr.isSome ∧ acc = .read then .error { cause := .csrRo, info0 := zx64 n, info1 := v }
  else if wr.isSome ∧ 0x104 ≤ no ∧ no ≤ 0x106 ∧ (s.die (whoDie s.cur)).lockstat.getLsbD 3 then .error { cause := .locked }
  else if wr.isSome ∧ csrRefuses no v then .error { cause := .csrBad, info0 := zx64 n, info1 := v }
  else
    let old := s.csrValue n
    let s' := match s.cur, rd with
      | .sys d, some _ => if no = 0x10A then (s.popEvent d).2 else s
      | _, _ => s
    let e1 := match rd with
      | some d => [Eff.x d old]
      | none => []
    let e2 := match wr with
      | some _ => if no = 0 ∧ rd.isSome then [Eff.fstatX s.now (csrClean no v)] else [Eff.csr n (if no = 0x011 ∧ v.extractLsb' 0 32 = 0x80000000 then 0 else csrClean no v)]
      | none => []
    .ok (s'.launchWord h.tks (some (s.now + 2)) (e1 ++ e2) .fixed, .fall)

/-- CSRR (R199). -/
def execCsrr (h : Hdr) (g : Guard) (d : BitVec 5) (csrn : BitVec 12) (s : State) : Host.Outcome State Fault Refusal :=
  runGuarded (.csrr h g d csrn) h g always (csrBody h (some d) none csrn) s

/-- CSRW (R199). -/
def execCsrw (h : Hdr) (g : Guard) (r : BitVec 5) (csrn : BitVec 12) (s : State) : Host.Outcome State Fault Refusal :=
  runGuarded (.csrw h g r csrn) h g always (csrBody h none (some r) csrn) s

/-- CSRX (R199). -/
def execCsrx (h : Hdr) (g : Guard) (d r : BitVec 5) (csrn : BitVec 12) (s : State) : Host.Outcome State Fault Refusal :=
  runGuarded (.csrx h g d r csrn) h g always (csrBody h (some d) (some r) csrn) s

/-- EVTHEAD_READ (R211): the oldest event is returned and removed. -/
def execEvtheadRead (d : DieId) (s : State) : Host.Outcome State Fault Refusal := .next (s.popEvent d).2

end Sys2Proof.Machine
end

