-- ==== Sys2Proof/Machine/Remote.lean ====
section
/-! DEFINITION. Leaving the package: routes, keys, dead targets, and the notices of an access that is not served (spec/10_memories_spaces.md
R239, R240, spec/16_tables.md R364, R365, spec/19_links.md R404, R406). -/

namespace Sys2Proof.Machine
open Sys2Proof

/-- Is a target package dead for a mapping made for an incarnation (R239, R240)? -/
def State.targetDead (s : State) (pkg : BitVec 13) (incarn : BitVec 16) : Bool :=
  s.deadPkgs.any fun p => p.1 == pkg && (match p.2 with
    | none => true
    | some i => i != incarn)

/-- Why an access does not leave the package. -/
inductive EgressFail where
  | partition | unreachable
  deriving DecidableEq, Repr

/-- The port a packet leaves by (R364): DPORT, or for ADP any up port of DPORT and AMASK (free value, log 3). -/
def State.egressPort (s : State) (d : DieId) (pkg : BitVec 13) (adp : Bool) : Option (Fin 16) :=
  let e := (s.die d).routes.getD pkg.toNat 0
  if !e.getLsbD 63 then none
  else
    let dport := bits e 19 16
    let up (p : Fin 16) : Bool := !s.linkDown.getLsbD p.val && s.live (Fin.ofNat 4 (p.val / 4))
    let l := (List.finRange 16).filter fun p => up p && (p.val == dport || (adp && e.getLsbD p.val))
    l[Config.freeNat s.free 90 % max 1 l.length]?

/-- Bytes a packet carries as data. -/
def packetData : PacketBody → Nat
  | .store _ data _ => data.length
  | .append _ _ _ _ _ entry => entry.length
  | _ => 0

/-- A packet with key slot k leaves by port p, at once or when the rate of die d's replica of EGRATE lets it: the packets before it have had their
time, and an ORD packet stays behind those to its package (R364, R413; log 118). -/
def State.leave (s : State) (d : DieId) (p : Fin 16) (k : Nat) (pkg : BitVec 13) (adp : Bool) (q : Packet) : State :=
  let g : DieId := Fin.ofNat 4 (p.val / 4)
  let i := 16 * p.val + k
  let rate := bits ((s.die d).egrate.getD i 0) 15 0
  let behind := (s.departing.filter fun x => !adp && x.ord && x.pkg == pkg).foldl (fun t x => max t x.due) 0
  let start := max behind (if rate = 0 then 0 else (s.die g).egressBusy.getD i 0)
  let s := if rate = 0 then s else
    let cost := cdiv (nsUnits * (packetData q.body + Config.packetHeader)) rate
    s.updDie g fun x => { x with egressBusy := x.egressBusy.put i (max start s.time + cost) }
  if start ≤ s.time then { s with outbox := s.outbox ++ [Out.packet p pkg q] }
  else { s with departing := s.departing ++ [{ due := start, ord := !adp, port := p, pkg := pkg, packet := q }] }

/-- Sends a packet from die d (R365, R406): same domain unless it is a message, a route, a valid key slot at the port. -/
def State.egress (s : State) (d : DieId) (pkg : BitVec 13) (pksel : Nat) (adp message : Bool) (incarn : BitVec 16) (body : PacketBody) :
    Except EgressFail State :=
  if !message && pkg.extractLsb' 10 3 != s.packageId.extractLsb' 10 3 then .error .partition
  else match s.egressPort d pkg adp with
    | none => .error .unreachable
    | some p =>
      let k := (s.die d).keys.getD (16 * p.val + pksel) 0
      if !k.getLsbD 63 then .error .partition
      else
        let q : Packet := { src := s.packageId, key := k.extractLsb' 0 16, incarn := incarn, body := body }
        .ok ((s.leave d p pksel pkg adp q).count (Fin.ofNat 4 (p.val / 4)) (0x100 + 0x40 * (p.val % 4)) 1)

/-- Do new ORD packets from die d to a package wait, because its route changed while earlier ones are out (R367)? -/
def State.ordWait (s : State) (d : DieId) (pkg : BitVec 13) : Bool :=
  (s.die d).rerouted.contains pkg && s.remoteOut.any fun o => o.die == d && o.pkg == pkg && o.ord

/-- Notes a packet that its target has to acknowledge (R269, R367). -/
def State.sendOut (s : State) (d : DieId) (r : Nat) (wid : WriteId) (pkg : BitVec 13) (incarn : BitVec 16) (ord : Bool)
    (write : Bool := true) (app : Option Appended := none) : State :=
  { s with
    remoteOut := s.remoteOut ++ [{ pkg := pkg, die := d, jrec := r, wid := wid, incarn := incarn, ord := ord, n := s.outSeq, write := write, app := app }]
    outSeq := s.outSeq + 1 }

/-- The packets a test picks are acknowledged: a package whose earlier ORD packets are all over takes new ones by its new route (R367). -/
def State.ackOut (s : State) (d : DieId) (acked : RemoteOut → Bool) : State :=
  let left := s.remoteOut.filter fun o => !acked o
  { s with remoteOut := left }.updDie d fun x => { x with rerouted := x.rerouted.filter fun p => left.any fun o => o.die == d && o.pkg == p && o.ord }

/-! ## Targets of messages (R321) -/

def tgtCore (t : Word) : Nat := bits t 15 0
def tgtMq (t : Word) : Fin 4 := Fin.ofNat 4 (bits t 17 16)
def tgtPkg (t : Word) : BitVec 13 := t.extractLsb' 18 13
/-- Does the target lie in another package? A REMOTE target that names this one is this one. -/
def State.tgtAway (s : State) (t : Word) : Bool := t.getLsbD 31 && tgtPkg t != s.packageId
/-- A target as credit tables and ports name it: the same whether or not REMOTE names this package. -/
def State.tgtName (s : State) (t : Word) : Word := if s.tgtAway t then t else (t.extractLsb' 0 18).zeroExtend 64
def tgtDie (t : Word) : DieId := Fin.ofNat 4 (tgtCore t / 64)
def tgtCid (t : Word) : CoreId := Fin.ofNat 64 (tgtCore t % 64)

/-- Reports an access the target does not serve, of a job's record or of none (R240): a read, or a dropped write with its count; the notice once per
job, target and incarnation. -/
def State.goneOf (s : State) (d : DieId) (r : Option Nat) (pkg : BitVec 13) (incarn : BitVec 16) (drop : Bool) : State :=
  let s := if drop then s.count d 0x040 1 else s
  let cause := if drop then Cause.remoteDrop else Cause.remoteGone
  match r.bind fun r => (s.job? d r).map fun j => (r, j) with
  | some (r, j) =>
    if j.gone.contains (pkg, incarn, drop) then s
    else (s.updJob d r fun j => { j with gone := (pkg, incarn, drop) :: j.gone }).notice d cause ((j.home.map (·.1.val)).getD 0xFF) (handleOf j.gen j.idx)
  | none => s.notice d cause 0xFF 0

/-- The same for an access by a stream. -/
def State.gone (s : State) (w : Who) (pkg : BitVec 13) (incarn : BitVec 16) (drop : Bool) : State :=
  s.goneOf (whoDie w) (match w with
    | .eng d c k _ => s.slotRec? d c k
    | .sys _ => none) pkg incarn drop

end Sys2Proof.Machine
end

