-- ==== Sys2Proof/Machine/Access.lean ====
section
/-! DEFINITION. How accesses of memory are performed: reads and writes by virtual address, what holds them, atomics, caches' upkeep
(spec/11_memories_access.md, spec/12_memories_ordering.md R268-R275, spec/10_memories_spaces.md R223-R236). -/

namespace Sys2Proof.Machine
open Sys2Proof

/-- The record index of a stream's job. -/
def State.recOf (s : State) (w : Who) : Nat :=
  match w with
  | .eng d c k _ => (s.slotRec? d c k).getD 0
  | .sys _ => 0

/-- The core of a stream, for its TLB and L1. -/
def whoCore : Who → Option CoreId
  | .eng _ c _ _ => some c
  | .sys _ => none

/-- The core whose L1 a stream's accesses go through: A's alone (R244). -/
def whoL1 : Who → Option CoreId
  | .eng _ c _ .a => some c
  | _ => none

/-- The address space a stream's accesses are in (R220). -/
def State.asnOf (s : State) (w : Who) : BitVec 8 := ((s.jobOf? w).getD {}).asn

/-- The buffer of a virtual address. -/
def bufOf (va : Nat) : BitVec 12 := BitVec.ofNat 12 (va / 2 ^ 52)

/-! ## Per-buffer counters (R381) -/

/-- The entry a buffer is counted in: its own, the next free one, or the overflow entry 64 (here numbered by buffer 0xFFF). -/
def Job.touchBuf (j : Job) (b : BitVec 12) (f : BufCount → BufCount) : Job :=
  if j.bufs.any fun e => e.buf == b then { j with bufs := j.bufs.map fun e => if e.buf = b then f e else e }
  else if (j.bufs.filter fun e => e.buf != 0xFFF).length < 64 then { j with bufs := j.bufs ++ [f { buf := b }] }
  else if j.bufs.any fun e => e.buf == 0xFFF then { j with bufs := j.bufs.map fun e => if e.buf = 0xFFF then f e else e }
  else { j with bufs := j.bufs ++ [f { buf := 0xFFF }] }

def Job.busy (j : Job) (b : BitVec 12) : Job := j.touchBuf b fun e => { e with busy := e.busy + 1 }
def Job.idle (j : Job) (b : BitVec 12) : Job := j.touchBuf b fun e => { e with busy := e.busy - 1 }
def Job.moved (j : Job) (b : BitVec 12) (n : Nat) : Job := j.touchBuf b fun e => { e with bytes := (e.bytes + n) % 2 ^ 48 }

/-- The BUSY count MIGRATE and SEGSET wait for (R381). -/
def Job.busyOf (j : Job) (b : BitVec 12) : Nat :=
  match j.bufs.find? fun e => e.buf == b with
  | some e => e.busy
  | none => ((j.bufs.find? fun e => e.buf == 0xFFF).map (·.busy)).getD 0

/-- The buffer a word in flight touches. -/
def Work.buf? : Work → Option (BitVec 12)
  | .ldx va .. => some (bufOf va.toNat)
  | .stx va .. => some (bufOf va.toNat)
  | .atomic _ va .. => some (bufOf va.toNat)
  | .load _ va .. => some (bufOf va.toNat)
  | .store _ va .. => some (bufOf va.toNat)
  | .index _ _ _ t .. => some (bufOf (tBase t))
  | .wback _ va .. => some (bufOf va.toNat)
  | .ubdisc va .. => some (bufOf va.toNat)
  | .probe va len .. => if len = 0 then none else some (bufOf va.toNat)
  | .lock _ va len _ => if len = 0 then none else some (bufOf va.toNat)
  | _ => none

/-- The address a word in flight begins at, which its issue translates (R243). -/
def Work.va? : Work → Option Word
  | .ldx va .. | .stx va .. | .atomic _ va .. | .load _ va .. | .store _ va .. | .wback _ va .. | .ubdisc va .. => some va
  | _ => none

/-- The TLB entry of a core that covers an address of the stream's address space. -/
def State.tlbOf (s : State) (w : Who) (va : Nat) : Option TlbEntry :=
  (whoCore w).bind fun c => (s.core (whoDie w) c).tlb.find? fun t => t.covers (s.asnOf w) (bufOf va) (va % 2 ^ 52)

/-- Is a buffer of the stream's address space held by MIGRATE or SEGSET (R238, R359)? -/
def State.bufHeld (s : State) (w : Who) (va : Nat) : Bool := s.held.contains (s.asnOf w, bufOf va)

/-- Does an ORD access of a REMOTE buffer wait at egress (R367)? -/
def State.ordHeld (s : State) (w : Who) (b : BitVec 12) : Bool :=
  let e := s.seg (whoDie w) (s.asnOf w) b
  segKind e == 2 && !segAdp e && s.ordWait (whoDie w) (segTarget e)

/-- Is any of some buffers held? -/
def State.bufHeldAny (s : State) (w : Who) (bs : List (BitVec 12)) : Bool := bs.any fun b => s.held.contains (s.asnOf w, b) || s.ordHeld w b

/-- Completes an access: its busy count falls. -/
def State.completeAccess (s : State) (w : Who) (f : Flight) : State :=
  match f.work.buf? with
  | some b => (s.updJobOf w fun j => j.idle b).complete w f
  | none => s.complete w f

/-! ## Reading and writing by virtual address -/

/-- The outcome of an attempt to move bytes. -/
inductive Moved (α : Type) where
  | ok (a : α) (s : State)
  /-- bytes of another package are needed and were not given -/
  | wait
  /-- a stop, with the state the bytes moved before it left -/
  | stop (st : Stop) (s : State)

/-- Bytes of a packet that answers a read of one line: the line and a byte that is not zero where the data is poisoned. -/
def replyBytes : Nat := 129

/-- The latency of a load of another package's memory, as it ends (R384): a free value (log 51). -/
def State.sampleLoad (s : State) (w : Who) (va : Nat) : State :=
  match w with
  | .eng d c _ _ => if segKind (s.seg d (s.asnOf w) (bufOf va)) = 2 then s.sample d 0 c.val (Config.freeNat s.free (2 ^ 26 + va)) else s
  | .sys _ => s

/-- The latency of an access that misses the die cache: of its line neither the home nor the accessing die holds the bytes (R384): a free value
(log 51). -/
def State.sampleMiss (s : State) (w : Who) (p : Place) : State :=
  match w, p with
  | .eng d c _ _, .line key _ home swm _ _ =>
    if (s.masters.get? key).isSome || (swm && decide (d ≠ home) && ((s.die d).copies.get? key).isSome) then s
    else s.sample d 3 c.val (Config.freeNat s.free (2 ^ 28 + key))
  | _, _ => s

/-- The line of a REMOTE piece and its mark, as another package answers: the bytes it gives, poison where it does not serve the access, or the stop
where its partition check refused it (R239, R240, R259, R365). -/
def State.remoteLine (s : State) (w : Who) (va : Nat) (pkg : BitVec 13) (incarn : BitVec 16) (a pksel : Nat) (adp : Bool) (got : Option (List Byte)) :
    Moved (Option (List Byte × Bool)) :=
  if s.targetDead pkg incarn then .ok none (s.gone w pkg incarn false)
  else match s.egress (whoDie w) pkg pksel adp false incarn (.load (a / 128 * 128) 128) with
    | .error .partition => .stop { cause := .partition, info0 := BitVec.ofNat 64 va } s
    | .error .unreachable => .ok none (s.gone w pkg incarn false)
    | .ok s' =>
      match got with
      | none => .wait
      | some l =>
        if l.length = 1 then .stop { cause := .partition, info0 := BitVec.ofNat 64 va } s'
        else if l.length < 128 then .ok none (s'.gone w pkg incarn false)
        else .ok (some (l.take 128, l.getD 128 0 != 0)) s'

/-- A read of one line piece by a stream (R223, R244, R231, R239, R240). `got` supplies the whole line of a REMOTE piece that is not in
the L1; empty where the target does not serve it, one byte where its partition check refused it. -/
def State.readPiece (s : State) (w : Who) (va n : Nat) (fill : Bool) (got : Option (List Byte)) (pre : Option TlbEntry := none) :
    Moved (List (Byte × Bool)) :=
  let d := whoDie w
  let asn := s.asnOf w
  match s.translate d (whoCore w) asn va n false pre with
  | .error f => .stop { cause := f.cause, info0 := BitVec.ofNat 64 va } s
  | .ok (p, s) =>
    let flag (l : List Byte) (q : Bool) : List (Byte × Bool) := l.map fun b => (b, q)
    if s.isLost p then .stop { cause := .ubLost, info0 := BitVec.ofNat 64 va } s
    else match p, whoL1 w with
      | .dead, _ => .ok (flag (List.replicate n 0) true) (s.gone w 0 0 false)
      | .line .., some c =>
        let hit := (p.l1Key.bind fun k => s.l1Find d c k.1).isSome
        let r := (if hit then s else s.sampleMiss w p).loadL1 d c asn p n fill
        .ok (flag r.1 r.2.1) (if hit then r.2.2 else r.2.2.touchRow d p)
      | .line .., none => let r := s.readPlace d p n; .ok (flag r.1 r.2) (((s.sampleMiss w p).touchCopy d asn p).touchRow d p)
      | .remote pkg incarn a pksel adp poi, co =>
        let hit : Option L1Line := match co, p.l1Key with
          | some c, some (k, _) => s.l1Find d c k
          | _, _ => none
        match hit with
        | some l => .ok (flag (bytesOf l.data (a % 128) n) l.poison) s
        | none =>
          match s.remoteLine w va pkg incarn a pksel adp got with
          | .wait => .wait
          | .stop st s => .stop st s
          | .ok none s => .ok (flag (List.replicate n 0) true) s
          | .ok (some (l, mark)) s =>
            let s := match co, p.l1Key with
              | some c, some (k, _) =>
                let s := s.updCore d c fun x => x.staleFills k
                if fill then s.l1Fill d c k (lineOf l) (mark || poi) else s
              | _, _ => s
            .ok (flag ((l.drop (a % 128)).take n) (mark || poi)) s

/-- The byte a write changes a part of, as it stands where the write lands: translated as the write, past the L1 (R223, R253, R328). -/
def State.oldByte (s : State) (w : Who) (va : Nat) (got : Option (List Byte)) : Moved Byte :=
  match s.translate (whoDie w) (whoCore w) (s.asnOf w) va 1 true with
  | .error f => .stop { cause := f.cause, info0 := BitVec.ofNat 64 va } s
  | .ok (p, s) =>
    if s.isLost p then .stop { cause := .ubLost, info0 := BitVec.ofNat 64 va } s
    else match p with
      | .dead => .ok 0 s
      | .line .. => .ok ((s.readPlace (whoDie w) p 1).1.headD 0) s
      | .remote pkg incarn a pksel adp _ =>
        match s.remoteLine w va pkg incarn a pksel adp got with
        | .wait => .wait
        | .stop st s => .stop st s
        | .ok l s => .ok ((l.map fun x => x.1.getD (a % 128) 0).getD 0) s

/-- A read of n bytes, piece by piece in address order, with the bytes that came before a stop; `got` is shared out in answers of whole lines. -/
def State.readRun (s : State) (w : Who) (va n : Nat) (fill : Bool) (got : Option (List Byte)) : List (Byte × Bool) × Moved Unit :=
  let r := (pieces va n).foldl (fun (m : List (Byte × Bool) × Option (List Byte) × Moved Unit) p =>
    match m with
    | (acc, g, .ok _ s) =>
      match s.readPiece w p.1 p.2 fill (if g = some [] ∧ got ≠ some [] then none else g) with
      | .ok l s' => (acc ++ l, g.map fun x => x.drop replyBytes, .ok () s')
      | .wait => (acc, g, .wait)
      | .stop st s' => (acc, g, .stop st s')
    | m => m) (([] : List (Byte × Bool)), got, .ok () s)
  (r.1, r.2.2)

/-- A read of n bytes. -/
def State.readVa (s : State) (w : Who) (va n : Nat) (fill : Bool) (got : Option (List Byte)) : Moved (List (Byte × Bool)) :=
  match s.readRun w va n fill got with
  | (l, .ok _ s) => .ok l s
  | (_, .wait) => .wait
  | (_, .stop st s) => .stop st s

/-- A write of one line piece by a stream (R223, R232, R244, R239, R240). -/
def State.writePiece (s : State) (w : Who) (id : Nat) (va : Nat) (l : List (Byte × Bool)) (pre : Option TlbEntry := none) :
    Except (Stop × State) State :=
  let d := whoDie w
  let asn := s.asnOf w
  let data := l.map (·.1)
  let poison := l.any (·.2)
  let r := s.recOf w
  match s.translate d (whoCore w) asn va l.length true pre with
  | .error f => .error ({ cause := f.cause, info0 := BitVec.ofNat 64 va }, s)
  | .ok (.dead, s) => .ok (s.gone w 0 0 true)
  | .ok (.remote pkg incarn a pksel adp poi, s) =>
    if s.targetDead pkg incarn then .ok (s.gone w pkg incarn true)
    else match s.egress d pkg pksel adp false incarn (.store a data poison) with
      | .error .partition => .error ({ cause := .partition, info0 := BitVec.ofNat 64 va }, s)
      | .error .unreachable => .ok (s.gone w pkg incarn true)
      | .ok s =>
        let s := s.sendOut d r (whoNum w, id) pkg incarn (!adp)
        .ok (match whoL1 w with
          | some c => s.storeL1 d c (.remote pkg incarn a pksel adp poi) data poison
          | none => s)
  | .ok (q@(.line ..), _) =>
    match (s.sampleMiss w q).storePiece d (whoCore w) (some (d.val, r)) asn va data poison pre with
    | .error st => .error (st, s)
    | .ok (p, q) =>
      let s := match whoL1 w with
        | some c => p.storeL1 d c q data poison
        | none => p
      .ok (s.touchRow d q)

/-- A write of bytes, piece by piece in address order: what was written before a stop stays (R243). -/
def State.writeVa (s : State) (w : Who) (id va : Nat) (l : List (Byte × Bool)) (pre : Option TlbEntry := none) : Except (Stop × State) State :=
  ((pieces va l.length).foldl (fun (m : Except (Stop × State) (State × List (Byte × Bool))) p =>
    match m with
    | .ok (s, rest) =>
      match s.writePiece w id p.1 (rest.take p.2) pre with
      | .ok s' => .ok (s', rest.drop p.2)
      | .error e => .error e
    | .error e => .error e) (Except.ok (s, l))).map (·.1)

/-! ## What holds an access (R250, R251, R268, R271) -/

/-- A table row's first byte and bit (R253). -/
def rowStart (t : BitVec 256) (idx : Nat) : Nat × Nat :=
  let p := tElem t idx 0
  ((tBase t + p.1) % 2 ^ 64, if fmtIsSb (tFmt t) then 0 else p.2)

/-- The bytes of a table row: its first, and how many it touches. -/
def rowRange (t : BitVec 256) (idx : Nat) : Nat × Nat :=
  ((rowStart t idx).1, fmtBytes (tFmt t) (tCols t) + if (rowStart t idx).2 = 0 then 0 else 1)

/-- Byte ranges a word in flight has still to write: its footprint (R251). Once SCATTER or SCADD has popped its last index, that is the index's
row. -/
def Work.footprint : Work → List (Nat × Nat)
  | .stx va data => [(va.toNat, data.length)]
  | .atomic _ va size _ _ _ _ => [(va.toNat, 2 ^ size.toNat)]
  | .store _ va bpr rows stride n done =>
    if done = n then []
    else if rows.toNat ≤ 1 then [(va.toNat, bpr.toNat)]
    else
      let last : Int := (va.toNat : Int) + ((rows.toNat : Int) - 1) * stride.toInt
      let lo := min (va.toNat : Int) last
      let hi := max (va.toNat : Int) last
      [(lo.toNat, (hi - lo).toNat + bpr.toNat)]
  | .index op _ _ t _ _ n done cur =>
    if op = 0 ∨ done = n then []
    else match (if done + 1 = n then cur else none) with
      | some c => if tRows t ≤ c.idx then [] else [rowRange t c.idx]
      | none => [(tBase t, tExtent t)]
  | _ => []

/-- Do two byte ranges meet, addresses taken modulo 2^64? -/
def rangesMeet (a b : Nat × Nat) : Bool :=
  let m := 2 ^ 64
  decide ((b.1 + m - a.1 % m) % m < a.2 ∨ (a.1 + m - b.1 % m) % m < b.2) && a.2 != 0 && b.2 != 0

/-- Is the word one whose unwritten bytes make later reads wait, and that counts as a pending store (R251)? -/
def Work.pendingStore : Work → Bool
  | .store .. => true
  | .index op .. => op != 0
  | _ => false

/-- The bytes an earlier load or atomic in flight has still to read, which a later word that changes them waits for: A's program order
(R250, DEDUCED, log 35). -/
def Work.firstReads : Work → List (Nat × Nat)
  | .ldx va size _ _ => [(va.toNat, 2 ^ size.toNat)]
  | .atomic _ va size _ _ _ _ => [(va.toNat, 2 ^ size.toNat)]
  | .load _ va bpr rows stride n done => if done = n then [] else (List.range (max 1 rows.toNat)).map fun i =>
      ((((va.toNat : Int) + (i : Int) * stride.toInt) % 2 ^ 64).toNat, bpr.toNat)
  | _ => []

/-- Does a word only read memory? -/
def Work.onlyReads : Work → Bool
  | .ldx .. | .load .. => true
  | .index op .. => decide (op = 0)
  | _ => false

/-- The package a stream's ORD writes to a buffer go to (R277). -/
def State.ordTarget (s : State) (w : Who) (b : BitVec 12) : Option (BitVec 13) :=
  let e := s.seg (whoDie w) (s.asnOf w) b
  if segKind e = 2 ∧ segAdp e = false then some (segTarget e) else none

/-- The package a word in flight has still to send an ORD write, atomic or message to. -/
def State.ordOf (s : State) (w : Who) : Work → Option (BitVec 13)
  | .stx va .. => s.ordTarget w (bufOf va.toNat)
  | .atomic _ va .. => s.ordTarget w (bufOf va.toNat)
  | .store _ va _ _ _ n done => if done = n then none else s.ordTarget w (bufOf va.toNat)
  | .index op _ _ t _ _ n done _ => if op = 0 ∨ done = n then none else s.ordTarget w (bufOf (tBase t))
  | .msend _ t .. => if s.tgtAway t then some (tgtPkg t) else none
  | _ => none

/-- Is it flight f's turn to send to a package: no earlier word of its stream has an ORD write, atomic or message for it left (R277)? -/
def State.ordTurn (s : State) (w : Who) (f : Flight) : Bool :=
  match s.ordOf w f.work, s.stream? w with
  | some p, some st => st.flights.all fun g => !decide (g.id < f.id) || s.ordOf w g.work != some p
  | _, _ => true

/-- Have the writes a word acquired before its issue taken effect (R268, R271)? -/
def State.acquired (s : State) (w : Who) (f : Flight) : Bool :=
  match s.jobOf? w with
  | some j => f.cov.all fun i => !j.outstanding i
  | none => true

/-- Do some of these bytes lie in a row group whose age holds accesses until it is refreshed (R363)? What the L1 holds, and a REMOTE piece, lies in
none. `l1`: the access reads through the L1. -/
def State.rangesWait (s : State) (w : Who) (l1 : Bool) (ranges : List (Nat × Nat)) (pre : Option TlbEntry := none) : Bool :=
  ranges.any fun r => (pieces r.1 r.2).any fun p =>
    match s.translate (whoDie w) (whoCore w) (s.asnOf w) p.1 p.2 false pre with
    | .ok (q, _) => !(l1 && (match whoL1 w, q.l1Key with
        | some c, some k => (s.l1Find (whoDie w) c k.1).isSome
        | _, _ => false)) && s.placeWaits (whoDie w) q
    | .error _ => false

/-- The 16-byte units byte ranges touch, as ranges. -/
def unitsOf (l : List (Nat × Nat)) : List (Nat × Nat) := l.map fun r => (r.1 / 16 * 16, (r.1 % 16 + r.2 + 15) / 16 * 16)

/-- The bytes a word in flight has still to read of memory as loads and atomics do, a GATHER those of the index it has popped. -/
def Work.loads : Work → List (Nat × Nat)
  | .index op _ _ t _ _ n done cur => if op ≠ 0 ∨ done = n then [] else (cur.toList.filter fun c => decide (c.idx < tRows t)).map fun c => rowRange t c.idx
  | wk => wk.firstReads

/-- Does an earlier word g of its stream keep word f from reading or writing these bytes now: g has still to write any of them, or, where f
writes, to read any (R250, R251); a read of a unit has still to be made before f's, so that reads of a unit never go backwards (R272); an RWB or
RINV of them is under way (R276)? -/
def Flight.inWay (g f : Flight) (ranges : List (Nat × Nat)) (reads : Bool) : Bool :=
  let meets (l : List (Nat × Nat)) : Bool := l.any fun a => ranges.any fun b => rangesMeet a b
  decide (g.id < f.id) && (meets g.work.footprint || (!f.work.onlyReads && meets g.work.firstReads) ||
    (reads && f.work.loads != [] && (unitsOf g.work.loads).any fun a => (unitsOf ranges).any fun b => rangesMeet a b) ||
    (match g.work with
      | .wback _ va len _ _ => reads && meets [(va.toNat, len.toNat)]
      | .ubdisc va len => !reads && meets [(va.toNat, len.toNat)]
      | _ => false))

/-- May a read or a write of these bytes by flight f be performed now: no earlier word of its stream is in its way, earlier acquired releases have
taken effect (R268, R271), of ORD writes it is this one's turn (R277), and no row group holds it (R363)? -/
def State.mayAccess (s : State) (w : Who) (f : Flight) (ranges : List (Nat × Nat)) (reads : Bool) : Bool :=
  match s.stream? w with
  | some st =>
    st.flights.all (fun g => !g.inWay f ranges reads) &&
    (!reads || s.acquired w f) && s.ordTurn w f && !s.rangesWait w f.work.onlyReads ranges f.page
  | none => true

/-- The bytes a word reads or writes in one access, and whether it reads them: what it asks mayAccess for. -/
def Work.access : Work → List (Nat × Nat) × Bool
  | .ldx va size .. | .atomic _ va size .. => ([(va.toNat, 2 ^ size.toNat)], true)
  | .stx va data => ([(va.toNat, data.length)], false)
  | .wback _ va len .. => ([(va.toNat, len.toNat)], true)
  | .ubdisc va len => ([(va.toNat, len.toNat)], false)
  | _ => ([], false)

/-- Is the word an RWB or RINV? -/
def Work.isBack : Work → Bool
  | .wback .. => true
  | _ => false

/-- Does a word acquire once the accesses before it are back (R275)? -/
def Work.acquires : Work → Bool
  | .acq .. | .phase .. => true
  | _ => false

/-- Is the word one whose read must be back before an acquire, whatever of it rests? -/
def Work.isOut : Work → Bool
  | .ldx .. | .atomic .. | .wback .. | .probe .. | .lock .. => true
  | _ => false

/-- Does a word in flight release earlier writes before it completes (R268)? -/
def Work.releases : Work → Bool
  | .rel .. | .phase .. | .depdec .. | .depset .. => true
  | .atomic _ _ _ _ _ scope _ => scope != 0
  | _ => false

/-- Is some earlier pending store of the stream in the way of a read (R251)? -/
def State.behindStore (s : State) (w : Who) (f : Flight) (ranges : List (Nat × Nat)) : Bool :=
  match s.stream? w with
  | some st => st.flights.any fun g => decide (g.id < f.id) && g.work.pendingStore &&
      g.work.footprint.any fun a => ranges.any fun b => rangesMeet a b
  | none => false

/-- The bytes a word in flight reads of memory (R251). -/
def Work.readRanges : Work → List (Nat × Nat)
  | .ldx va size _ _ => [(va.toNat, 2 ^ size.toNat)]
  | .atomic _ va size _ _ _ _ => [(va.toNat, 2 ^ size.toNat)]
  | .load _ va bpr rows stride n done =>
    if done = n then []
    else if rows.toNat ≤ 1 then [(va.toNat, bpr.toNat)]
    else (List.range rows.toNat).map fun i => ((((va.toNat : Int) + (i : Int) * stride.toInt) % 2 ^ 64).toNat, bpr.toNat)
  | .index op _ _ t _ _ n done cur => if op ≠ 0 ∨ done = n then [] else (cur.toList.filter fun c => decide (c.idx < tRows t)).map fun c => rowRange t c.idx
  | .wback _ va len _ _ => [(va.toNat, len.toNat)]
  | _ => []

/-- Since when a word in flight has a read that waits under R251: its issue, or its index's pop. -/
def Flight.waitsSince (f : Flight) : Option Nat :=
  match f.work with
  | .index _ _ _ _ _ _ _ _ (some c) => if c.waited then some c.since else none
  | _ => if f.waited then some f.issued else none

/-- A pending store has popped its last byte, or its last index: each later read that waited for it alone starts now, a loss of decoupling counted
from the read's issue (R251, R252). `old` is the store as it stood before. -/
def State.startReads (s : State) (w : Who) (old : Flight) : State :=
  let now := s.timeOf w
  match s.stream? w with
  | none => s
  | some st => st.flights.foldl (fun s f =>
      let rs := f.work.readRanges
      match (if old.id < f.id then f.waitsSince else none) with
      | none => s
      | some t =>
        if (old.work.footprint.any fun a => rs.any fun b => rangesMeet a b) ∧ s.behindStore w f rs = false then
          s.updJobOf w fun j => { j with lodev := min (j.lodev + 1) (2 ^ 32 - 1), lodcyc := min (j.lodcyc + (now - t)) (2 ^ 32 - 1) }
        else s) s

/-! ## Atomics (R256-R258) -/

/-- The new value an atomic writes: opcode less 0x079, operand, comparand; b bytes (R257). AFADD comes with flags. -/
def atomicValue (op size : Nat) (mode : Nat) (old s cmp : Nat) : Nat × FlagSet :=
  let w := 8 * 2 ^ size
  let m := 2 ^ w
  let sg (v : Nat) : Int := if v < m / 2 then (v : Int) else (v : Int) - m
  if op = 0 then ((old + s) % m, 0)
  else if op = 1 then (if sg s < sg old then s else old, 0)
  else if op = 2 then (if sg old < sg s then s else old, 0)
  else if op = 3 then (old &&& s, 0)
  else if op = 4 then (old ||| s, 0)
  else if op = 5 then (old ^^^ s, 0)
  else if op = 6 then (s, 0)
  else if op = 7 then (if old = cmp then s else old, 0)
  else fpAdd 8 mode (fmtValue 8 old) (fmtValue 8 s)

/-- SCADD's element add (R256). -/
def elementAdd (f : BitVec 5) (mode : Nat) (old d : Nat) : Nat × FlagSet :=
  if fmtIsInt f then ((old + d) % 2 ^ fmtWidth f, 0) else fpAdd f mode (fmtValue f old) (fmtValue f d)

/-- Readies a line at its home for an indivisible update from die d: the die's own copy is written back and dropped (R257). -/
def State.atHome (s : State) (d : DieId) (p : Place) : State :=
  match p with
  | .line key _ home true _ _ => if d = home then s else s.mergeCopy d key true
  | _ => s

/-- Atomics and SCADD of A drop the L1 line they touch (R244). -/
def State.dropA (s : State) (w : Who) (p : Place) : State :=
  match whoL1 w with
  | some c => s.dropL1 (whoDie w) c p
  | none => s

/-- A copy of the line that locks hold in die d is fetched anew after the update (R230, R257; log 96). -/
def State.refetch (s : State) (d : DieId) (p : Place) : State :=
  match p with
  | .line key _ _ true _ _ => match (s.die d).copies.get? key with
    | some c => s.updDie d fun x => { x with copies := x.copies.put key (s.newCopy key c.asn c.home c.locks) }
    | none => s
  | _ => s

/-- An indivisible read-modify-write of b bytes at a line's home: the old bytes, or the stop. -/
def State.rmw (s : State) (w : Who) (va b : Nat) (f : Nat → Nat × FlagSet) (poisonStops mark : Bool) (pre : Option TlbEntry := none) :
    Except Stop (Nat × FlagSet × State) :=
  let d := whoDie w
  let asn := s.asnOf w
  match s.translate d (whoCore w) asn va b true pre with
  | .error x => .error { cause := x.cause, info0 := BitVec.ofNat 64 va }
  | .ok (q@(.line key _ home _ _ ub), s) =>
    let s := s.sampleMiss w q
    match (if ub then s.ubForWrite d (some (d.val, s.recOf w)) asn va key home else .ok s) with
    | .error st => .error st
    | .ok s =>
      match s.translate d (whoCore w) asn va b true pre with
      | .ok (p@(.line key off home ..), s) =>
        let s := s.atHome d p
        let m := s.homeLine key
        let old := leNat (bytesOf m.1 off b)
        if m.2 && poisonStops then .error { cause := .poison, info0 := BitVec.ofNat 64 va }
        else
          let r := f old
          let s := ((s.masterWrite key off home (leBytes b r.1) (m.2 || mark)).refetch d p).restamp home key
          .ok (old, r.2, s.dropA w p)
      | .ok (_, _) => .error { cause := .xlateFatal, info0 := BitVec.ofNat 64 va }
      | .error x => .error { cause := x.cause, info0 := BitVec.ofNat 64 va }
  | .ok (_, s) => .ok (0, 0, s)

/-! ## Write-back and invalidation (R260, R262, R275) -/

/-- The dies a scope acts on (R260). -/
def State.scopeDies (s : State) (d : DieId) (scope : BitVec 3) : List DieId :=
  if scope.toNat ≤ 2 then [d] else (List.finRange 4).filter s.live

/-- Does a core hold a job of an address space? -/
def State.coreOfAsn (s : State) (d : DieId) (c : CoreId) (asn : BitVec 8) : Bool :=
  (List.finRange 2).any fun k => match s.slotJob? d c k with
    | some j => j.asn == asn
    | none => false

/-- RWB or RINV on one line (R262). -/
def State.backLine (s : State) (w : Who) (inv : Bool) (scope : BitVec 3) (level : BitVec 2) (p : Place) : State :=
  let d := whoDie w
  let dies := s.scopeDies d scope
  let asn := s.asnOf w
  let s := if level = 0 then s else match p with
    | .line key _ home swm _ ub =>
      let s := if swm then dies.foldl (fun s x => if x = home then s else s.mergeCopy x key inv) s else s
      if !dies.contains home || ub then s
      else if key % 3 = 2 then (if inv then (s.writeBack key).evictMaster key else s.writeBack key)
      else s.writeBack key
    | _ => s
  if level = 1 || !inv then s
  else match p.l1Key with
    | none => s
    | some (k, _) =>
      let drop (s : State) (x : DieId) (c : CoreId) : State := s.updCore x c fun y => { y with l1 := y.l1.filter fun l => l.key != k }
      if scope.toNat ≤ 2 then match (whoCore w) with
        | some c => drop s d c
        | none => s
      else dies.foldl (fun s x => (List.finRange 64).foldl (fun s c => if s.coreOfAsn x c asn then drop s x c else s) s) s

/-- The line pieces of a range, whole lines: the addresses of its lines. -/
def rangeLines (va len : Nat) : List Nat := if len = 0 then [] else
  (List.range ((va + len - 1) / 128 - va / 128 + 1)).map fun i => (va / 128 + i) * 128 % 2 ^ 64

/-- RWB or RINV of a range (R260, R262): translated as a read; the stop of a failure, with the lines before it done. -/
def State.backRange (s : State) (w : Who) (inv : Bool) (va len : Nat) (scope : BitVec 3) (level : BitVec 2) : Except (Stop × State) State :=
  (rangeLines va len).foldl (fun m a =>
    match m with
    | .error e => .error e
    | .ok s =>
      match s.translate (whoDie w) (whoCore w) (s.asnOf w) a 1 false with
      | .error f => .error ({ cause := f.cause, info0 := BitVec.ofNat 64 a }, s)
      | .ok (p, s) =>
        if s.isLost p then .error ({ cause := .ubLost, info0 := BitVec.ofNat 64 a }, s) else .ok (s.backLine w inv scope level p)) (Except.ok s)

/-- UBDISC of a range (R236). -/
def State.discard (s : State) (w : Who) (va len : Nat) : Except (Stop × State) State :=
  (pieces va len).foldl (fun m p =>
    match m with
    | .error e => .error e
    | .ok s =>
      match s.translate (whoDie w) (whoCore w) (s.asnOf w) p.1 p.2 true with
      | .error f => .error ({ cause := f.cause, info0 := BitVec.ofNat 64 p.1 }, s)
      | .ok (.line key off home _ _ ub, s) =>
        let dropAll (s : State) : State := { s with dies := s.dies.map fun x => { x with copies := x.copies.del key } }
        let zero : List Byte := List.replicate p.2 0
        let dropL1s (s : State) : State := { s with dies := s.dies.map fun x => { x with cores := x.cores.map fun (y : Core) =>
          { y with l1 := y.l1.filter fun l => l.key != 4 * key } } }
        let s := dropL1s s
        if p.2 = 128 then
          if ub then
            match s.masters.get? key with
            | some l => .ok { (dropAll (s.uncharge key l)) with masters := s.masters.del key }
            | none => .ok (dropAll s)
          else
            let s := dropAll s
            .ok ({ s with masters := s.masters.del key }.toBacking key { data := 0, dirty := BitVec.allOnes 128 })
        else if ub && (s.masters.get? key).isNone then .ok s
        else
          let s := (List.finRange 4).foldl (fun s x => match (s.die x).copies.get? key with
            | some c => s.updDie x fun y => { y with copies := y.copies.put key { c with data := putBytes c.data off zero } }
            | none => s) s
          .ok (if s.isLost (.line key off home false false ub) then s else s.masterWrite key off home zero false)
      | .ok (_, s) => .ok s) (Except.ok s)

/-- PHASE at PKG or above: every SWM = 1 copy of the job's address space on the die written back and dropped (R275). -/
def State.flushCopies (s : State) (d : DieId) (asn : BitVec 8) : State :=
  ((s.die d).copies.filter fun e => e.2.asn == asn).foldl (fun s e => s.mergeCopy d e.1 true) s

end Sys2Proof.Machine
end

