-- ==== Sys2Proof/Machine/Hash.lean ====
section
/-! DEFINITION. SHAKE256 with a 32-byte or 64-byte output (spec/13_memories_canopy.md R300, spec/19_links.md R411; the function is FIPS 202's,
notes/assumptions/13.md), the Merkle tree of R300, and CRC-32C (spec/07_registers_accumulators.md R167). -/

namespace Sys2Proof.Machine
open Sys2Proof

/-- The lane of column x and row y of a Keccak state, both modulo 5. -/
def lane (a : List Word) (x y : Nat) : Word := a.getD (x % 5 + 5 * (y % 5)) 0

/-- A Keccak state from its lanes. -/
def ofLanes (f : Nat → Nat → Word) : List Word := (List.range 5).flatMap fun y => (List.range 5).map fun x => f x y

/-- The parity step: every lane takes the parity of the column before it and, turned by one, of the column after it. -/
def keccakTheta (a : List Word) : List Word :=
  let par := (List.range 5).map fun x => (List.range 5).foldl (fun p y => p ^^^ lane a x y) 0
  let near := (List.range 5).map fun x => par.getD ((x + 4) % 5) 0 ^^^ (par.getD ((x + 1) % 5) 0).rotateLeft 1
  ofLanes fun x y => lane a x y ^^^ near.getD x 0

/-- The walk of 24 lanes from (1, 0), each next one at (y, 2x + 3y): source, target, and how far the source is turned, which is the triangular
number of the step. -/
def keccakWalk : Nat → Nat × Nat → Nat → List ((Nat × Nat) × (Nat × Nat) × Nat)
  | 0, _, _ => []
  | n + 1, (x, y), turn =>
    let next := (y, (2 * x + 3 * y) % 5)
    ((x, y), next, turn % 64) :: keccakWalk n next (turn + (25 - n))

/-- The turning and moving steps along the walk; lane (0, 0) stays. -/
def keccakMove (a : List Word) : List Word :=
  (keccakWalk 24 (1, 0) 1).foldl (fun b m => b.set (m.2.1.1 + 5 * m.2.1.2) ((lane a m.1.1 m.1.2).rotateLeft m.2.2)) a

/-- The one step that is not linear: along each row. -/
def keccakChi (a : List Word) : List Word := ofLanes fun x y => lane a x y ^^^ (lane a (x + 2) y &&& ~~~ lane a (x + 1) y)

/-- The shift register of the round constants, with x^8 + x^6 + x^5 + x^4 + 1. -/
def keccakLfsr (r : BitVec 8) : BitVec 8 := if r.getLsbD 7 then (r <<< 1) ^^^ 0x71#8 else r <<< 1

/-- Seven steps of the register: its bits in turn make bits 0, 1, 3, 7, 15, 31 and 63 of the constant. -/
def keccakConst (r : BitVec 8) : Word × BitVec 8 :=
  (List.range 7).foldl (fun (acc : Word × BitVec 8) j =>
    ((if acc.2.getLsbD 0 then acc.1 ||| BitVec.twoPow 64 (2 ^ j - 1) else acc.1), keccakLfsr acc.2)) (0, r)

/-- n rounds of Keccak-f[1600], the register standing at r. -/
def keccakRounds : Nat → BitVec 8 → List Word → List Word
  | 0, _, a => a
  | n + 1, r, a =>
    let k := keccakConst r
    let b := keccakChi (keccakMove (keccakTheta a))
    keccakRounds n k.2 (b.set 0 (lane b 0 0 ^^^ k.1))

/-- Keccak-f[1600]: 24 rounds. -/
def keccakF (a : List Word) : List Word := keccakRounds 24 1 a

/-- Absorbs whole blocks of 136 bytes; n bounds their number. -/
def absorb : Nat → List Word → List Byte → List Word
  | 0, a, _ => a
  | n + 1, a, m =>
    if m = [] then a
    else
      let blk := m.take 136
      let a := (List.range 25).map fun i => a.getD i 0 ^^^ BitVec.ofNat 64 (leNat ((blk.drop (8 * i)).take 8))
      absorb n (keccakF a) (m.drop 136)

/-- SHAKE256's padding: 0x1F, zeros, 0x80 in the block's last byte. -/
def shakePad (m : List Byte) : List Byte :=
  let z := 135 - m.length % 136
  m ++ (if z = 0 then [0x9F] else 0x1F :: List.replicate (z - 1) 0 ++ [0x80])

/-- SHAKE256 with an output of up to 136 bytes. -/
def shake256 (m : List Byte) (n : Nat) : List Byte :=
  let p := shakePad m
  ((absorb (p.length / 136) (List.replicate 25 0) p).flatMap fun w => leBytes 8 w.toNat).take n

/-- The value of a tree node at a height, leaves at height 0 (R300). -/
def treeNode (tag : Byte) (leaf : Nat → List Byte) : Nat → Nat → List Byte
  | 0, i => leaf i
  | h + 1, i => shake256 (tag :: treeNode tag leaf h (2 * i) ++ treeNode tag leaf h (2 * i + 1)) 32

/-- One bit of a reflected CRC-32C. -/
def crcBit (c : BitVec 32) : BitVec 32 := if c.getLsbD 0 then (c >>> 1) ^^^ 0x82F63B78#32 else c >>> 1

/-- CRC-32C: initial value and final XOR 0xFFFFFFFF, reflected (R167). -/
def crc32c (l : List Byte) : BitVec 32 :=
  (l.foldl (fun c b => (List.range 8).foldl (fun c _ => crcBit c) (c ^^^ b.zeroExtend 32)) 0xFFFFFFFF#32) ^^^ 0xFFFFFFFF#32

end Sys2Proof.Machine
end

