-- ==== Sys2Proof/Machine/Canopy.lean ====
section
/-! DEFINITION. Reading the canopy: the row map, directory entries, aliases, images, the tile cache, seeded weights
(spec/13_memories_canopy.md R279-R289, spec/07_registers_accumulators.md R147, R148, R167). -/

namespace Sys2Proof.Machine
open Sys2Proof

/-- Rows of a column: logical, physical (R279). -/
def logicalRows : Nat := 0x400000
def physicalRows : Nat := 0x440000

/-- A row-map entry: VALID in bit 31, the physical row in bits 23:0 (R279). -/
def mapEntry (p : Nat) : BitVec 32 := BitVec.ofNat 32 (2 ^ 31 + p % 2 ^ 24)
/-- The row-map entry of a logical row; unlisted ones are the shipped identity (R279). -/
def Column.entryOf (x : Column) (l : Nat) : BitVec 32 := x.map.getD l (mapEntry l)
/-- The physical row a logical row maps to. -/
def Column.prow (x : Column) (l : Nat) : Nat := (x.entryOf l).toNat % 2 ^ 24
/-- The logical row a physical row is mapped from. -/
def Column.mappedFrom (x : Column) (p : Nat) : Option Nat :=
  match x.map.find? fun e => e.2 == mapEntry p with
  | some e => some e.1
  | none => if p < logicalRows ∧ (x.map.get? p).isNone then some p else none
/-- Does the copy of the system area in use have an uncorrectable error, or has the column none (R280, R292)? -/
def Column.treeUe (x : Column) : Bool := x.lost || x.areas[x.area].ue
/-- The bytes of a physical row. -/
def Column.phys (x : Column) (p : Nat) : BitVec 512 := x.rows.getD p 0
/-- The bytes of a logical row as its map entry stands (R287). -/
def Column.row (x : Column) (l : Nat) : BitVec 512 := x.phys (x.prow l)

/-- The rows replaced after cycle t among n logical rows from l on (R287). -/
def Column.pastOf (x : Column) (t l n : Nat) : List PastRow := x.past.filter fun r => decide (l ≤ r.row ∧ r.row < l + n ∧ t < r.cyc)

/-- A canopy read of one logical row (R287, R289): its 64 bytes and whether they have an uncorrectable error. A corrected error is
written back in the same access (R387) and noticed, and a rewrite of its row queued where 3 or 4 bits were corrected. A read that went on since an
earlier cycle may still find the row that a swing after that cycle replaced: one free choice for a row and a cycle, so that reads of a cycle agree. -/
def State.canopyRow (s : State) (d : DieId) (c : CoreId) (l : Nat) (since : Option Nat := none) : BitVec 512 × Bool × State :=
  let x := s.column d c
  let now := (s.grove d (groveOf c)).cyc
  let olds := match since with
    | some t => x.pastOf t l 1
    | none => []
  match olds[Config.freeNat now (2 ^ 42 + 2 ^ 22 * pkgCore d c + l) % (olds.length + 1)]? with
  | some r => (r.bytes, r.ue, s)
  | none =>
    let p := x.prow l
    let v := x.phys p
    if x.hard.contains p then (v, true, s)
    else match x.soft.get? p with
      | none => (v, false, s)
      | some n =>
        let rw : List PgmReq := if 3 ≤ n then [{ jrec := 0, gen := 0, tag := 0, kind := .rewrite l, dc := none, col := c }] else []
        let s := s.updColumn d c fun y => { y with soft := y.soft.del p, queue := y.queue ++ rw }
        (v, false, ((s.count d 0x060 1).noticeMs d Cause.canopyCe.code.toNat .canopyCe c.val))

/-! ## The directory (R282, R285) -/

def dGen (e : BitVec 128) : BitVec 16 := e.extractLsb' 96 16
def dLen (e : BitVec 128) : Nat := bits e 95 64
def dFirst (e : BitVec 128) : Nat := bits e 55 32
def dFmt (e : BitVec 128) : BitVec 5 := e.extractLsb' 8 5
/-- 0 EMPTY, 1 DENSE, 2 SEED, 3 ALIAS. -/
def dKind (e : BitVec 128) : Nat := bits e 1 0

/-- Entry i as it stands in its column, without a read's effects; EMPTY where start-up found no valid system area (R410). -/
def Column.entry (x : Column) (i : Nat) : BitVec 128 := if x.lost then 0 else (x.row (i / 4)).extractLsb' (128 * (i % 4)) 128

/-- Reads directory entry i; true: its row cannot be read. -/
def State.dirEntry (s : State) (d : DieId) (c : CoreId) (i : Nat) : BitVec 128 × Bool × State :=
  let r := s.canopyRow d c (i / 4)
  if (s.column d c).lost then (0, false, s) else (r.1.extractLsb' (128 * (i % 4)) 128, r.2.1, r.2.2)

/-- Why an entry cannot be used. -/
inductive DirFail where
  | unreadable (i : Nat) | empty (i : Nat)
  /-- outside the column (R205) -/
  | outside
  deriving DecidableEq, Repr

/-- Resolves entry i, an alias once (R285): what it stands for, or why it cannot be used; and the state with what the reads corrected and noticed
(R289). -/
def State.resolveDir (s : State) (d : DieId) (c : CoreId) (i : Nat) : Except DirFail DirUse × State :=
  if 262144 ≤ i then (.error .outside, s)
  else
    let (e, ue, s) := s.dirEntry d c i
    if ue then (.error (.unreadable i), s)
    else if dKind e = 0 then (.error (.empty i), s)
    else if dKind e ≠ 3 then (.ok { index := i, entry := e }, s)
    else
      let (f, ue, s) := s.dirEntry d c (dLen e)
      if ue then (.error (.unreadable (dLen e)), s)
      else if dKind f = 0 ∨ dKind f = 3 then (.error (.empty i), s)
      else (.ok { index := dLen e, entry := f, viaAlias := true, asked := i }, s)

/-- Resolves entries in order; the first that fails decides. -/
def State.resolveDirs (s : State) (d : DieId) (c : CoreId) (is : List Nat) : Except DirFail (List DirUse) × State :=
  is.foldl (fun m i =>
    match m.1 with
    | .error _ => m
    | .ok l =>
      let r := m.2.resolveDir d c i
      (r.1.map fun u => l ++ [u], r.2)) (.ok [], s)

/-- The rows of an image (R282). -/
def dRows (e : BitVec 128) : Nat := cdiv (dLen e) 64

/-- Bytes off to off + n - 1 of an image, read from the canopy row by row: each byte with the error mark of its row. -/
def State.imageDirect (s : State) (d : DieId) (c : CoreId) (e : BitVec 128) (off n : Nat) (since : Option Nat) : List (Byte × Bool) × State :=
  let r := (List.range (cdiv (off % 64 + n) 64)).foldl (fun (acc : List (Byte × Bool) × State) k =>
    let (v, ue, s) := acc.2.canopyRow d c (dFirst e + off / 64 + k) since
    (acc.1 ++ (leBytes 64 v.toNat).map fun b => (b, ue), s)) ([], s)
  ((r.1.drop (off % 64)).take n, r.2)

/-- Bytes of an image as an MMA or a copy reads them: through the tile cache for an alias of an image of at most 16 KiB, which a miss
installs in place of the least recently used slot, while the index still names it (R147, R286). -/
def State.imageBytes (s : State) (d : DieId) (c : CoreId) (u : DirUse) (off n : Nat) (since : Option Nat) : List (Byte × Bool) × State :=
  if !u.viaAlias || decide (16384 < dLen u.entry) then s.imageDirect d c u.entry off n since
  else
    let cut (l : List (Byte × Bool)) : List (Byte × Bool) := (l.drop off).take n
    match (s.core d c).tcache.find? fun t => t.1 == u.index && t.2.1 == dGen u.entry with
    | some t => (cut (t.2.2.map fun b => (b, false)), s.updCore d c fun x => { x with tcache := x.tcache.filter (· != t) ++ [t] })
    | none =>
      let (l, s) := s.imageDirect d c u.entry 0 (dLen u.entry) since
      -- an image a row of which a swing has replaced meanwhile is not installed: that swing drops the slot (R286)
      let swung := since.any fun t => (s.column d c).pastOf t (dFirst u.entry) (dRows u.entry) != []
      if l.any (·.2) || swung || (s.column d c).entry u.index != u.entry then (cut l, s)
      else
        (cut l, s.updCore d c fun x =>
          let t := if x.tcache.length < 8 then x.tcache else x.tcache.drop 1
          { x with tcache := t ++ [(u.index, dGen u.entry, l.map (·.1))] })

/-! ## Weights (R148, R283, R284) -/

/-- Bytes of a K-step of a format (R146). -/
def stepBytes (f : BitVec 5) : Nat := fmtBytes f 512

/-- Is the format a matrix input (R68), SEED aside? -/
def matrixFmt (f : BitVec 5) : Bool :=
  decide (f.toNat ≤ 1 ∨ f.toNat = 4 ∨ f.toNat = 5 ∨ f.toNat = 6 ∨ f.toNat = 7) || fmtIsSb f

/-- A seed record's fields (R167). -/
def recSeed (r : List Byte) : BitVec 32 := BitVec.ofNat 32 (leNat (r.take 4))
def recBases (r : List Byte) : Nat := leNat (r.take 16) / 2 ^ 32 % 16 + 1
def recExp (r : List Byte) : Nat := leNat (r.take 16) / 2 ^ 40 % 256
def recFlags (r : List Byte) : Nat := leNat (r.take 16) / 2 ^ 48 % 2 ^ 16
def recCheck (r : List Byte) : Nat := leNat (r.take 16) / 2 ^ 64 % 2 ^ 32
/-- The reserved fields of a record's header. -/
def recReserved (r : List Byte) : Bool := decide (leNat (r.take 16) / 2 ^ 36 % 16 ≠ 0 ∨ leNat (r.take 16) / 2 ^ 96 ≠ 0)
/-- The CRC of a record (R167). -/
def recCrc (r : List Byte) : Nat := (crc32c (r.take 8 ++ (r.drop 16).take (28 * recBases r))).toNat
/-- The signed coefficient of basis j and column n. -/
def recCode (r : List Byte) (j n : Nat) : Int :=
  let c := leNat ((r.drop (16 + 28 * j)).take 28) / 2 ^ (7 * n) % 128
  if 64 ≤ c then -((c % 64 : Nat) : Int) else (c : Int)

/-- Sums of +-coefficients over the bases: W(k, n) in units of 2^(E - 132), from the basis bits (R148). -/
def seedSum (bs : Array Bool) (codes : List Int) (k n : Nat) : Int :=
  (codes.zipIdx).foldl (fun a (c, j) => if bs.getD (16384 * j + 512 * n + k) false then a + c else a - c) 0

/-- The weights W(k, n) of a record for the K-rows k0 to k0 + m - 1: rows of 32 values. -/
def seedWeights (r : List Byte) (k0 m : Nat) : List (List Val) :=
  let j := recBases r
  let bs := (basisBits (recSeed r) (16384 * j)).toArray
  (List.range m).map fun i => (List.range 32).map fun n =>
    Val.ofInt (seedSum bs ((List.range j).map fun b => recCode r b n) (k0 + i) n) ((recExp r : Int) - 132)

/-- The bytes of one column of a K-step of a DENSE image: where they begin, and how many. -/
def denseCol (f : BitVec 5) (step n : Nat) : Nat × Nat := (step * stepBytes f + n * (stepBytes f / 32), stepBytes f / 32)

/-- Where weight (k, n) of a DENSE image lies: the bytes of its unit, and its place in the unit (R283). -/
def denseElem (f : BitVec 5) (k n : Nat) : Nat × Nat × Nat :=
  let (o, _) := denseCol f (k / 16) n
  let (ub, pe) := unitOf f
  (o + k % 16 / pe * ub, ub, k % 16 % pe)

end Sys2Proof.Machine
end

