-- ==== Sys2Proof/Machine/Copy.lean ====
section
/-! DEFINITION. What a copy transfer moves: where its elements come from and go to, conversion, compression, and its checks
(spec/14_queues_engines.md R326-R331, spec/16_tables.md R353-R357). -/

namespace Sys2Proof.Machine
open Sys2Proof

def orgRow (o : Word) : Nat := bits o 31 0
def orgCol (o : Word) : Nat := bits o 63 32

/-- Where nibble h of byte k of a region's packed stream lies: the byte's offset from BASE, and whether it is the upper nibble. -/
def streamPlace (t : BitVec 256) (r0 c0 nc k h : Nat) : Nat × Bool :=
  let f := tFmt t
  if f = 1 then
    let e := 2 * k + h
    let (o, b) := tElem t (r0 + e / nc) (c0 + e % nc)
    (o, b != 0)
  else if fmtIsSb f then
    let u := k / sbBytes f
    (((tElem t (r0 + u / (nc / 16)) (c0 + u % (nc / 16) * 16)).1 + k % sbBytes f), h == 1)
  else
    let e := k / (fmtWidth f / 8)
    (((tElem t (r0 + e / nc) (c0 + e % nc)).1 + k % (fmtWidth f / 8)), h == 1)

/-! ## The shape of a transfer -/

def Xfer.rows (x : Xfer) : Nat := tRows x.dst - orgRow x.dorg
def Xfer.cols (x : Xfer) : Nat := tCols x.dst - orgCol x.dorg
/-- Bytes of one slot of a compressed side (R329). -/
def Xfer.slotBytes (x : Xfer) : Nat := 64 * xsSlot x.spec
/-- The uncompressed side of a compressing or expanding transfer, with its origin. -/
def Xfer.plain (x : Xfer) : BitVec 256 × Word := if xsComp x.spec = 1 then (x.src, x.sorg) else (x.dst, x.dorg)
/-- The compressed side with its origin. -/
def Xfer.packed (x : Xfer) : BitVec 256 × Word := if xsComp x.spec = 1 then (x.dst, x.dorg) else (x.src, x.sorg)
/-- Bytes of the uncompressed side's stream. -/
def Xfer.plainBytes (x : Xfer) : Nat :=
  let (t, o) := x.plain
  fmtBytes (tFmt t) ((tRows t - orgRow o) * (tCols t - orgCol o))

/-- Bytes of the transfer's destination stream, which WP counts (R326, R329). -/
def Xfer.total (x : Xfer) : Nat :=
  if xsComp x.spec = 0 then fmtBytes (tFmt x.dst) (x.rows * x.cols)
  else if xsComp x.spec = 1 then x.plainBytes / 4096 * x.slotBytes
  else x.plainBytes

/-- The bytes WP advances by at a time: a granule, a slot, a tile. -/
def Xfer.unit (x : Xfer) : Nat := if xsComp x.spec = 0 then 64 else if xsComp x.spec = 1 then x.slotBytes else 4096

/-- The source element of destination element (i, j), before its edge is looked at (R328). -/
def Xfer.srcRaw (x : Xfer) (i j : Nat) : Int × Int :=
  let (a, b) := if xsTrans x.spec then (j, i) else (i, j)
  ((orgRow x.sorg : Int) + a * xsRstep x.spec, (orgCol x.sorg : Int) + b * xsCstep x.spec)

/-- Is an index inside 0 to n - 1? -/
def insideInt (v : Int) (n : Nat) : Bool := decide (0 ≤ v ∧ v < n)
/-- The nearest index inside. -/
def nearest (v : Int) (n : Nat) : Nat := if v < 0 then 0 else min v.toNat (n - 1)

/-- The source element of (i, j) under the spec's EDGE; none: it reads as zero. -/
def Xfer.srcAt (x : Xfer) (i j : Nat) : Option (Nat × Nat) :=
  let (r, c) := x.srcRaw i j
  if insideInt r (tRows x.src) && insideInt c (tCols x.src) then some (r.toNat, c.toNat)
  else if xsEdge x.spec = 1 then some (nearest r (tRows x.src), nearest c (tCols x.src))
  else none

/-- Does some element of the region have its source outside? The corners decide, since indices run evenly. -/
def Xfer.leaves (x : Xfer) : Bool :=
  if xsComp x.spec = 2 then
    decide (tRows x.src * tCols x.src < orgRow x.sorg * tCols x.src + orgCol x.sorg + x.plainBytes / 4096 * x.slotBytes)
  else if xsComp x.spec = 1 then false
  else
    let ok (i j : Nat) : Bool := let (r, c) := x.srcRaw i j; insideInt r (tRows x.src) && insideInt c (tCols x.src)
    !(ok 0 0 && ok (x.rows - 1) (x.cols - 1))

/-- Does a grove tensor's element end beyond the window (R219)? -/
def State.beyondWindow (s : State) (w : Who) (t : BitVec 256) (r c : Nat) : Bool :=
  let f := tFmt t
  let n := if fmtIsSb f then sbBytes f else (fmtWidth f + 7) / 8
  tLoc t == 1 && decide ((s.window (whoDie w) (s.asnOf w)).2 < tBase t + (tElem t r c).1 + n)

/-- The checks of R327 and R329 that concern a transfer's shape, in order: everything from the formats to the WP limit, and the grove
window (R219). `limit` is the end of the channel's accepted transfers. -/
def State.xferBad (s : State) (w : Who) (x : Xfer) (limit : Nat) : Option Cause :=
  let sp := x.spec
  let comp := xsComp sp != 0
  let f := tFmt x.src
  let g := tFmt x.dst
  let fmtBad := f == 0x0C || g == 0x0C || g == 0x0D || (f == 0x0D && tLoc x.src != 3) || decide (0x0E ≤ f.toNat ∨ 0x0E ≤ g.toNat)
  if fmtBad then some .fmtBad
  else match xspecBad sp with
    | some c => some c
    | none =>
      if comp && (xsTrans sp || xsRstep sp != 1 || xsCstep sp != 1 || xsScale sp != 0 || tScale x.src != 0 || tScale x.dst != 0) then some .convBad
      else if comp && !((tLoc x.src == 0 && tLoc x.dst == 1) || (tLoc x.src == 1 && tLoc x.dst == 0)) then some .tensorBad
      else if comp && (tFmt x.packed.1 != 0 || tPitch x.packed.1 != tCols x.packed.1 || x.plainBytes % 4096 != 0) then some .shapeBad
      else if decide (tRows x.dst ≤ orgRow x.dorg ∨ tCols x.dst ≤ orgCol x.dorg) then some .originRange
      else if fmtIsSb g && (orgCol x.dorg % 16 != 0 || x.cols % 16 != 0) then some .tensorAlign
      else if xsEdge sp == 2 && x.leaves then some .edgeFault
      else if s.beyondWindow w x.dst (tRows x.dst - 1) (tCols x.dst - 1) then some .tensorSpace
      else if tLoc x.src == 1 && [(0, 0), (x.rows - 1, x.cols - 1)].any (fun (i, j) => match x.srcAt i j with
          | some (r, c) => s.beyondWindow w x.src r c
          | none => false) then some .tensorSpace
      else if decide (2 ^ 48 - 1 < limit + x.total) then some .lenRange
      else none

/-! ## Reading the source -/

/-- Why a granule does not move. -/
inductive CopyStop where
  /-- bytes of another package are needed -/
  | wait
  /-- the channel stops, with its cause and detail; none: the byte offset of the granule -/
  | fail (c : Cause) (detail : Option Nat)
  /-- the same, of a canopy read that noticed errors it corrected before it failed (R289) -/
  | met (s : State) (c : Cause) (detail : Option Nat)
  /-- the channel stops with a stop that has its own info (R234) -/
  | stop (st : Stop)

/-- The 128-byte lines of virtual memory, as ranges, that the elements of a LOC 2 tensor at some places lie in. -/
def tensorLines (t : BitVec 256) (ps : List (Nat × Nat)) : List (Nat × Nat) :=
  if tLoc t ≠ 2 then []
  else
    let ub := (unitOf (tFmt t)).1
    (ps.flatMap fun p =>
      let a := tBase t + (tElem t p.1 p.2).1
      [a % 2 ^ 64 / 128 * 128, (a + ub - 1) % 2 ^ 64 / 128 * 128]).eraseDups.map fun a => (a, 128)

/-- The stop of a write's place as a channel has it: late framing keeps its own info, any other gives the failing address (R234, R330). -/
def CopyStop.ofWrite (st : Stop) : CopyStop := if st.cause = .ubNoframe then .stop st else .fail st.cause (st.info0.map (·.toNat))

/-- The stop of a word of T whose writes fail. -/
def CopyStop.halt (e : CopyStop) (s : State) (w : Who) (f : Flight) : State :=
  match e with
  | .wait => s
  | .fail c _ => s.stopFlight w f { cause := c }
  | .met t c _ => t.stopFlight w f { cause := c }
  | .stop st => s.stopFlight w f st

/-- The distinct lines a list of addresses touches, each with the first address that needs it. -/
def linesOf (as : List Nat) : List (Nat × Nat) :=
  as.foldl (fun l a => if l.any fun p => p.1 == a / 128 then l else l ++ [(a / 128, a)]) []

/-- Reads whole lines of virtual memory in order of need; `got` supplies the remote ones, and what is left of it is answered. -/
def State.fetchLines (s : State) (w : Who) (as : List Nat) (got : List Byte) :
    Except CopyStop (List (Nat × List (Byte × Bool)) × List Byte × State) :=
  (linesOf as).foldl (fun m p =>
    match m with
    | .error e => .error e
    | .ok (tab, g, s) =>
      let loc : Option (List Byte) := if g = [] then none else some (g.take replyBytes)
      match s.readPiece w (p.1 * 128) 128 false loc with
      | .ok l s' => .ok (tab ++ [(p.1, l)], (if s'.outbox.length = s.outbox.length then g else g.drop replyBytes), s')
      | .wait => .error .wait
      | .stop st _ => .error (.fail st.cause (some p.2))) (Except.ok ([], got, s))

/-- Byte a of fetched lines. -/
def lineByte (tab : List (Nat × List (Byte × Bool))) (a : Nat) : Byte × Bool :=
  match tab.find? fun p => p.1 == a / 128 with
  | some p => p.2.getD (a % 128) (0, true)
  | none => (0, true)

/-- One source element: its unit's bytes (a block, a byte of two, itself) in a format, and its place in the unit; for a seeded weight its value. -/
structure SrcElem where
  fmt : BitVec 5
  unit : List (Byte × Bool)
  sub : Nat
  seeded : Option Val := none

def SrcElem.val (e : SrcElem) : Val :=
  match e.seeded with
  | some v => v
  | none => unitVal e.fmt (leNat (e.unit.map (·.1))) e.sub
def SrcElem.bits (e : SrcElem) : Nat := unitBits e.fmt (leNat (e.unit.map (·.1))) e.sub
def SrcElem.poison (e : SrcElem) : Bool := e.unit.any (·.2)

/-- A zero element of a format. -/
def zeroElem (f : BitVec 5) : SrcElem := { fmt := f, unit := List.replicate (unitOf f).1 (0, false), sub := 0, seeded := some (.fin false 0 0) }

/-- Where the unit of element (r, c) begins, and the element's place in it. -/
def elemUnit (t : BitVec 256) (r c : Nat) : Nat × Nat :=
  let (o, b) := tElem t r c
  (o, if tFmt t = 1 then b / 4 else b)

/-- The directory index of element (k, n) of a LOC 3 tensor, whose BASE gives its first index in bits 17:0 (R147, R352); a ROWS that is no
multiple of 512 counts its whole weight tiles (log 91). -/
def tileIndex (t : BitVec 256) (k n : Nat) : Nat := tBase t % 2 ^ 18 + n / 32 * (tRows t / 512) + k / 512

/-- The source elements at a list of places (none: zero), read in order, and what is left of `got`. -/
def State.readSource (s : State) (w : Who) (x : Xfer) (ps : List (Option (Nat × Nat))) (got : List Byte) :
    Except CopyStop (List SrcElem × List Byte × State) :=
  let t := x.src
  let f := tFmt t
  let ub := (unitOf f).1
  if tLoc t = 3 then
    match w with
    | .sys _ => .error .wait
    | .eng d c _ _ =>
      -- the rows of a copy block are resolved one by one within its cycle (R287)
      let since := some (s.timeOf w - 1)
      (ps.foldl (fun m p =>
        match m with
        | .error e => .error e
        | .ok (l, s) =>
          match p with
          | none => .ok (l ++ [zeroElem f], s)
          | some (k, n) =>
            match x.dirs.find? fun u => u.asked == tileIndex t k n with
            | none => .ok (l ++ [zeroElem f], s)
            | some u =>
              let k := k % 512
              let n := n % 32
              if dKind u.entry = 2 then
                let (r, s) := s.imageBytes d c u 0 (dLen u.entry) since
                let b := r.map (·.1)
                if r.any (·.2) then .error (.met s .copyUe none)
                else if recCrc b ≠ recCheck b then .error (.met s .seedRec (some u.index))
                else .ok (l ++ [{ fmt := 0x0D, unit := [], sub := 0, seeded := ((seedWeights b k 1).headD [])[n]? }], s)
              else
                let g := dFmt u.entry
                let (o, ub, sub) := denseElem g k n
                let (r, s) := s.imageBytes d c u o ub since
                if r.any (·.2) then .error (.met s .copyUe none) else .ok (l ++ [{ fmt := g, unit := r, sub := sub }], s)) (Except.ok ([], s))).map
        fun (r : List SrcElem × State) => (r.1, got, r.2)
  else if tLoc t = 2 then
    let addr (p : Nat × Nat) : Nat := (tBase t + (elemUnit t p.1 p.2).1) % 2 ^ 64
    let as := ps.flatMap fun p => match p with
      | none => []
      | some p => [addr p, (addr p + ub - 1) % 2 ^ 64]
    match s.fetchLines w as got with
    | .error e => .error e
    | .ok (tab, got, s) => .ok (ps.map (fun p => match p with
      | none => zeroElem f
      | some p => { fmt := f, unit := (List.range ub).map fun i => lineByte tab ((addr p + i) % 2 ^ 64), sub := (elemUnit t p.1 p.2).2 }), got, s)
  else
    (ps.foldl (fun m p =>
      match m with
      | .error e => .error e
      | .ok (l, s) =>
        match p with
        | none => .ok (l ++ [zeroElem f], s)
        | some (r, c) =>
          match s.localRead w (tLoc t) (tBase t + (elemUnit t r c).1) ub with
          | none => .error (.fail .tensorSpace none)
          | some u => .ok (l ++ [{ fmt := f, unit := u, sub := (elemUnit t r c).2 }], s)) (Except.ok ([], s))).map
      fun (r : List SrcElem × State) => (r.1, got, r.2)

/-! ## One granule -/

/-- The destination elements of the stream's bytes off to off + n - 1, as a first index and a count, in row-major order of the region. -/
def Xfer.elemRange (x : Xfer) (off n : Nat) : Nat × Nat :=
  let f := tFmt x.dst
  let all := x.rows * x.cols
  if f = 1 then (2 * off, min (2 * (off + n)) all - 2 * off)
  else if fmtIsSb f then
    let u0 := off / sbBytes f
    (16 * u0, 16 * (cdiv (off + n) (sbBytes f) - u0))
  else (off / (fmtWidth f / 8), n / (fmtWidth f / 8))

/-- Is one destination block exactly one whole source block (R328)? Its first element is (i, j). -/
def Xfer.wholeBlock (x : Xfer) (i j : Nat) : Bool :=
  let (r, c) := x.srcRaw i j
  tLoc x.src != 3 && tFmt x.src == tFmt x.dst && tScale x.dst + xsScale x.spec == 0 && !xsTrans x.spec && xsCstep x.spec == 1 &&
    insideInt r (tRows x.src) && decide (0 ≤ c ∧ c % 16 = 0 ∧ c + 16 ≤ tCols x.src)

/-- The stream bytes that elements become, from their first unit on, with poison and flags (R328). -/
def Xfer.encode (x : Xfer) (e0 : Nat) (es : List SrcElem) : List (Byte × Bool) × FlagSet :=
  let g := tFmt x.dst
  let k := tScale x.dst + xsScale x.spec
  let mode := effMode (xsRnd x.spec) (xsFin x.spec) x.rm
  let val (e : SrcElem) : Val := Val.scale k e.val
  if fmtIsSb g then
    (List.range (es.length / 16)).foldl (fun acc b =>
      let blk := (es.drop (16 * b)).take 16
      let i := (e0 + 16 * b) / x.cols
      let j := (e0 + 16 * b) % x.cols
      let pois := blk.any SrcElem.poison
      if x.wholeBlock i j then (acc.1 ++ ((blk.head?).map (·.unit)).getD [], acc.2)
      else
        let r := sbEncode g (blk.map val) mode (xsSat x.spec)
        (acc.1 ++ (leBytes (sbBytes g) r.1).map (fun y => (y, pois)), acc.2 ||| r.2)) ([], 0)
  else
    let rs := es.map fun e =>
      if e.seeded.isNone && e.fmt == g && k == 0 then (e.bits, (0 : FlagSet)) else roundTo g (val e) mode (xsSat x.spec)
    let bs := packElems g (rs.map (·.1))
    let per := if g = 1 then 2 else 1
    let wb := if g = 1 then 1 else fmtWidth g / 8
    (bs.zipIdx.map fun (y, i) => (y, ((es.drop (i / wb * per)).take per).any SrcElem.poison), rs.foldl (fun a r => a ||| r.2) 0)

/-- A run of destination bytes at rising neighbouring places is written at once; a nibble alone keeps the other half of its byte. Each item:
offset from BASE, byte, poison, and which nibbles are written (low, high). -/
def Xfer.places (x : Xfer) (off : Nat) (l : List (Byte × Bool)) : List (Nat × Byte × Bool × Bool × Bool) :=
  let t := x.dst
  let all := x.rows * x.cols
  l.zipIdx.flatMap fun (b, i) =>
    let k := off + i
    let (p0, h0) := streamPlace t (orgRow x.dorg) (orgCol x.dorg) x.cols k 0
    let (p1, h1) := streamPlace t (orgRow x.dorg) (orgCol x.dorg) x.cols k 1
    if tFmt t != 1 || (p0 == p1 && !h0 && h1 && decide (2 * k + 1 < all)) then [(p0, b.1, b.2, true, true)]
    else
      let nib (p : Nat) (h : Bool) (v : Nat) : Nat × Byte × Bool × Bool × Bool := (p, BitVec.ofNat 8 (v * (if h then 16 else 1)), b.2, !h, h)
      nib p0 h0 (b.1.toNat % 16) :: (if 2 * k + 1 < all then [nib p1 h1 (b.1.toNat / 16)] else [])

/-- Groups places into runs of neighbouring whole bytes, in order. -/
def runsOf (l : List (Nat × Byte × Bool × Bool × Bool)) : List (Nat × List (Byte × Bool) × Bool × Bool) :=
  l.foldr (fun (p, b, q, lo, hi) acc =>
    match acc with
    | (p2, bs, true, true) :: r => if lo && hi && p + 1 == p2 then (p, (b, q) :: bs, true, true) :: r else (p, [(b, q)], lo, hi) :: acc
    | _ => (p, [(b, q)], lo, hi) :: acc) []

/-- Writes a byte's nibble or a run at a destination: scratchpad, grove window, or virtual memory. A nibble alone keeps the other half of its
byte, which `got` supplies where it is another package's; what is left of it is answered. -/
def State.putRun (s : State) (w : Who) (id : Nat) (loc a : Nat) (l : List (Byte × Bool)) (lo hi : Bool) (got : List Byte) :
    Except CopyStop (State × List Byte) :=
  let nibbled (old : Byte) : List (Byte × Bool) := l.map fun b => (putNibble old hi (if hi then b.1.toNat / 16 else b.1.toNat), b.2)
  if loc = 2 then
    let a := a % 2 ^ 64
    let write (s : State) (l : List (Byte × Bool)) (got : List Byte) : Except CopyStop (State × List Byte) :=
      match s.writeVa w id a l with
      | .ok s => .ok (s, got)
      | .error (st, _) => .error (.ofWrite st)
    if lo && hi then write s l got
    else match s.oldByte w a (if got = [] then none else some (got.take replyBytes)) with
      | .ok old s' => write s' (nibbled old) (if s'.outbox.length = s.outbox.length then got else got.drop replyBytes)
      | .stop st _ => .error (.ofWrite st)
      | .wait => .error .wait
  else
    match s.localRead w loc a l.length with
    | none => .error (.fail .tensorSpace none)
    | some old =>
      match s.localWrite w loc a (if lo && hi then l else nibbled ((old.headD (0, false)).1)) with
      | some s => .ok (s, got)
      | none => .error (.fail .tensorSpace none)

/-- Writes stream bytes of a transfer's destination. -/
def State.putStream (s : State) (w : Who) (id : Nat) (x : Xfer) (off : Nat) (l : List (Byte × Bool)) (got : List Byte := []) : Except CopyStop State :=
  ((runsOf (x.places off l)).foldl (fun m (p, bs, lo, hi) =>
    match m with
    | .error e => .error e
    | .ok (s, got) => s.putRun w id (tLoc x.dst) (tBase x.dst + p) bs lo hi got) (Except.ok (s, got))).map (·.1)

/-- The destination elements (i, j) of a plain transfer's bytes off to off + n - 1, and the sources inside of those (R328). -/
def Xfer.spots (x : Xfer) (off n : Nat) : List (Nat × Nat) :=
  let (e0, cnt) := x.elemRange off n
  (List.range cnt).map fun i => ((e0 + i) / x.cols, (e0 + i) % x.cols)
def Xfer.sources (x : Xfer) (off n : Nat) : List (Nat × Nat) := (x.spots off n).filterMap fun p => x.srcAt p.1 p.2

/-- The lines of virtual memory a granule reads and writes. -/
def Xfer.lines (x : Xfer) (off n : Nat) : List (Nat × Nat) :=
  tensorLines x.src (x.sources off n) ++ tensorLines x.dst ((x.spots off n).map fun p => (orgRow x.dorg + p.1, orgCol x.dorg + p.2))

/-- The bytes a granule moves in each buffer: what it reads of the source's, what it writes of the destination's (R381). -/
def Xfer.moves (x : Xfer) (off n : Nat) : List (BitVec 12 × Nat) :=
  (if tLoc x.src = 2 then [(bufOf (tBase x.src), fmtBytes (tFmt x.src) (x.sources off n).length)] else []) ++
    if tLoc x.dst = 2 then [(bufOf (tBase x.dst), n)] else []

/-- Moves one granule of a plain transfer: bytes off to off + n - 1 (R328, R330). The new state, the flags, whether it carried poison. -/
def State.moveGranule (s : State) (w : Who) (id : Nat) (x : Xfer) (off n : Nat) (got : List Byte) : Except CopyStop (State × FlagSet × Bool) :=
  let e0 := (x.elemRange off n).1
  let spots := x.spots off n
  match spots.zipIdx.find? fun (p, _) => xsEdge x.spec == 2 && (let (r, c) := x.srcRaw p.1 p.2; !(insideInt r (tRows x.src) && insideInt c (tCols x.src))) with
  | some (_, i) => .error (.fail .edgeFault (some (e0 + i)))
  | none =>
    match s.readSource w x (spots.map fun p => x.srcAt p.1 p.2) got with
    | .error e => .error e
    | .ok (es, got, s) =>
      let (bs, fl) := x.encode e0 es
      let first := if fmtIsSb (tFmt x.dst) then e0 / 16 * sbBytes (tFmt x.dst) else off
      let l := (bs.drop (off - first)).take n
      let pois := l.any (·.2)
      if pois && tLoc x.dst != 2 then .error (.fail .copyUe none)
      else match s.putStream w id x off l got with
        | .error e => .error e
        | .ok s => .ok (s, fl, pois)

/-! ## Compression (R329) -/

/-- A byte of a tensor's packed stream in scratchpad or grove SRAM. -/
def State.streamByte (s : State) (w : Who) (t : BitVec 256) (r0 c0 nc k : Nat) : Option (Byte × Bool) :=
  let nib (h : Nat) : Option (Nat × Bool) :=
    let (o, hi) := streamPlace t r0 c0 nc k h
    (s.localRead w (tLoc t) (tBase t + o) 1).map fun l =>
      let b := l.headD (0, false)
      (if hi then b.1.toNat / 16 else b.1.toNat % 16, b.2)
  match nib 0, nib 1 with
  | some a, some b => some (BitVec.ofNat 8 (a.1 + 16 * b.1), a.2 || b.2)
  | _, _ => none

/-- Byte p of a compressed side's run of slots, read under the spec's EDGE beyond its tensor; none: beyond the memory. -/
def State.runByte (s : State) (w : Who) (x : Xfer) (p : Nat) : Option (Byte × Bool) :=
  let (t, o) := x.packed
  let q := orgRow o * tCols t + orgCol o + p
  let r := q / tCols t
  if r < tRows t then (s.localRead w (tLoc t) (tBase t + q) 1).map fun l => l.headD (0, false)
  else if xsEdge x.spec = 1 then
    (s.localRead w (tLoc t) (tBase t + (tRows t - 1) * tCols t + q % tCols t) 1).map fun l => l.headD (0, false)
  else some (0, false)

/-- All elements present? -/
def allSome {α : Type} (l : List (Option α)) : Option (List α) :=
  l.foldr (fun a m => match a, m with
    | some a, some l => some (a :: l)
    | _, _ => none) (some [])

/-- One slot compressed from tile i: its bytes, or none where the tile has too many blocks (R329). -/
def packTile (slot : Nat) (tile : List Byte) : Option (List Byte) :=
  let blocks := (List.range 64).map fun b => (tile.drop (64 * b)).take 64
  let on := blocks.map fun b => b.any (· != 0)
  let mask := (on.zipIdx).foldl (fun m (v, i) => if v then m + 2 ^ i else m) 0
  if slot / 64 - 1 < (on.filter id).length then none
  else
    let body := leBytes 8 mask ++ (blocks.filter fun b => b.any (· != 0)).flatten
    some (body ++ List.replicate (slot - body.length) 0)

/-- The tile a slot expands to; none where it fails to decode (R329). -/
def unpackTile (slot : List Byte) : Option (List Byte) :=
  let mask := leNat (slot.take 8)
  let n := ((List.range 64).filter fun i => mask.testBit i).length
  if slot.length / 64 - 1 < n then none
  else if ((slot.drop (8 + 64 * n)).any (· != 0)) then none
  else some (((List.range 64).foldl (fun (acc : List Byte × List Byte) i =>
    if mask.testBit i then (acc.1 ++ acc.2.take 64, acc.2.drop 64) else (acc.1 ++ List.replicate 64 0, acc.2)) ([], slot.drop 8)).1)

/-- Moves slot or tile i of a compressing or expanding transfer. -/
def State.moveTile (s : State) (w : Who) (id : Nat) (x : Xfer) (i : Nat) : Except CopyStop State :=
  let (t, o) := x.plain
  let nc := tCols t - orgCol o
  if xsComp x.spec = 1 then
    match allSome ((List.range 4096).map fun k => s.streamByte w t (orgRow o) (orgCol o) nc (4096 * i + k)) with
    | none => .error (.fail .tensorSpace none)
    | some l =>
      if l.any (·.2) then .error (.fail .copyUe none)
      else match packTile x.slotBytes (l.map (·.1)) with
        | none => .error (.fail .compressOver (some i))
        | some bs =>
          let (u, p) := x.packed
          let q := orgRow p * tCols u + orgCol p + i * x.slotBytes
          -- bytes beyond the destination's elements are not written (log 28)
          let keep := bs.take (tRows u * tCols u - q)
          match s.localWrite w (tLoc u) (tBase u + q) (keep.map fun b => (b, false)) with
          | some s => .ok s
          | none => .error (.fail .tensorSpace none)
  else
    match allSome ((List.range x.slotBytes).map fun k => s.runByte w x (i * x.slotBytes + k)) with
    | none => .error (.fail .tensorSpace none)
    | some l =>
      if l.any (·.2) then .error (.fail .copyUe none)
      else match unpackTile (l.map (·.1)) with
        | none => .error (.fail .copyDecode (some i))
        | some bs =>
          s.putStream w id x (4096 * i) (bs.map fun b => (b, false))

end Sys2Proof.Machine
end

