-- ==== Sys2Proof/Machine/Loads.lean ====
section
/-! DEFINITION. A's memory instructions (spec/11_memories_access.md R245-R263; spec/10_memories_spaces.md R227, R230, R236;
spec/12_memories_ordering.md R274, R275; spec/16_tables.md R354), and the steps that move their data (INDEX_STEP, RELEASE_DONE, and
what DATA_RETURN and WRITE_ACKNOWLEDGEMENT do for them). Works of the other engines that these steps carry are in their own files. -/

namespace Sys2Proof.Machine
open Sys2Proof

/-- A stop with its cause alone. -/
def stopOf (c : Cause) : Stop := { cause := c }

/-- The first page of an access translates at issue (R243). -/
def State.firstPage (s : State) (va n : Nat) (write : Bool) : Except Stop State :=
  match s.translate (whoDie s.cur) (whoCore s.cur) (s.asnOf s.cur) va (min n (4096 - va % 4096)) write with
  | .error f => .error { cause := f.cause, info0 := BitVec.ofNat 64 va }
  | .ok (_, s) => .ok s

/-- Puts an access in flight (R381): its buffer is busy until it completes; it keeps the leaf its first page translated to (R226), and notes
whether an earlier store holds its read (R251). -/
def State.launchAccess (s : State) (tks : BitVec 4) (w : Work) : Except Stop (State × Flow) :=
  let s := match w.buf? with
    | some b => s.updJb fun j => j.busy b
    | none => s
  let id := s.str.nextId
  let page := w.va?.bind fun va => s.tlbOf s.cur va.toNat
  let held := s.behindStore s.cur { id := id, pc := 0, issued := 0, land := none, work := w } w.readRanges
  .ok ((s.launchWord tks none [] w).updStr fun st => st.updFlight id fun f => { f with page := page, waited := held }, .fall)

/-- The effective address of an access. -/
def State.addr (s : State) (base : BitVec 5) (off : Word) : Word := s.readX 0 base + off

/-! ## LDQ, LDSQ, STQ, STSQ (R245-R248) -/

/-- The checks of R246 but for translation. -/
def State.qtCheck (s : State) (q : BitVec 4) (load strided : Bool) (bpr n : Nat) : Option Stop :=
  let c := s.jb.qcfg q.toNat
  match queueCheck c load s.eng with
  | some x => some (stopOf x)
  | none =>
    let (ub, _) := unitOf (if load then qSrc c else qSnk c)
    if bpr % ub != 0 then some (stopOf (if strided then .shapeBad else .qfmtAlign))
    else if decide (2 ^ 24 < n) || (load && decide (qCap c < n)) then some (stopOf (if strided then .shapeBad else .lenRange))
    else none

/-- Issues a queue transfer (R245-R247). -/
def queueTransfer (h : Hdr) (q : BitVec 4) (load strided : Bool) (args : State → Word × Word × Word × Word) : Body := fun s =>
  let (va, bpr, rows, stride) := args s
  let n := bpr.toNat * rows.toNat
  match s.qtCheck q load strided bpr.toNat n with
  | some st => .error st
  | none =>
    if n = 0 then asNop h s
    else match s.firstPage va.toNat bpr.toNat (!load) with
      | .error st => .error st
      | .ok s =>
        if load then
          let id := s.str.nextId
          (s.updJb fun j => (j.dqMake q.toNat n).updDq q.toNat fun x => x.reserve id n).launchAccess h.tks (.load q va bpr rows stride n 0)
        else s.launchAccess h.tks (.store q va bpr rows stride n 0)

/-- A load waits for room in its queue (R247); an access to a held buffer waits (R238, R359). -/
def qtReady (q : BitVec 4) (load strided : Bool) (args : State → Word × Word × Word × Word) (s : State) : Bool :=
  let (va, bpr, rows, _) := args s
  let n := bpr.toNat * rows.toNat
  (s.qtCheck q load strided bpr.toNat n).isSome || ((!load || s.jb.dqRoom q.toNat n) && !s.bufHeld s.cur va.toNat)

/-- The operands of LDQ and STQ. -/
def flatArgs (base len : BitVec 5) (off18 : BitVec 18) (s : State) : Word × Word × Word × Word :=
  (s.addr base (sx64 off18), s.readX 1 len, 1, 0)
/-- The operands of LDSQ and STSQ. -/
def shapeArgs (base shape stride : BitVec 5) (s : State) : Word × Word × Word × Word :=
  let sh := s.readX 1 shape
  (s.readX 0 base, BitVec.ofNat 64 (bits sh 31 0), BitVec.ofNat 64 (bits sh 63 32), s.readX 2 stride)

/-- LDQ. -/
def execLdq (h : Hdr) (g : Guard) (q : BitVec 4) (base len : BitVec 5) (off18 : BitVec 18) (s : State) : Host.Outcome State Fault Refusal :=
  runGuarded (.ldq h g q base len off18) h g (qtReady q true false (flatArgs base len off18))
    (queueTransfer h q true false (flatArgs base len off18)) s
/-- LDSQ. -/
def execLdsq (h : Hdr) (g : Guard) (q : BitVec 4) (base shape stride : BitVec 5) (s : State) : Host.Outcome State Fault Refusal :=
  runGuarded (.ldsq h g q base shape stride) h g (qtReady q true true (shapeArgs base shape stride))
    (queueTransfer h q true true (shapeArgs base shape stride)) s
/-- STQ. -/
def execStq (h : Hdr) (g : Guard) (q : BitVec 4) (base len : BitVec 5) (off18 : BitVec 18) (s : State) : Host.Outcome State Fault Refusal :=
  runGuarded (.stq h g q base len off18) h g (qtReady q false false (flatArgs base len off18))
    (queueTransfer h q false false (flatArgs base len off18)) s
/-- STSQ. -/
def execStsq (h : Hdr) (g : Guard) (q : BitVec 4) (base shape stride : BitVec 5) (s : State) : Host.Outcome State Fault Refusal :=
  runGuarded (.stsq h g q base shape stride) h g (qtReady q false true (shapeArgs base shape stride))
    (queueTransfer h q false true (shapeArgs base shape stride)) s

/-- The address of byte k of a strided range, modulo 2^64. -/
def rowAddr (va bpr stride : Word) (k : Nat) : Nat := (va + BitVec.ofNat 64 (k / bpr.toNat) * stride + BitVec.ofNat 64 (k % bpr.toNat)).toNat

/-- The next piece of a transfer: its address and length, within a row and an aligned 16-byte unit (R255, R266). -/
def nextPiece (va bpr stride : Word) (n done : Nat) : Nat × Nat :=
  let a := rowAddr va bpr stride done
  (a, min (min (bpr.toNat - done % bpr.toNat) (n - done)) (16 - a % 16))

/-- A load's next bytes return and land in its queue (R247). -/
def State.loadStep (s : State) (w : Who) (f : Flight) (q : BitVec 4) (va bpr rows stride : Word) (n done : Nat) (got : Option (List Byte)) :
    State :=
  let (a, k) := nextPiece va bpr stride n done
  if !s.mayAccess w f [(a, k)] true then s
  else match s.readPiece w a k false got f.page with
    | .wait => s
    | .stop st s => s.stopFlight w f st
    | .ok l s =>
      let now := s.timeOf w
      let s := s.updJobOf w fun j => (j.updDq q.toNat fun x => x.fill f.id now l).moved (bufOf va.toNat) k
      if done + k = n then (s.sampleLoad w va.toNat).completeAccess w f
      else s.updStream w fun st => st.updFlight f.id fun y => { y with work := .load q va bpr rows stride n (done + k) }

/-- A store's next elements are popped and written (R247): as many as have come and lie before the end of the unit, at least one. -/
def State.storeStep (s : State) (w : Who) (f : Flight) (q : BitVec 4) (va bpr rows stride : Word) (n done : Nat) : State :=
  match s.jobOf? w, s.stream? w with
  | some j, some st =>
    let c := j.qcfg q.toNat
    let (sb, se) := unitOf (qSnk c)
    let now := s.timeOf w
    let have_ := (j.dq q.toNat).ready c now / se
    let (a, k) := nextPiece va bpr stride n done
    let units := min have_ (max 1 (k / sb))
    let bytes := units * sb
    if units = 0 || !st.popsClear f.id q.toNat || !s.mayAccess w f [(a, bytes)] false then s
    else if (j.dq q.toNat).badPop c (units * se) = some .queueUe then s.stopFlight w f (stopOf .queueUe)
    else
      let r := (j.dq q.toNat).deliver c (units * se) f.rm
      match s.writeVa w f.id a r.1 f.page with
      | .error (st, s') => (if st.cause = .ubNoframe then s else s').stopFlight w f st
      | .ok s =>
        let s := s.updJobOf w fun j => (j.updDq q.toNat fun x => x.remove c (units * se)).moved (bufOf va.toNat) bytes
        let effs := f.effs ++ flagEff r.2
        let s := s.updJobOf w fun j => { j with stall := 0 }
        if done + bytes = n then (s.completeAccess w { f with effs := effs }).startReads w f
        else s.updStream w fun st => st.updFlight f.id fun y => { y with effs := effs, work := .store q va bpr rows stride n (done + bytes) }
  | _, _ => s

/-! ## LDX, STX (R249) -/

/-- Does the access of a register word wait because its buffer is held? -/
def addrReady (base : BitVec 5) (off : Word) (s : State) : Bool := !s.bufHeld s.cur (s.addr base off).toNat

/-- LDX. -/
def execLdx (h : Hdr) (g : Guard) (d base : BitVec 5) (size : BitVec 2) (sx : Bool) (off19 : BitVec 19) (s : State) :
    Host.Outcome State Fault Refusal :=
  runGuarded (.ldx h g d base size sx off19) h g (addrReady base (sx64 off19)) (fun s =>
    let va := s.addr base (sx64 off19)
    let b := 2 ^ size.toNat
    if va.toNat % b != 0 then .error { cause := .align, info0 := va }
    else match s.firstPage va.toNat b false with
      | .error st => .error st
      | .ok s => s.launchAccess h.tks (.ldx va size sx d)) s

/-- STX. -/
def execStx (h : Hdr) (g : Guard) (r base : BitVec 5) (size : BitVec 2) (off19 : BitVec 19) (s : State) : Host.Outcome State Fault Refusal :=
  runGuarded (.stx h g r base size off19) h g (addrReady base (sx64 off19)) (fun s =>
    let va := s.addr base (sx64 off19)
    let b := 2 ^ size.toNat
    if va.toNat % b != 0 then .error { cause := .align, info0 := va }
    else match s.firstPage va.toNat b true with
      | .error st => .error st
      | .ok s => s.launchAccess h.tks (.stx va (leBytes b (s.readX 1 r).toNat))) s

/-- An LDX reads and its register is written (R249, R259). -/
def State.ldxStep (s : State) (w : Who) (f : Flight) (va : Word) (size : BitVec 2) (sx : Bool) (d : BitVec 5) (got : Option (List Byte)) : State :=
  let b := 2 ^ size.toNat
  let rs := [(va.toNat, b)]
  if !s.mayAccess w f rs true then s
  else match s.readPiece w va.toNat b (!f.waited) got f.page with
    | .wait => s
    | .stop st s => s.stopFlight w f st
    | .ok l s =>
      if l.any (·.2) then s.stopFlight w f { cause := .poison, info0 := va }
      else
        let m := leNat (l.map (·.1))
        let v : Word := if sx && decide (2 ^ (8 * b - 1) ≤ m) then BitVec.ofInt 64 ((m : Int) - 2 ^ (8 * b)) else BitVec.ofNat 64 m
        ((s.sampleLoad w va.toNat).updJobOf w fun j => j.moved (bufOf va.toNat) b).completeAccess w { f with effs := [.x d v] }

/-! ## GATHER, SCATTER, SCADD (R253-R256) -/

/-- The checks of R253 at issue. -/
def State.indexCheck (s : State) (op : BitVec 2) (dq iq : BitVec 4) (tnum : BitVec 6) (t : BitVec 256) (c : Nat) (isz : BitVec 2) : Option Stop :=
  match s.useTensor tnum t [2] .tensorBad with
  | some st => some st
  | none =>
    let f := tFmt t
    let rb := fmtBytes f (tCols t)
    let ic := s.jb.qcfg iq.toNat
    let dc := s.jb.qcfg dq.toNat
    let (ub, pe) := unitOf (qSrc dc)
    if 0x0E ≤ f.toNat then some (stopOf .fmtBad)
    else if decide (0x0C ≤ f.toNat) || (op == 2 && fmtIsSb f) then some (stopOf .typeBad)
    else if op = 2 ∧ segKind (s.seg (whoDie s.cur) (s.asnOf s.cur) (bufOf (tBase t))) = 1 then some { cause := .atomicKind, info0 := BitVec.ofNat 64 (tBase t) }
    else match queueCheck ic false s.eng with
      | some x => some (stopOf x)
      | none =>
        if !(qSnk ic = 0 || qSnk ic = 2 || qSnk ic = 3) || (8 * 2 ^ isz.toNat) % fmtWidth (qSnk ic) != 0 then some (stopOf .indexFmt)
        else match queueCheck dc (op == 0) s.eng with
          | some x => some (stopOf x)
          | none =>
            if (if op = 0 then qSrc dc else qSnk dc) != f then some (stopOf .queueCfg)
            else if (f = 1 && tCols t % 2 == 1) || (fmtIsSb f && tCols t % 16 != 0) then some (stopOf .shapeBad)
            else if (op = 0 ∧ qCap dc < rb) ∨ (op ≠ 0 ∧ qCap dc < cdiv (tCols t) pe * ub) then some (stopOf .lenRange)
            else if 2 ^ 24 < c then some (stopOf .countRange)
            else none

/-- Issues GATHER (0), SCATTER (1) or SCADD (2). -/
def indexBody (h : Hdr) (op : BitVec 2) (dq iq : BitVec 4) (tensor : BitVec 6) (cnt : BitVec 5) (isz : BitVec 2) : Body := fun s =>
  let t := s.tensor 3 tensor
  let c := (s.readX 0 cnt).toNat
  match s.indexCheck op dq iq tensor t c isz with
  | some st => .error st
  | none => if c = 0 then asNop h s else s.launchAccess h.tks (.index op dq iq t tensor.toNat isz c 0 none)

/-- Not to a held buffer. -/
def indexReady (tensor : BitVec 6) (s : State) : Bool := !s.bufHeld s.cur (tBase (s.tensor 3 tensor))

/-- GATHER. -/
def execGather (h : Hdr) (g : Guard) (dq iq : BitVec 4) (tensor : BitVec 6) (cnt : BitVec 5) (isz : BitVec 2) (s : State) :
    Host.Outcome State Fault Refusal :=
  runGuarded (.gather h g dq iq tensor cnt isz) h g (indexReady tensor) (indexBody h 0 dq iq tensor cnt isz) s
/-- SCATTER. -/
def execScatter (h : Hdr) (g : Guard) (dq iq : BitVec 4) (tensor : BitVec 6) (cnt : BitVec 5) (isz : BitVec 2) (s : State) :
    Host.Outcome State Fault Refusal :=
  runGuarded (.scatter h g dq iq tensor cnt isz) h g (indexReady tensor) (indexBody h 1 dq iq tensor cnt isz) s
/-- SCADD. -/
def execScadd (h : Hdr) (g : Guard) (dq iq : BitVec 4) (tensor : BitVec 6) (cnt : BitVec 5) (isz : BitVec 2) (s : State) :
    Host.Outcome State Fault Refusal :=
  runGuarded (.scadd h g dq iq tensor cnt isz) h g (indexReady tensor) (indexBody h 2 dq iq tensor cnt isz) s

/-- A zero substitution: counted in the slot and on the die, and noticed once per job per tensor (R391). -/
def State.zeroSub (s : State) (w : Who) (tnum : Nat) : State :=
  let s := s.count (whoDie w) 0x070 1
  match s.jobOf? w, w with
  | some j, .eng d c _ _ =>
    let s := s.updJobOf w fun j => { j with zsub := j.zsub + 1, zsubTensors := if j.zsubTensors.contains tnum then j.zsubTensors else tnum :: j.zsubTensors }
    if j.zsubTensors.contains tnum then s else s.notice d .zeroSub c.val (handleOf j.gen j.idx)
  | _, _ => s

/-- Bytes shifted down by a nibble: an INT4 row that begins in the middle of a byte. -/
def nibbleDown (l : List (Byte × Bool)) : List (Byte × Bool) :=
  (l.zip (l.drop 1)).map fun (a, b) => (BitVec.ofNat 8 (a.1.toNat / 16 + 16 * (b.1.toNat % 16)), a.2 || b.2)

/-- What became of one element add: its flags and the state it leaves, or its stop, or another package has still to answer. -/
inductive Added where
  | ok (f : FlagSet) (s : State)
  | stop (st : Stop) (s : State)
  | wait

/-- One element add at an address (R256). Where the element is another package's, the add is performed there, and `got`, the old value's bytes it
answers with, gives the flags the add raises; an integer add raises none and is not waited for (log 97). -/
def State.addElement (s : State) (w : Who) (f : Flight) (fm : BitVec 5) (va b v : Nat) (pois : Bool) (got : Option (List Byte)) : Added :=
  let d := whoDie w
  let wd := fmtWidth fm
  let n := cdiv wd 8
  let upd (old : Nat) : Nat × FlagSet :=
    let e := old / 2 ^ b % 2 ^ wd
    let r := elementAdd fm (effMode 6 true f.rm) e v
    (old - e * 2 ^ b + r.1 * 2 ^ b, r.2)
  if segKind (s.seg d (s.asnOf w) (bufOf va)) = 1 then .stop { cause := .atomicKind, info0 := BitVec.ofNat 64 va } s
  else match s.translate d (whoCore w) (s.asnOf w) va n true with
    | .ok (p@(.remote pkg incarn a pksel adp _), t) =>
      if t.targetDead pkg incarn then .ok 0 (t.gone w pkg incarn true)
      else match t.egress d pkg pksel adp false incarn (.atomic (BitVec.ofNat 5 (9 + fm.toNat)) a (BitVec.ofNat 2 (Nat.log2 n)) (BitVec.ofNat 64 v)
        (BitVec.ofNat 64 (8 * effMode 6 true f.rm + b)) pois) with
        | .error .partition => .stop { cause := .partition, info0 := BitVec.ofNat 64 va } s
        | .error .unreachable => .ok 0 (t.gone w pkg incarn true)
        | .ok t =>
          let t := t.dropA w p
          if fmtIsInt fm then .ok 0 (t.sendOut d (s.recOf w) (whoNum w, f.id) pkg incarn (!adp))
          else match got with
            | none => .wait
            | some l =>
              if l.length = 1 then .stop { cause := .partition, info0 := BitVec.ofNat 64 va } s
              else if l.length < n then .ok 0 (t.gone w pkg incarn true)
              else .ok (upd (leNat (l.take n))).2 t
    | .ok (.dead, t) => .ok 0 (t.gone w 0 0 true)
    | _ => match s.rmw w va n upd false pois with
      | .error st => .stop st s
      | .ok (_, k, s) => .ok k s

/-- How far the element adds of one SCADD row have come: all are done; the one of element k stops, or waits for another package. -/
inductive RowAdds where
  | done
  | stop (st : Stop) (k : Nat)
  | wait (k : Nat)

/-- The element adds of one SCADD row from element k on, in element order (R256): their flags, the state they leave, and how far they came. Adds
before a stop stay done. `got` holds another package's answers, each an element's bytes and a byte that is not zero where it is poisoned. -/
def State.scaddRow (s : State) (w : Who) (f : Flight) (t : BitVec 256) (idx k : Nat) (d : List (Byte × Bool)) (got : Option (List Byte)) :
    FlagSet × State × RowAdds :=
  let fm := tFmt t
  let wd := fmtWidth fm
  let n := cdiv wd 8
  let r := ((List.range (tCols t)).drop k).foldl (fun (m : FlagSet × State × Option (List Byte) × RowAdds) j =>
    match m with
    | (fl, s, g, .done) =>
      let (o, b) := tElem t idx j
      let raw := (d.drop (j * wd / 8)).take n
      let v := leNat (raw.map (·.1))
      match s.addElement w f fm ((tBase t + o) % 2 ^ 64) b (if fm = 1 then v / 16 ^ (j % 2) % 16 else v) (raw.any (·.2))
        (if g = some [] ∧ got ≠ some [] then none else g) with
      | .ok k s' => (fl ||| k, s', if s'.outbox.length = s.outbox.length then g else g.map fun x => x.drop (n + 1), .done)
      | .stop st s => (fl, s, g, .stop st j)
      | .wait => (fl, s, g, .wait j)
    | m => m) ((0 : FlagSet), s, got, .done)
  (r.1, r.2.1, r.2.2.2)

/-- Why a row's bytes cannot be written yet, or what they are: all of them, or those before one that cannot be reached. -/
inductive RowData where
  | ok (l : List (Byte × Bool)) (s : State)
  | part (l : List (Byte × Bool)) (st : Stop) (s : State)
  | wait

/-- The bytes a SCATTER row writes: an INT4 row that begins in the middle of a byte keeps the neighbours' nibbles of its first and its last byte, and
a byte is marked where one of its own elements is (R259). Where the last byte's page does not translate, the bytes before it are written (R243). -/
def State.scatterData (s : State) (w : Who) (t : BitVec 256) (idx : Nat) (d : List (Byte × Bool)) (got : Option (List Byte)) : RowData :=
  let (a, b) := rowStart t idx
  let n := d.length
  let row (first last : Byte) : List (Byte × Bool) :=
    ((((first, false) :: d).zip (d ++ [(last >>> 4, false)])).zipIdx).map fun ((x, y), i) =>
      (BitVec.ofNat 8 ((if i = 0 then x.1.toNat % 16 else x.1.toNat / 16) + 16 * (y.1.toNat % 16)), x.2 || y.2)
  if b = 0 then .ok d s
  else match s.oldByte w a got with
    | .wait => .wait
    | .stop st s => .part [] st s
    | .ok first s =>
      match s.oldByte w ((a + n) % 2 ^ 64) (got.map fun g => if g.length ≤ replyBytes then g else g.drop replyBytes) with
      | .wait => .wait
      | .stop st s => .part ((row first 0).take n) st s
      | .ok last s => .ok (row first last) s

/-- Is an index the invalid one, or beyond the table (R254)? -/
def indexInval (isz : BitVec 2) (idx : Nat) : Bool := idx == 2 ^ (8 * 2 ^ isz.toNat) - 1
def indexOor (isz : BitVec 2) (t : BitVec 256) (idx : Nat) : Bool := !indexInval isz idx && decide (tRows t ≤ idx)

/-- The next index is popped and counted (R254); GATHER reserves its row's places in the data-out queue with it, for which it waits. -/
def State.indexPop (s : State) (w : Who) (f : Flight) (op : BitVec 2) (dq iq : BitVec 4) (t : BitVec 256) (tnum : Nat) (isz : BitVec 2) (n done : Nat) :
    State :=
  match s.jobOf? w, s.stream? w with
  | some j, some st =>
    let ic := j.qcfg iq.toNat
    let now := s.timeOf w
    let b := 2 ^ isz.toNat
    let ne := sinkElems ic b
    let rb := fmtBytes (tFmt t) (tCols t)
    if (j.dq iq.toNat).ready ic now < ne || !st.popsClear f.id iq.toNat || (op == 0 && !j.dqRoom dq.toNat rb) then s
    else match (j.dq iq.toNat).badPop ic ne with
    | some e => s.stopFlight w f (stopOf e)
    | none =>
      let r := (j.dq iq.toNat).deliver ic ne f.rm
      let idx := leNat (r.1.map (·.1))
      let s := s.updJobOf w fun j =>
        { (j.updDq iq.toNat fun x => x.remove ic ne) with
          inval := if indexInval isz idx then min (j.inval + 1) (2 ^ 32 - 1) else j.inval
          oor := if indexOor isz t idx then min (j.oor + 1) (2 ^ 32 - 1) else j.oor }
      let s := if op = 0 then s.updJobOf w fun j => (j.dqMake dq.toNat rb).updDq dq.toNat fun x => x.reserve f.id rb else s
      let inside := !indexInval isz idx && !indexOor isz t idx
      let c : IndexCur := { idx := idx, since := now, waited := op == 0 && inside && s.behindStore w f [rowRange t idx] }
      let s := s.updStream w fun st => st.updFlight f.id fun y =>
        { y with effs := y.effs ++ flagEff r.2, work := .index op dq iq t tnum isz n done (some c) }
      if op ≠ 0 ∧ done + 1 = n then s.startReads w f else s
  | _, _ => s

/-- The row of a popped index is moved (R254, R256, R259). `got` is what another package supplies. -/
def State.indexRow (s : State) (w : Who) (f : Flight) (op : BitVec 2) (dq iq : BitVec 4) (t : BitVec 256) (tnum : Nat) (isz : BitVec 2)
    (n done : Nat) (c : IndexCur) (got : Option (List Byte)) : State :=
  match s.jobOf? w, s.stream? w with
  | some j, some st =>
    let dc := j.qcfg dq.toNat
    let now := s.timeOf w
    let rb := fmtBytes (tFmt t) (tCols t)
    let bad := indexInval isz c.idx || indexOor isz t c.idx
    -- a scatter's last row leaves the word waiting for its acknowledgement
    let advance (s : State) : State :=
      if done + 1 = n ∧ op = 0 then s.completeAccess w f
      else
        let s := s.updStream w fun st => st.updFlight f.id fun y => { y with work := .index op dq iq t tnum isz n (done + 1) none }
        if op ≠ 0 ∧ done + 1 = n then s.startReads w f else s
    let part (k : Nat) (s : State) : State := s.updStream w fun st => st.updFlight f.id fun y =>
      { y with work := .index op dq iq t tnum isz n done (some { c with part := k }) }
    let (a, k) := rowRange t c.idx
    if op = 0 then
      let put (l : List (Byte × Bool)) (s : State) : State := s.updJobOf w fun j => j.updDq dq.toNat fun x => x.fill f.id now l
      if bad then advance (put (List.replicate rb (0, false)) s)
      else if !s.mayAccess w f [(a, k)] true then s
      else match s.readRun w a k (!c.waited) got with
        | (_, .wait) => s
        -- what came before a page that fails has been pushed (R243)
        | (l, .stop st s) => (put (if k = rb then l else nibbleDown l) s).stopFlight w f st
        | (l, .ok _ s) =>
          let l := if k = rb then l else nibbleDown l
          let zero := l.any (·.2) && tUepol t == 1
          let s := if zero then s.zeroSub w tnum else s
          advance ((put (if zero then List.replicate rb ((0 : Byte), false) else l) s).updJobOf w fun j => j.moved (bufOf (tBase t)) rb)
    else
      let cols := tCols t
      let x := j.dq dq.toNat
      if x.ready dc now < cols || !st.popsClear f.id dq.toNat || (!bad && !s.mayAccess w f [(a, k)] false) then s
      else if x.badPop dc cols = some .queueUe then s.stopFlight w f (stopOf .queueUe)
      else
        let d := x.deliver dc cols f.rm
        let pop (s : State) : State := s.updJobOf w fun j => j.updDq dq.toNat fun y => y.remove dc cols
        let flags (fl : FlagSet) (s : State) : State := s.updStream w fun st => st.updFlight f.id fun y => { y with effs := y.effs ++ flagEff fl }
        let gone (s : State) : State := advance (pop ((flags d.2 s).updJobOf w fun j => if bad then j else { (j.moved (bufOf (tBase t)) rb) with stall := 0 }))
        -- a stop that leaves the row to be gone on with keeps its data in the queue
        let halt (st : Stop) (k : Nat) (s : State) : State := (if st.cause = .ubNoframe then part k s else pop s).stopFlight w f st
        -- the row's bytes are written, and then the stop taken that kept the rest of them out
        let write (l : List (Byte × Bool)) (then_ : Option Stop) (s : State) : State :=
          match s.writeVa w f.id ((a + c.part) % 2 ^ 64) (l.drop c.part) with
          | .error (st, s') => halt st (((st.info0.getD 0).toNat + 2 ^ 64 - a) % 2 ^ 64) s'
          | .ok s => match then_ with
            | some st => halt st l.length s
            | none => gone s
        if bad then gone s
        else if op = 1 then
          match s.scatterData w t c.idx d.1 got with
          | .wait => s
          | .ok l s => write l none s
          | .part l st s => write l (some st) s
        else
          match s.scaddRow w f t c.idx c.part d.1 got with
          | (fl, s, .stop st j) => halt st j (s.applyEffs w (flagEff fl))
          | (fl, s, .wait j) => part j (flags fl s)
          | (fl, s, .done) => gone (flags fl s)
  | _, _ => s

/-- One index of GATHER, SCATTER or SCADD (R254): the index is popped, then its row is moved as soon as it can be. -/
def State.indexStep (s : State) (w : Who) (f : Flight) (op : BitVec 2) (dq iq : BitVec 4) (t : BitVec 256) (tnum : Nat) (isz : BitVec 2)
    (n done : Nat) (cur : Option IndexCur) (got : Option (List Byte)) : State :=
  match cur with
  | some c => s.indexRow w f op dq iq t tnum isz n done c got
  | none =>
    let s := s.indexPop w f op dq iq t tnum isz n done
    match (s.stream? w).bind fun st => st.flights.find? fun g => g.id == f.id && !g.halted with
    | some g => match g.work with
      | .index _ _ _ _ _ _ _ _ (some c) => s.indexRow w g op dq iq t tnum isz n done c got
      | _ => s
    | none => s

/-! ## Atomics (R257, R258) -/

/-- Issues an atomic: opcode less 0x079. -/
def atomicBody (h : Hdr) (op : BitVec 4) (d base r : BitVec 5) (size : BitVec 2) (scope : BitVec 3) (off12 : BitVec 12) : Body := fun s =>
  let va := s.addr base (sx64 off12)
  let b := 2 ^ size.toNat
  if size.toNat < 2 || (op == 8 && size != 2) || va.toNat % b != 0 then .error { cause := .align, info0 := va }
  else if segKind (s.seg (whoDie s.cur) (s.asnOf s.cur) (bufOf va.toNat)) = 1 then .error { cause := .atomicKind, info0 := va }
  else match s.firstPage va.toNat b true with
    | .error st => .error st
    | .ok s =>
      let low (v : Word) : Word := BitVec.ofNat 64 (v.toNat % 2 ^ (8 * b))
      s.launchAccess h.tks (.atomic op va size (low (s.readX 1 r)) (low (s.readX 2 d)) scope d)

/-- AADD. -/
def execAadd (h : Hdr) (g : Guard) (d base r : BitVec 5) (size : BitVec 2) (scope : BitVec 3) (off12 : BitVec 12) (s : State) :
    Host.Outcome State Fault Refusal :=
  runGuarded (.aadd h g d base r size scope off12) h g (addrReady base (sx64 off12)) (atomicBody h 0 d base r size scope off12) s
/-- AMIN. -/
def execAmin (h : Hdr) (g : Guard) (d base r : BitVec 5) (size : BitVec 2) (scope : BitVec 3) (off12 : BitVec 12) (s : State) :
    Host.Outcome State Fault Refusal :=
  runGuarded (.amin h g d base r size scope off12) h g (addrReady base (sx64 off12)) (atomicBody h 1 d base r size scope off12) s
/-- AMAX. -/
def execAmax (h : Hdr) (g : Guard) (d base r : BitVec 5) (size : BitVec 2) (scope : BitVec 3) (off12 : BitVec 12) (s : State) :
    Host.Outcome State Fault Refusal :=
  runGuarded (.amax h g d base r size scope off12) h g (addrReady base (sx64 off12)) (atomicBody h 2 d base r size scope off12) s
/-- AAND. -/
def execAand (h : Hdr) (g : Guard) (d base r : BitVec 5) (size : BitVec 2) (scope : BitVec 3) (off12 : BitVec 12) (s : State) :
    Host.Outcome State Fault Refusal :=
  runGuarded (.aand h g d base r size scope off12) h g (addrReady base (sx64 off12)) (atomicBody h 3 d base r size scope off12) s
/-- AOR. -/
def execAor (h : Hdr) (g : Guard) (d base r : BitVec 5) (size : BitVec 2) (scope : BitVec 3) (off12 : BitVec 12) (s : State) :
    Host.Outcome State Fault Refusal :=
  runGuarded (.aor h g d base r size scope off12) h g (addrReady base (sx64 off12)) (atomicBody h 4 d base r size scope off12) s
/-- AXOR. -/
def execAxor (h : Hdr) (g : Guard) (d base r : BitVec 5) (size : BitVec 2) (scope : BitVec 3) (off12 : BitVec 12) (s : State) :
    Host.Outcome State Fault Refusal :=
  runGuarded (.axor h g d base r size scope off12) h g (addrReady base (sx64 off12)) (atomicBody h 5 d base r size scope off12) s
/-- AXCHG. -/
def execAxchg (h : Hdr) (g : Guard) (d base r : BitVec 5) (size : BitVec 2) (scope : BitVec 3) (off12 : BitVec 12) (s : State) :
    Host.Outcome State Fault Refusal :=
  runGuarded (.axchg h g d base r size scope off12) h g (addrReady base (sx64 off12)) (atomicBody h 6 d base r size scope off12) s
/-- ACAS. -/
def execAcas (h : Hdr) (g : Guard) (d base r : BitVec 5) (size : BitVec 2) (scope : BitVec 3) (off12 : BitVec 12) (s : State) :
    Host.Outcome State Fault Refusal :=
  runGuarded (.acas h g d base r size scope off12) h g (addrReady base (sx64 off12)) (atomicBody h 7 d base r size scope off12) s
/-- AFADD. -/
def execAfadd (h : Hdr) (g : Guard) (d base r : BitVec 5) (size : BitVec 2) (scope : BitVec 3) (off12 : BitVec 12) (s : State) :
    Host.Outcome State Fault Refusal :=
  runGuarded (.afadd h g d base r size scope off12) h g (addrReady base (sx64 off12)) (atomicBody h 8 d base r size scope off12) s

/-- Is every write a release covers acknowledged at the scope (R268, R269)? -/
def State.released (s : State) (w : Who) (f : Flight) (scope : BitVec 3) : Bool :=
  match w, s.jobOf? w, s.stream? w with
  | .eng d _ _ e, some j, some st =>
    let own := st.flights.any fun g => decide (g.id < f.id) && g.work.isWrite
    let acquired := f.cov.any fun i => if 4 ≤ scope.toNat then s.pendingWrite d (s.recOf w) i else j.outstanding i
    let far := decide (4 ≤ scope.toNat) && s.remoteOut.any fun o =>
      o.die == d && o.jrec == s.recOf w && o.wid.1 == e.idx.val && decide (o.wid.2 < f.id)
    !own && !acquired && !far
  | .sys d, _, _ => (s.covers w f.id ++ f.cov.filter fun i => s.pendingWrite d 0 i) == []
  | _, _, _ => true

/-- Is every earlier read of A's stream back (R275)? Of one that rests while its job stops, the part it has read is back (R42, log 116). -/
def State.readsBack (s : State) (w : Who) (f : Flight) : Bool :=
  match s.stream? w with
  | some st => st.flights.all fun g => !decide (g.id < f.id) || (match g.work with
    | .load .. => !s.mayStep w
    | .index op .. => op != 0 || !s.mayStep w
    | wk => !wk.isOut)
  | none => true

/-- Is every earlier RWB and RINV of the stream over (R275)? -/
def State.backsOver (s : State) (w : Who) (f : Flight) : Bool :=
  match s.stream? w with
  | some st => st.flights.all fun g => !decide (g.id < f.id) || !g.work.isBack
  | none => true

/-- An atomic with a SCOPE completes as its value returns (R242); what is left is the ACQ that follows it and holds A's later reads while earlier
ones are out (R258, R275): it sends no token. -/
def State.leaveAcq (s : State) (w : Who) (f : Flight) (scope : BitVec 3) : State :=
  s.updStream w fun st =>
    if st.flights.any fun g => g.id == f.id then st
    else { st with flights := (st.flights.filter fun g => decide (g.id < f.id)) ++ { f with effs := [], tks := 0, work := .acq scope, land := none } ::
      st.flights.filter fun g => decide (f.id < g.id) }

/-- An atomic is performed and its old value returned (R257-R259); for a remote one `got` is the old value's bytes, and one more that is not zero
where it is poisoned. With a SCOPE it is performed once the REL before it is over, and the ACQ after it waits for earlier reads (R258). -/
def State.atomicStep (s : State) (w : Who) (f : Flight) (op : BitVec 4) (va : Word) (size : BitVec 2) (x cmp : Word) (scope : BitVec 3)
    (d : BitVec 5) (got : Option (List Byte)) : State :=
  let b := 2 ^ size.toNat
  let rs := [(va.toNat, b)]
  if !s.mayAccess w f rs true || (scope != 0 && !(s.released w f scope && s.backsOver w f)) then s
  else
    let finish (s : State) (old : Nat) (fl : FlagSet) : State :=
      let s := s.updJobOf w fun j => { (j.moved (bufOf va.toNat) b) with stall := 0 }
      let effs := .x d (BitVec.ofNat 64 old) :: flagEff fl
      if scope = 0 then s.completeAccess w { f with effs := effs }
      else if s.readsBack w f then (s.acquire w).completeAccess w { f with effs := effs }
      else (s.completeAccess w { f with effs := effs }).leaveAcq w f scope
    match s.translate (whoDie w) (whoCore w) (s.asnOf w) va.toNat b true f.page with
    | .error e => s.stopFlight w f { cause := e.cause, info0 := va }
    | .ok (.dead, s) => (s.gone w 0 0 false).stopFlight w f { cause := .poison, info0 := va }
    | .ok (p@(.remote pkg incarn a pksel adp _), s1) =>
      if s1.targetDead pkg incarn then (s1.gone w pkg incarn false).stopFlight w f { cause := .poison, info0 := va }
      else match s1.egress (whoDie w) pkg pksel adp false incarn (.atomic (op.zeroExtend 5) a size x (if op = 8 then BitVec.ofNat 64 (8 * effMode 6 true f.rm) else cmp) false) with
        | .error .partition => s1.stopFlight w f { cause := .partition, info0 := va }
        | .error .unreachable => (s1.gone w pkg incarn false).stopFlight w f { cause := .poison, info0 := va }
        | .ok s2 =>
          match got with
          | none => s
          | some l =>
            if l.length = 1 then s2.stopFlight w f { cause := .partition, info0 := va }
            else if l.length < b then (s2.gone w pkg incarn false).stopFlight w f { cause := .poison, info0 := va }
            else if l.getD b 0 ≠ 0 then s2.stopFlight w f { cause := .poison, info0 := va }
            else
              let s2 := s2.dropA w p
              let old := leNat (l.take b)
              finish s2 old (atomicValue op.toNat size.toNat (effMode 6 true f.rm) old x.toNat cmp.toNat).2
    | .ok (.line .., _) =>
      match s.rmw w va.toNat b (fun old => atomicValue op.toNat size.toNat (effMode 6 true f.rm) old x.toNat cmp.toNat) true false f.page with
      | .error st => s.stopFlight w f st
      | .ok (old, fl, s) => finish s old fl

/-! ## RPROBE, LOCK, UNLOCK (R227, R230) -/

/-- Has the page of an address a leaf (R222)? -/
def State.pageFramed (s : State) (w : Who) (va : Nat) : Bool :=
  let e := s.seg (whoDie w) (s.asnOf w) (bufOf va)
  (s.tlbOf w va).isSome || (segHasRoot e && (s.walk (va % 2 ^ 52) (segKind e == 0 || segKind e == 3) 5 (segRoot e)).isSome)

/-- The ABSENT lines of unframed pages, and the framed 4 KiB pages, of a range; or the failure with its address (R227). -/
def State.probeRange (s : State) (va len : Nat) (write : Bool) : Except (XFail × Nat) (List (Nat × DieId) × Nat × State) :=
  let pages := (List.range ((va % 4096 + len - 1) / 4096 + 1)).map fun i =>
    let lo := if i = 0 then va else (va / 4096 + i) * 4096
    (lo % 2 ^ 64, min (va + len) ((va / 4096 + i + 1) * 4096) - lo)
  pages.foldl (fun m p =>
    match m with
    | .error e => .error e
    | .ok (abs, framed, s) =>
      match s.translate (whoDie s.cur) (whoCore s.cur) (s.asnOf s.cur) p.1 p.2 write with
      | .error x => .error (x, p.1)
      | .ok (.line key _ home _ _ true, s) =>
        let keys := (List.range ((p.1 % 128 + p.2 - 1) / 128 + 1)).map fun i => key + 3 * i
        .ok (abs ++ (keys.filter fun k => (s.masters.get? k).isNone).map fun k => (k, home), framed, s)
      -- an unframed page of a fenced home is neither framed nor there to be reserved (R404; log 98)
      | .ok (.dead, s) => .ok (abs, if s.pageFramed s.cur p.1 then framed + 1 else framed, s)
      | .ok (_, s) => .ok (abs, framed + 1, s)) (Except.ok ([], 0, s))

/-- Puts a word in flight whose register is known and returns later: its buffer is busy until it completes (R381). -/
def State.launchTouch (s : State) (tks : BitVec 4) (effs : List Eff) (w : Work) : Except Stop (State × Flow) :=
  let s := match w.buf? with
    | some b => s.updJb fun j => j.busy b
    | none => s
  .ok (s.launchWord tks none effs w, .fall)

/-- RPROBE: everything is checked and reserved at issue; the register returns later (R227, R232). -/
def probeBody (h : Hdr) (d base len : BitVec 5) (kind : BitVec 2) : Body := fun s =>
  let va := (s.readX 0 base).toNat
  let n := (s.readX 1 len).toNat
  let land (s : State) (v : Nat) : Except Stop (State × Flow) :=
    s.launchTouch h.tks [.x d (BitVec.ofNat 64 v)] (.probe (BitVec.ofNat 64 va) (BitVec.ofNat 64 n) kind d)
  if n = 0 then land s 0
  else match s.probeRange va n (kind != 0) with
    | .error (x, a) => .error { cause := x.probeCause, info0 := BitVec.ofNat 64 a }
    | .ok (abs, framed, s') =>
      let unb := segKind (s.seg (whoDie s.cur) (s.asnOf s.cur) (bufOf va)) = 3
      if kind ≠ 2 ∨ ¬ unb ∨ abs = [] then land s' framed
      else
        let j := s'.jb
        let r := s'.recOf s'.cur
        let need := j.ubused + abs.length
        let locked := s'.lockedBy (whoDie s'.cur) r
        let grown := max j.ubres.toNat need
        let home := (abs.headD (0, 0)).2
        let short := max (max (locked + grown - j.llcq.toNat) (s'.pinned home + abs.length - pinBound)) (grown - (2 ^ 24 - 1))
        if short ≠ 0 then .error { cause := .ubReserve, info0 := BitVec.ofNat 64 va, info1 := BitVec.ofNat 64 short }
        else
          let line : Line := { ub := true, charge := some ((whoDie s'.cur).val, r) }
          let s' := abs.foldl (fun s k => let s := s.makeRoom k.2; { s with masters := s.masters.put k.1 { line with home := k.2 } }) s'
          land (s'.updJb fun j => { j with ubres := BitVec.ofNat 24 grown, ubused := need }) (abs.length * 2 ^ 32 + framed)

/-- RPROBE waits until every earlier access of A's stream is back or acknowledged (R227). -/
def probeReady (base : BitVec 5) (s : State) : Bool :=
  !s.bufHeld s.cur (s.readX 0 base).toNat && s.str.flights.all fun f => !f.work.inWindow && (match f.work with
    | .ubdisc .. => false
    | _ => true)

/-- RPROBE. -/
def execRprobe (h : Hdr) (g : Guard) (d base len : BitVec 5) (kind : BitVec 2) (s : State) : Host.Outcome State Fault Refusal :=
  runGuarded (.rprobe h g d base len kind) h g (probeReady base) (probeBody h d base len kind) s

/-- A line LOCK can pin: its key, its home, and whether it is pinned as this die's copy (R230). -/
structure LockLine where
  key : Nat
  home : DieId
  asCopy : Bool
  deriving DecidableEq, Repr

/-- A place of a buffer as LOCK sees it: lines of LPDDR and HOST buffers are cacheable; a SWM = 1 line is pinned in the issuing die (R230). -/
def Place.lockLine (p : Place) (unbacked : Bool) (d : DieId) : Option LockLine :=
  match p with
  | .line key _ home swm _ _ => if unbacked then none else some { key := key, home := home, asCopy := swm && decide (d ≠ home) }
  | _ => none

/-- The lines of a range, translated as a read (R230): none for one that is not cacheable. -/
def State.lockLines (s : State) (va len : Nat) : Except Stop (List (Option LockLine) × State) :=
  let d := whoDie s.cur
  (rangeLines va len).foldl (fun m a =>
    match m with
    | .error e => .error e
    | .ok (l, s) =>
      let a := if a = va / 128 * 128 then va else a
      match s.translate d (whoCore s.cur) (s.asnOf s.cur) a 1 false with
      | .error x => .error { cause := x.cause, info0 := BitVec.ofNat 64 a }
      | .ok (p, s) => .ok (l ++ [p.lockLine (segKind (s.seg d (s.asnOf s.cur) (bufOf a)) == 3) d], s)) (Except.ok ([], s))

/-- The records that lock a line as die d's copy, and at its home, to which a migration moves locks of the old home's jobs (R230, R238). -/
def State.copyLocks (s : State) (d : DieId) (k : LockLine) : List (Nat × Nat) := if k.asCopy then (((s.die d).copies.get? k.key).map (·.locks)).getD [] else []
def State.homeLocks (s : State) (k : LockLine) : List (Nat × Nat) := ((s.masters.get? k.key).map (·.locks)).getD []
def State.locksOf (s : State) (d : DieId) (k : LockLine) : List (Nat × Nat) := s.copyLocks d k ++ s.homeLocks k

/-- Is a line pinned already where die d would pin it: locked, or a reserved unbacked line (R229)? -/
def State.lineKept (s : State) (d : DieId) (k : LockLine) : Bool :=
  if k.asCopy then s.copyLocks d k != []
  else s.homeLocks k != [] || (s.masters.get? k.key).any (·.ub)

/-- Pins a line for a job; a line not in the cache is fetched (R230). -/
def State.pinLine (s : State) (d : DieId) (asn : BitVec 8) (k : LockLine) (me : Nat × Nat) : State :=
  if k.asCopy then
    let s := if ((s.die d).copies.get? k.key).isSome then s else s.makeRoom d
    let c := ((s.die d).copies.get? k.key).getD (s.newCopy k.key asn k.home [])
    s.updDie d fun x => { x with copies := x.copies.put k.key { c with locks := me :: c.locks } }
  else
    let l := (s.masters.get? k.key).getD (s.newLine k.key k.home)
    let s := if (s.masters.get? k.key).isSome then s else s.makeRoom k.home
    { s with masters := s.masters.put k.key { l with locks := me :: l.locks } }

/-- Takes a job's lock off a line, wherever it stands. -/
def State.unpinLine (s : State) (d : DieId) (k : LockLine) (me : Nat × Nat) : State :=
  let s := match (if k.asCopy then (s.die d).copies.get? k.key else none) with
    | some c => s.updDie d fun x => { x with copies := x.copies.put k.key { c with locks := c.locks.filter (· != me) } }
    | none => s
  match s.masters.get? k.key with
  | some l => { s with masters := s.masters.put k.key { l with locks := l.locks.filter (· != me) } }
  | none => s

/-- LOCK (R229, R230). -/
def lockBody (h : Hdr) (d base len : BitVec 5) : Body := fun s =>
  let va := (s.readX 0 base).toNat
  let n := (s.readX 1 len).toNat
  let land (s : State) (v : Nat) : Except Stop (State × Flow) :=
    s.launchTouch h.tks [.x d (BitVec.ofNat 64 v)] (.lock true (BitVec.ofNat 64 va) (BitVec.ofNat 64 n) d)
  match s.lockLines va n with
  | .error st => .error st
  | .ok (ps, s) =>
    let dd := whoDie s.cur
    let me := (dd.val, s.recOf s.cur)
    let fresh := ((ps.filterMap id).eraseDups).filter fun k => !(s.locksOf dd k).contains me
    let status := if ps.contains none then 1 else 0
    let quota := decide (s.jb.llcq.toNat < s.lockedBy dd me.2 + fresh.length + s.jb.ubres.toNat)
    let newly (x : DieId) : Nat := (fresh.filter fun k => (if k.asCopy then dd else k.home) == x && !s.lineKept dd k).length
    let bound := (List.finRange 4).any fun x => decide (pinBound < s.pinned x + newly x) && newly x != 0
    if quota || bound then land s 2
    else land (fresh.foldl (fun s k => s.pinLine dd (s.asnOf s.cur) k me) s) (status + fresh.length * 2 ^ 32)

/-- UNLOCK (R230). -/
def unlockBody (h : Hdr) (d base len : BitVec 5) : Body := fun s =>
  let va := (s.readX 0 base).toNat
  let n := (s.readX 1 len).toNat
  match s.lockLines va n with
  | .error st => .error st
  | .ok (ps, s) =>
    let dd := whoDie s.cur
    let me := (dd.val, s.recOf s.cur)
    let mine := ((ps.filterMap id).eraseDups).filter fun k => (s.locksOf dd k).contains me
    let s := mine.foldl (fun s k => s.unpinLine dd k me) s
    s.launchTouch h.tks [.x d (BitVec.ofNat 64 (mine.length * 2 ^ 32))] (.lock false (BitVec.ofNat 64 va) (BitVec.ofNat 64 n) d)

/-- Not to a held buffer. -/
def rangeReady (base : BitVec 5) (s : State) : Bool := !s.bufHeld s.cur (s.readX 0 base).toNat

/-- LOCK. -/
def execLock (h : Hdr) (g : Guard) (d base len : BitVec 5) (s : State) : Host.Outcome State Fault Refusal :=
  runGuarded (.lock h g d base len) h g (rangeReady base) (lockBody h d base len) s
/-- UNLOCK. -/
def execUnlock (h : Hdr) (g : Guard) (d base len : BitVec 5) (s : State) : Host.Outcome State Fault Refusal :=
  runGuarded (.unlock h g d base len) h g (rangeReady base) (unlockBody h d base len) s

/-! ## RWB, RINV, UBDISC, PREF (R236, R260-R263) -/

/-- Issues RWB or RINV. -/
def backBody (h : Hdr) (inv : Bool) (base len : BitVec 5) (scope : BitVec 3) (level : BitVec 2) : Body := fun s =>
  let va := s.readX 0 base
  let n := s.readX 1 len
  if 2 ^ 32 < n.toNat then .error (stopOf .lenRange)
  else if n = 0 then asNop h s
  else match s.firstPage va.toNat n.toNat false with
    | .error st => .error st
    | .ok s => s.launchAccess h.tks (.wback inv va n scope level)

/-- RWB. -/
def execRwb (h : Hdr) (g : Guard) (base len : BitVec 5) (scope : BitVec 3) (level : BitVec 2) (s : State) : Host.Outcome State Fault Refusal :=
  runGuarded (.rwb h g base len scope level) h g (rangeReady base) (backBody h false base len scope level) s
/-- RINV. -/
def execRinv (h : Hdr) (g : Guard) (base len : BitVec 5) (scope : BitVec 3) (level : BitVec 2) (s : State) : Host.Outcome State Fault Refusal :=
  runGuarded (.rinv h g base len scope level) h g (rangeReady base) (backBody h true base len scope level) s

/-- UBDISC (R236). -/
def execUbdisc (h : Hdr) (g : Guard) (base len : BitVec 5) (scope : BitVec 3) (level : BitVec 2) (s : State) : Host.Outcome State Fault Refusal :=
  runGuarded (.ubdisc h g base len scope level) h g (rangeReady base) (fun s =>
    let va := s.readX 0 base
    let n := s.readX 1 len
    if n = 0 then asNop h s
    else if segKind (s.seg (whoDie s.cur) (s.asnOf s.cur) (bufOf va.toNat)) ≠ 3 then .error { cause := .segBad, info0 := va }
    else match s.firstPage va.toNat n.toNat true with
      | .error st => .error st
      | .ok s => s.launchAccess h.tks (.ubdisc va n)) s

/-- A line enters the die cache PREF names, where there is room: at its home for SWM = 0, as the issuing die's copy for SWM = 1 (R263). -/
def State.prefCache (s : State) (d : DieId) (asn : BitVec 8) (p : Place) : State :=
  match p with
  | .line key _ home swm _ _ =>
    let x := if swm then d else home
    if s.cacheFull x then s
    else if x ≠ home then s.touchCopy d asn p
    else if (s.masters.get? key).isSome then s else { s with masters := s.masters.put key (s.newLine key home) }
  | _ => s

/-- A PREF's fill of a REMOTE line is asked for; while ORD packets to its package wait for a changed route, it waits with them (R367). -/
def State.askFill (s : State) (w : Who) (c : CoreId) (p : Place) (fill : Fill) (va : Nat) : State :=
  let d := whoDie w
  match p with
  | .remote pkg incarn a pksel adp _ =>
    if s.targetDead pkg incarn then s
    else if s.ordHeld w (bufOf va) then s.updCore d c fun x => { x with fills := x.fills ++ [{ fill with unsent := some (BitVec.ofNat 64 va) }] }
    else match s.egress d pkg pksel adp false incarn (.load (a / 128 * 128) 128) with
      | .ok s => s.updCore d c fun x => { x with fills := x.fills ++ [fill] }
      | .error _ => s
  | _ => s

/-- A line enters the core's L1, where there is room; a REMOTE one is asked for, and enters when it comes (R263). -/
def State.prefL1 (s : State) (c : CoreId) (id va : Nat) (p : Place) : State :=
  match s.cur, p.l1Key with
  | .eng d _ k _, some (key, _) =>
    if 512 ≤ (s.core d c).l1.length || (s.l1Find d c key).isSome then s
    else match p with
      | .line lk _ home swm poison ub =>
        let r := s.readPlace d (.line lk 0 home swm poison ub) 128
        s.l1Fill d c key (lineOf r.1) r.2
      | _ => s.askFill s.cur c p { slot := k, id := id, key := key, page := s.tlbOf s.cur va } va
  | _, _ => s

/-- PREF's fill of one line, at the levels it names; an unbacked line that is absent is skipped (R263). -/
def State.prefLine (s : State) (level : BitVec 2) (id va : Nat) (p : Place) : State :=
  match whoCore s.cur with
  | none => s
  | some c =>
    if (match p with
      | .line key _ _ _ _ ub => ub && (s.masters.get? key).isNone
      | _ => false) then s
    else
      let s := if level = 0 then s else s.prefCache (whoDie s.cur) (s.asnOf s.cur) p
      if level = 1 then s else s.prefL1 c id va p

/-- PREF's fills of the lines from address a up to `end_`, in order, for at most so many lines: a page that does not translate is passed over, and
so is the rest of a buffer beyond its segment (R243, R263; which fills start is the model's choice, log 9). -/
def prefFills (level : BitVec 2) (id end_ : Nat) : Nat → Nat → State → State
  | 0, _, s => s
  | n + 1, a, s =>
    if end_ ≤ a then s
    else match s.translate (whoDie s.cur) (whoCore s.cur) (s.asnOf s.cur) (a % 2 ^ 64) 1 false with
      | .ok (p, s') => prefFills level id end_ n ((a / 128 + 1) * 128) (s'.prefLine level id (a % 2 ^ 64) p)
      | .error .seg => prefFills level id end_ n ((a / 2 ^ 52 + 1) * 2 ^ 52) s
      | .error _ => prefFills level id end_ n ((a / 4096 + 1) * 4096) s

/-- The fills of a PREF that waited for a changed route are asked for (R367). -/
def State.sendFills (s : State) (w : Who) (c : CoreId) (l : List Fill) : State :=
  l.foldl (fun s p => match p.unsent with
    | none => s
    | some va =>
      if s.ordHeld w (bufOf va.toNat) then s
      else
        let s := s.updCore (whoDie w) c fun x => { x with fills := x.fills.filter (· != p) }
        match s.translate (whoDie w) (whoCore w) (s.asnOf w) va.toNat 1 false p.page with
        | .ok (q, s) => s.askFill w c q { p with unsent := none } va.toNat
        | .error _ => s) s

/-- The lines a PREF asked another package for come, in order; one that is not served, finds the L1 full, or is too old by now, is left out
(R250, R263). -/
def State.fillReturn (s : State) (w : Who) (id : Nat) (got : List Byte) : State :=
  match w with
  | .eng d c k .a =>
    let mine := (s.core d c).fills.filter fun p => p.slot == k && p.id == id
    if mine.any fun p => p.unsent.isSome then s.sendFills w c mine
    else
      let s := s.updCore d c fun x => { x with fills := x.fills.filter fun p => !mine.contains p }
      (mine.foldl (fun (m : State × List Byte) p =>
        let l := m.2.take replyBytes
        (if p.stale || l.length < 128 || decide (512 ≤ (m.1.core d c).l1.length) then m.1
          else m.1.l1Fill d c p.key (lineOf (l.take 128)) (l.getD 128 0 != 0), m.2.drop replyBytes)) (s, got)).1
  | _ => s

/-- PREF (R263). -/
def execPref (h : Hdr) (g : Guard) (base len : BitVec 5) (scope : BitVec 3) (level : BitVec 2) (s : State) : Host.Outcome State Fault Refusal :=
  runGuarded (.pref h g base len scope level) h g (rangeReady base)
    (fun s =>
      let va := (s.readX 0 base).toNat
      let n := (s.readX 1 len).toNat
      asNop h (prefFills level s.str.nextId (va + n) (n / 128 + 2) va s)) s

/-! ## ACQ, REL, PHASE (R274, R275) and TDEF (R354) -/

/-- ACQ. -/
def execAcq (h : Hdr) (scope : BitVec 3) (s : State) : Host.Outcome State Fault Refusal :=
  runWord (.acq h scope) h always (fun s => .ok (s.launchWord h.tks none [] (.acq scope), .fall)) s
/-- REL. -/
def execRel (h : Hdr) (scope : BitVec 3) (s : State) : Host.Outcome State Fault Refusal :=
  runWord (.rel h scope) h always (fun s => .ok (s.launchWord h.tks none [] (.rel scope s.str.cov), .fall)) s
/-- PHASE. -/
def execPhase (h : Hdr) (scope : BitVec 3) (s : State) : Host.Outcome State Fault Refusal :=
  runWord (.phase h scope) h always (fun s => .ok (s.launchWord h.tks none [] (.phase scope s.str.cov), .fall)) s

/-- TDEF: checked at issue, lands at issue + 2 (R354). -/
def execTdef (h : Hdr) (g : Guard) (tensor : BitVec 6) (r : BitVec 5) (s : State) : Host.Outcome State Fault Refusal :=
  runGuarded (.tdef h g tensor r) h g always (fun s =>
    let v : BitVec 256 := s.readX 3 (r + 3) ++ s.readX 2 (r + 2) ++ s.readX 1 (r + 1) ++ s.readX 0 r
    match (if tValid v then tensorBad v s.jb.spBytes else none) with
    | some (c, b) => .error { cause := c, info0 := zx64 tensor, info1 := BitVec.ofNat 64 b }
    | none => results h 2 [.tensor tensor v] s) s

/-! ## The steps -/

/-- INDEX_STEP (R254): the first GATHER, SCATTER or SCADD of A that has an index to do does one. -/
def execIndexStep (d : DieId) (c : CoreId) (k : SlotId) (s : State) : Host.Outcome State Fault Refusal :=
  let w : Who := .eng d c k .a
  if !s.mayStep w then .next s
  else match (s.stream? w).bind fun st => st.flights.find? fun f => !f.halted && (match f.work with
    | .index _ _ _ t _ _ n done _ => decide (done < n) && !s.ordHeld w (bufOf (tBase t))
    | _ => false) with
  | some f => match f.work with
    | .index op dq iq t tnum isz n done cur => .next (s.indexStep w f op dq iq t tnum isz n done cur none)
    | _ => .next s
  | none => .next s

/-- RELEASE_DONE (R268, R275): a REL, ACQ or PHASE whose waits are over takes effect; an ACQ completes in the next cycle. -/
def execReleaseDone (w : Who) (id : Nat) (s : State) : Host.Outcome State Fault Refusal :=
  match s.flight? w id with
  | none => .next s
  | some f =>
    let soon (s : State) : State := s.updStream w fun st => st.updFlight id fun y => { y with land := some (s.timeOf w + 1) }
    match f.work with
    | .rel scope _ => .next (if s.backsOver w f && s.released w f scope then s.complete w f else s)
    | .acq _ => .next (if f.land.isNone && s.readsBack w f then soon (s.acquire w) else s)
    | .phase scope _ =>
      if f.land.isNone && s.backsOver w f && s.released w f scope && s.readsBack w f then
        let s := if 3 ≤ scope.toNat then s.flushCopies (whoDie w) (s.asnOf w) else s
        .next (soon (s.acquire w))
      else .next s
    | _ => .next s

end Sys2Proof.Machine
end

