-- ==== Sys2Proof/Machine/Channels.lean ====
section
/-! DEFINITION. The copy channels: XCOPY, XSET, XCHAIN, XSTAT, XCANCEL, and the steps CHANNEL_ACCEPT, CHANNEL_GRANULE, RECORD_RUN, RECORD_DONE,
STOP_DELIVERY (spec/14_queues_engines.md R325-R336, R439; spec/16_tables.md R357). -/

namespace Sys2Proof.Machine
open Sys2Proof

/-- A channel of a job; changing one. -/
def Job.chan (j : Job) (k : Nat) : Channel := j.chans[k]?.getD {}
def Job.updChan (j : Job) (k : Nat) (f : Channel → Channel) : Job := { j with chans := updAt j.chans k f }

/-- WP's value when every accepted transfer is done (R326). -/
def Channel.limit (c : Channel) : Nat :=
  match c.xfers.getLast? with
  | some x => x.start + x.total
  | none => c.wp

/-- The buffers a transfer's data lies in, and all it touches: a record's too, whose status it writes (R238, R331, R381). -/
def Xfer.dataBufs (x : Xfer) : List (BitVec 12) :=
  ((if tLoc x.src = 2 then [bufOf (tBase x.src)] else []) ++ (if tLoc x.dst = 2 then [bufOf (tBase x.dst)] else [])).eraseDups
def Xfer.bufs (x : Xfer) : List (BitVec 12) := (x.dataBufs ++ x.recBuf.toList).eraseDups

/-- Adds an accepted transfer to its channel: it begins where those before it end, and its buffers are busy. -/
def Job.accept (j : Job) (k : Nat) (x : Xfer) : Job :=
  let j := x.bufs.foldl Job.busy j
  j.updChan k fun c => { c with st := .busy, xfers := c.xfers ++ [{ x with start := c.limit }] }

/-- A transfer leaves its channel: its buffers are idle. -/
def Job.letGo (j : Job) (x : Xfer) : Job := x.bufs.foldl Job.idle j

/-- Its channel is cancelled or at its chain's end: it holds no transfer and no record. -/
def Channel.cleared (c : Channel) : Channel :=
  { c with st := .idle, xfers := [], recVa := none, image := [], running := false, notify := false, cause := 0, stop := none, flying := 0 }

/-- The directory indices a transfer's source uses (R147, R328). -/
def Xfer.indices (x : Xfer) : List Nat :=
  if tLoc x.src ≠ 3 then []
  else
    ((List.range x.rows).flatMap fun i => (List.range x.cols).filterMap fun j => (x.srcAt i j).map fun p => tileIndex x.src p.1 p.2).eraseDups

/-- Sets flags in T's FSTAT (R328). -/
def State.tFlags (s : State) (w : Who) (f : FlagSet) : State := if f = 0 then s else s.applyEffs w [.flags f]

/-! ## Transfer records (R331) -/

def recNext (r : List Byte) : Word := BitVec.ofNat 64 (leNat (r.take 8))
def recCtl (r : List Byte) : Word := BitVec.ofNat 64 (leNat ((r.drop 8).take 8))
/-- The compact tensor of a record's half, beginning at byte o, with the spec's EDGE. -/
def recTensor (r : List Byte) (o edge : Nat) : BitVec 256 :=
  let base : Word := BitVec.ofNat 64 (leNat ((r.drop o).take 8))
  let sh : Word := BitVec.ofNat 64 (leNat ((r.drop (o + 8)).take 8))
  (0 : BitVec 16) ++ (0 : BitVec 10) ++ BitVec.ofNat 2 edge ++ (0 : BitVec 4) ++ sh.extractLsb' 61 3 ++ sh.extractLsb' 56 5 ++ (0 : BitVec 23) ++ (1 : BitVec 1) ++
    BitVec.ofNat 32 (bits sh 55 40) ++ BitVec.ofNat 32 (bits sh 39 24) ++ BitVec.ofNat 64 (bits sh 23 0) ++ base
/-- The record at va as a transfer with origins (0, 0). An EDGE of 3 is the spec's error, not its tensors' (R357). -/
def recXfer (r : List Byte) (rm : BitVec 3) (va : Word := 0) : Xfer :=
  let spec : BitVec 128 := BitVec.ofNat 128 (leNat ((r.drop 48).take 16))
  let edge := xsEdge spec % 3
  { src := recTensor r 16 edge, dst := recTensor r 32 edge, spec := spec, sorg := 0, dorg := 0, rm := rm, recBuf := some (bufOf va.toNat) }

/-- CTL as a channel writes it back: OWN 0, ERR, CAUSE, OFFSET; NOTIFY, DCEN and DC kept, reserved fields zero (R331). -/
def recStatus (ctl : Word) (err : Bool) (cause : Nat) (off : Nat) : Word :=
  BitVec.ofNat 1 0 ++ ctl.extractLsb' 49 14 ++ (0 : BitVec 8) ++ BitVec.ofBool err ++ BitVec.ofNat 8 cause ++ BitVec.ofNat 32 off

/-- A channel writes a record's CTL. -/
def State.writeCtl (s : State) (w : Who) (k : Nat) (va ctl : Word) : Except (Stop × State) State :=
  (s.writeVa w (channelWrites k) (va.toNat + 8) ((leBytes 8 ctl.toNat).map fun b => (b, false))).map fun s =>
    s.updJobOf w fun j => j.moved (bufOf va.toNat) 8

/-- The record a channel is running, with the CTL that says how it ended. -/
def Channel.status? (c : Channel) (err : Bool) (cause off : Nat) : Option (Word × Word) :=
  if c.running then c.recVa.map fun va => (va, recStatus (recCtl c.image) err cause off) else none

/-- Writes a record's status, where there is one to write; a write that does not translate is left out. -/
def State.putStatus (s : State) (w : Who) (k : Nat) (rec : Option (Word × Word)) : State :=
  match rec with
  | some (va, ctl) => match s.writeCtl w k va ctl with
    | .ok s' => s'
    | .error _ => s
  | none => s

/-- A channel's stop: its number and the detail (R330). -/
def chanStop (k : Nat) (cause : Cause) (detail : Nat) : Stop := { cause := cause, info0 := BitVec.ofNat 64 k, info1 := BitVec.ofNat 64 detail }

/-- COPY_STOP (R330): a channel enters ERROR; its stop waits for T; the flags of what it delivered are set; a record gets its status. -/
def State.copyStop (s : State) (w : Who) (k : Nat) (st : Stop) : State :=
  match s.jobOf? w with
  | none => s
  | some j =>
    let c := j.chan k
    let x? := c.xfers.head?
    let off := match x? with
      | some x => c.wp - x.start
      | none => 0
    let s := s.putStatus w k (c.status? true st.cause.code.toNat off)
    let s := match x? with
      | some x => s.tFlags w x.flags
      | none => s
    s.updJobOf w fun j => j.updChan k fun c =>
      { c with
        st := .error
        cause := zx64 st.cause.code |>.extractLsb' 0 8
        stop := some st
        xfers := c.xfers.map fun x => { x with flags := 0 } }

/-- Has the channel nothing to cancel? -/
def Channel.isIdle (c : Channel) : Bool := c.st == .idle && c.xfers == [] && c.recVa.isNone && c.stop.isNone

/-- T cancels channel k (R334): accepted transfers are dropped, and what remains, a record's status and the acknowledgement of writes already
issued, is a word of T's that sends these tokens at its end and sets the flags of the granules delivered (R328;
log 130). -/
def State.cancelChannel (s : State) (t : Who) (k : Nat) (tks : BitVec 4) : State :=
  match s.jobOf? t with
  | none => s
  | some j =>
    let c := j.chan k
    let off := match c.xfers.head? with
      | some x => c.wp - x.start
      | none => 0
    let fl := c.xfers.foldl (fun a x => a ||| x.flags) 0
    let wk : Work := .xcancel (BitVec.ofNat 2 k) s.outSeq (c.xfers.flatMap Xfer.bufs) (c.status? true 0xFF off)
    let s := s.updJobOf t fun j => j.updChan k Channel.cleared
    { (({ s with cur := t } : State).launchWord tks (some (s.timeOf t + 1)) (flagEff fl) wk) with cur := s.cur }

/-- Has a channel written to another package, before the write with this serial number, what that has not acknowledged (R273)? -/
def State.chanOut (s : State) (w : Who) (k before : Nat) : Bool :=
  s.remoteOut.any fun o => o.die == whoDie w && o.jrec == s.recOf w && o.wid == (2, channelWrites k) && decide (o.n < before)

/-- A cancellation goes on: the status of the record it cut off is written, behind a changed route where it must wait for one (R367); then, once the
channel's writes are acknowledged, its word completes (R334). -/
def State.cancelStep (s : State) (w : Who) (f : Flight) (k before : Nat) (bufs : List (BitVec 12)) (rec : Option (Word × Word)) : State :=
  match rec with
  | some (va, _) =>
    if s.ordHeld w (bufOf va.toNat) then s
    else
      let t := s.putStatus w k rec
      t.updStream w fun st => st.updFlight f.id fun y => { y with work := .xcancel (BitVec.ofNat 2 k) t.outSeq bufs none }
  | none => if s.chanOut w k before then s else (s.updJobOf w fun j => bufs.foldl Job.idle j).complete w f

/-! ## The words -/

/-- XCOPY's transfer as its operands give it. -/
def xcopyXfer (st dt : BitVec 6) (xs : BitVec 4) (sorg dorg : BitVec 5) (s : State) : Xfer :=
  { src := s.tensor 3 st, dst := s.tensor (secondSite st dt) dt, spec := s.xspec 5 xs, sorg := s.readX 0 sorg, dorg := s.readX 1 dorg, rm := s.rmode, srcNum := st.toNat }

/-- The first page of a LOC 2 tensor's element translates (R327). -/
def State.firstElem (s : State) (t : BitVec 256) (p : Option (Nat × Nat)) (write : Bool) : Except Stop State :=
  match p with
  | some (r, c) => if tLoc t = 2 then s.firstPage ((tBase t + (elemUnit t r c).1) % 2 ^ 64) (unitOf (tFmt t)).1 write else .ok s
  | none => .ok s

/-- XCOPY (R327): its checks at issue; acceptance follows. -/
def execXcopy (h : Hdr) (g : Guard) (k : BitVec 2) (st dt : BitVec 6) (xs : BitVec 4) (sorg dorg : BitVec 5) (s : State) :
    Host.Outcome State Fault Refusal :=
  runGuarded (.xcopy h g k st dt xs sorg dorg) h g always (fun s =>
    let x := xcopyXfer st dt xs sorg dorg s
    let c := s.jb.chan k.toNat
    if s.jb.kernel.chan ≤ k.toNat then .error (stopOf .queueCfg)
    else if c.recVa.isSome then .error (stopOf .channelBusy)
    else match s.entryBad st x.src [0, 1, 2, 3] .tensorBad with
      | some e => .error e
      | none => match s.entryBad dt x.dst [0, 1, 2] .tensorBad with
        | some e => .error e
        | none => match s.xferBad s.cur x c.limit with
          | some e => .error (stopOf e)
          | none => match s.firstElem x.src (x.srcAt 0 0) false with
            | .error e => .error e
            | .ok s => match s.firstElem x.dst (some (orgRow x.dorg, orgCol x.dorg)) true with
              | .error e => .error e
              | .ok s => .ok (s.launchWord h.tks none [] (.xcopy k x), .fall)) s

/-- XSET (R357). -/
def execXset (h : Hdr) (g : Guard) (xs : BitVec 4) (r : BitVec 5) (s : State) : Host.Outcome State Fault Refusal :=
  runGuarded (.xset h g xs r) h g always (fun s => results h 2 [.xspec xs (s.readX 1 (r + 1) ++ s.readX 0 r)] s) s

/-- XCHAIN (R332): it completes in the cycle after issue, its channel busy from the issue on. -/
def execXchain (h : Hdr) (g : Guard) (k : BitVec 2) (head : BitVec 5) (s : State) : Host.Outcome State Fault Refusal :=
  runGuarded (.xchain h g k head) h g always (fun s =>
    if s.jb.kernel.chan ≤ k.toNat then .error (stopOf .queueCfg)
    else if (s.jb.chan k.toNat).st ≠ .idle then .error (stopOf .channelBusy)
    else
      let va := s.readX 0 head
      let cov := s.str.cov
      asNop h (s.updJb fun j => j.updChan k.toNat fun c => { c with st := .busy, recVa := some va, running := false, notify := false, cov := cov })) s

/-- XSTAT's value (R333). -/
def Channel.status (c : Channel) : Word :=
  BitVec.ofNat 2 (match c.st with
    | .idle => 0 | .busy => 1 | .error => 2) ++ BitVec.ofNat 3 c.xfers.length ++ (0 : BitVec 3) ++ (if c.st = .error then c.cause else 0) ++ BitVec.ofNat 48 c.wp

/-- XSTAT (R333). -/
def execXstat (h : Hdr) (g : Guard) (d : BitVec 5) (k : BitVec 2) (s : State) : Host.Outcome State Fault Refusal :=
  runGuarded (.xstat h g d k) h g always (fun s =>
    if s.jb.kernel.chan ≤ k.toNat then .error (stopOf .queueCfg)
    else results h 2 [.x d (s.jb.chan k.toNat).status] s) s

/-- XCANCEL (R334): the channel is idle at once; the word completes, no sooner than the cycle after issue, when the channel's writes are
acknowledged. -/
def execXcancel (h : Hdr) (g : Guard) (k : BitVec 2) (s : State) : Host.Outcome State Fault Refusal :=
  runGuarded (.xcancel h g k) h g always (fun s =>
    if s.jb.kernel.chan ≤ k.toNat then .error (stopOf .queueCfg)
    else if (s.jb.chan k.toNat).isIdle then asNop h s
    else .ok (s.cancelChannel s.cur k.toNat h.tks, .fall)) s

/-! ## The steps -/

/-- T's stream of a slot, while its job runs on a live die. -/
def State.tStream (s : State) (d : DieId) (c : CoreId) (k : SlotId) : Option (Who × Job) :=
  match s.slotJob? d c k with
  | some j => if j.issuing (s.timeOf (.eng d c k .t)) && s.live d then some (.eng d c k .t, j) else none
  | none => none

/-- A wait of R433 ends: nothing of the stream issues before the next cycle. -/
def State.openGate (s : State) (w : Who) : State := let now := s.timeOf w; s.updStream w fun st => { st with gate := now + 1 }

/-- CHANNEL_ACCEPT (R327): the waiting XCOPY's transfer is accepted once its channel holds fewer than four, and the XCOPY completes. -/
def execChannelAccept (d : DieId) (c : CoreId) (k : SlotId) (s : State) : Host.Outcome State Fault Refusal :=
  match s.tStream d c k with
  | none => .next s
  | some (w, j) =>
    match (j.streams[(2 : Fin 5)]).flights.find? fun f => !f.halted && (match f.work with
      | .xcopy .. => true
      | _ => false) with
    | none => .next s
    | some f => match f.work with
      | .xcopy ch x =>
        -- a new access to a buffer that MIGRATE or SEGSET moves is held (R238, R359)
        if 4 ≤ (j.chan ch.toNat).xfers.length || s.bufHeldAny w x.bufs then .next s
        else
          let (r, s) := s.resolveDirs d c x.indices
          match r with
          | .error (.empty i) => .next (s.stopFlight w f { cause := .tensorBad, info0 := BitVec.ofNat 64 x.srcNum, info1 := BitVec.ofNat 64 i })
          | .error .outside => .next (s.stopFlight w f (stopOf .canopyCol))
          | .error (.unreadable i) => .next (s.stopFlight w f { cause := .canopyUe, info0 := BitVec.ofNat 64 i })
          | .ok us =>
            let x := { x with dirs := us, cov := f.cov, since := s.time }
            .next (((s.updJobOf w fun j => j.accept ch.toNat x).complete w f).openGate w)
      | _ => .next s

/-- The first transfer of a channel is done: it leaves, its flags are set; a channel with no more is idle, one that runs a record keeps it. -/
def State.finishXfer (s : State) (w : Who) (k : Nat) (x : Xfer) : State :=
  (s.updJobOf w fun j => (j.letGo x).updChan k fun c =>
    let rest := c.xfers.drop 1
    { c with xfers := rest, st := if rest = [] ∧ c.recVa.isNone then .idle else c.st }).tFlags w x.flags

/-- A transfer's copy latency in ns, at the last advance of WP (R384): rounded down or up, a free value (log 51). -/
def State.sampleCopy (s : State) (w : Who) (x : Xfer) : State :=
  match w with
  | .eng d c _ _ => s.sample d 1 c.val ((s.time - x.since + Config.freeNat s.free 2097151 % nsUnits) / nsUnits)
  | .sys _ => s

/-- WP passes bytes that are acknowledged (R326); a transfer whose last byte they are is finished, a record's by RECORD_DONE. -/
def State.passBytes (s : State) (w : Who) (k n : Nat) : State :=
  let s := s.updJobOf w fun j => { (j.updChan k fun q => { q with wp := q.wp + n, flying := 0 }) with stall := 0 }
  match ((s.jobOf? w).map fun j => j.chan k) with
  | some q => match q.xfers.head? with
    | some x =>
      if x.start + x.total ≤ q.wp then
        let s := s.sampleCopy w x
        if q.running then s else s.finishXfer w k x
      else s
    | none => s
  | none => s

/-- CHANNEL_GRANULE (R326, R328-R330): the first transfer of channel ch delivers its next granule, slot or tile; WP passes it when its writes are
acknowledged. `got` holds the remote lines its reads need, in order. -/
def execChannelGranule (d : DieId) (c : CoreId) (k : SlotId) (ch : Fin 4) (got : List Byte) (s : State) : Host.Outcome State Fault Refusal :=
  match s.tStream d c k with
  | none => .next s
  | some (w, j) =>
    let cn := j.chan ch.val
    match cn.xfers, cn.st with
    | x :: _, .busy =>
      let off := cn.wp - x.start
      if x.total ≤ off then .next (if cn.running then s else s.finishXfer w ch.val x)
      else if cn.flying ≠ 0 then .next (if s.chanOut w ch.val s.outSeq then s else s.passBytes w ch.val cn.flying)
      -- packets wait for a changed route, reads for what the channel acquired, accesses for a row group's refresh (R271, R363, R367)
      else if (x.dataBufs.any fun b => s.ordHeld w b) || x.cov.any j.outstanding ||
          (xsComp x.spec == 0 && s.rangesWait w false (x.lines off (min x.unit (x.total - off)))) then .next s
      else
        let n := min x.unit (x.total - off)
        let r := if xsComp x.spec = 0 then s.moveGranule w (channelWrites ch.val) x off n got
          else (s.moveTile w (channelWrites ch.val) x (off / x.unit)).map fun s => (s, 0, false)
        match r with
        | .error .wait => .next s
        | .error (.fail cause detail) => .next (s.copyStop w ch.val (chanStop ch.val cause (detail.getD off)))
        | .error (.met s cause detail) => .next (s.copyStop w ch.val (chanStop ch.val cause (detail.getD off)))
        | .error (.stop st) => .next (s.copyStop w ch.val st)
        | .ok (s, fl, pois) =>
          let fresh := pois && !x.noted
          let s := if fresh then s.notice d .copyPoison c.val (handleOf j.gen j.idx) else s
          let x' : Xfer := { x with flags := x.flags ||| fl, noted := x.noted || pois }
          let s := s.updJobOf w fun j =>
            (x.moves off n).foldl (fun j p => j.moved p.1 p.2) (j.updChan ch.val fun q => { q with flying := n, xfers := x' :: q.xfers.drop 1 })
          .next (if s.chanOut w ch.val s.outSeq then s else s.passBytes w ch.val n)
    | _, _ => .next s

/-- The chain ends: IDLE, with a notice when the last record asked for one (R332). -/
def State.endChain (s : State) (w : Who) (d : DieId) (c : CoreId) (j : Job) (k : Nat) : State :=
  let s := s.updJobOf w fun j => j.updChan k Channel.cleared
  if (j.chan k).notify then s.notice d .copyIdle c.val (handleOf j.gen j.idx) else s

/-- The checks of a record (R331): reserved fields, alignment, and its shape as XCOPY would check it, are RECORD_BAD; a spec whose bits or SCALE are
not ones a spec may hold has the cause that R357 gives it (log 99). -/
def State.recordBad (s : State) (w : Who) (va : Word) (img : List Byte) (x : Xfer) (limit : Nat) (sp : Nat) : Option Cause :=
  if va.toNat % 64 != 0 || bits (recCtl img) 48 41 != 0 || (tensorBad x.src sp).isSome || (tensorBad x.dst sp).isSome ||
    decide (3 < tLoc x.src) || decide (2 < tLoc x.dst) then some .recordBad
  else match s.xferBad w x limit with
    | none => none
    | some c => some (if c = .xspecBad ∨ c = .scaleRange then c else .recordBad)

/-- A channel's record at va, as it read it (R332): as one read, kept while its transfer waits for a buffer that is held; none: bytes of another
package are still to come. -/
def State.readRecord (s : State) (w : Who) (k : Nat) (cn : Channel) (va : Word) (got : List Byte) : Except Stop (Option (List Byte × Bool) × State) :=
  if cn.image ≠ [] then .ok (some (cn.image, false), s)
  else match s.readVa w va.toNat 64 false (some got) with
    | .wait => .ok (none, s)
    | .stop st _ => .error (chanStop k st.cause va.toNat)
    | .ok l s => .ok (some (l.map (·.1), l.any (·.2)), s.updJobOf w fun j => j.moved (bufOf va.toNat) 64)

/-- RECORD_RUN (R332): the channel reads its chain's next record and begins it, or the chain ends. -/
def execRecordRun (d : DieId) (c : CoreId) (k : SlotId) (ch : Fin 4) (got : List Byte) (s : State) : Host.Outcome State Fault Refusal :=
  match s.tStream d c k with
  | none => .next s
  | some (w, j) =>
    let cn := j.chan ch.val
    match cn.recVa, cn.st with
    | some va, .busy =>
      if cn.running then .next s
      else if va = 0 then .next (s.endChain w d c j ch.val)
      else if s.bufHeldAny w [bufOf va.toNat] || cn.cov.any j.outstanding || s.rangesWait w false [(va.toNat, 64)] then .next s
      else match s.readRecord w ch.val cn va got with
        | .error st => .next (s.copyStop w ch.val st)
        | .ok (none, _) => .next s
        | .ok (some (img, bad), s) =>
          if !(recCtl img).getLsbD 63 then .next (s.endChain w d c j ch.val)
          else
            let x := recXfer img (j.streams[(2 : Fin 5)]).rmode va
            let keep (run : Bool) (s : State) : State :=
              s.updJobOf w fun j => j.updChan ch.val fun q => { q with running := run, image := img, notify := (recCtl img).getLsbD 62 }
            let stop (c : Cause) (n : Nat) (s : State) : State := (keep true s).copyStop w ch.val (chanStop ch.val c n)
            match (if bad then some .recordBad else s.recordBad w va img x cn.wp j.spBytes) with
            | some e => .next (stop e 0 s)
            | none =>
              if s.bufHeldAny w x.bufs then .next (keep false s)
              else
                let (r, s) := s.resolveDirs d c x.indices
                match r with
                | .error (.empty _) | .error .outside => .next (stop .recordBad 0 s)
                | .error (.unreadable i) => .next (stop .canopyUe i s)
                | .ok us =>
                  let x := { x with dirs := us, cov := cn.cov, since := s.time }
                  .next ((keep true s).updJobOf w fun j => j.accept ch.val x)
    | _, _ => .next s

/-- RECORD_DONE (R331): a record whose transfer is done gets its status and decrements its counter; the chain goes on at NEXT. -/
def execRecordDone (d : DieId) (c : CoreId) (k : SlotId) (ch : Fin 4) (s : State) : Host.Outcome State Fault Refusal :=
  match s.tStream d c k with
  | none => .next s
  | some (w, j) =>
    let cn := j.chan ch.val
    match cn.xfers, cn.recVa with
    | [x], some va =>
      if !cn.running || cn.st != .busy || decide (cn.wp < x.start + x.total) ||
          s.ordHeld w (bufOf va.toNat) || s.rangesWait w false [(va.toNat + 8, 8)] then .next s
      else match s.writeCtl w ch.val va (recStatus (recCtl cn.image) false 0 x.total) with
        | .error (st, _) => .next (s.copyStop w ch.val (if st.cause = .ubNoframe then st else chanStop ch.val st.cause (st.info0.getD 0).toNat))
        | .ok s =>
          let ctl := recCtl cn.image
          let s := if ctl.getLsbD 61 then s.updDie d fun y => { y with decs := y.decs ++ [{ ctr := ctl.extractLsb' 49 12, amt := 1 }] } else s
          .next ((s.updJobOf w fun j => (j.letGo x).updChan ch.val fun q =>
            { q with xfers := [], running := false, image := [], recVa := some (recNext cn.image) }).tFlags w x.flags)
    | _, _ => .next s

/-- T's word of a job that waits under R433. -/
def Job.tWaiting (j : Job) : Option Flight :=
  (j.streams[(2 : Fin 5)]).flights.find? fun f => match f.work with
    | .xcopy .. | .pgm .. => true
    | .tqin _ _ _ moving => moving.isNone
    | .tqout _ _ _ left => !left
    | _ => false

/-- Does the next word of a slot's T stream meet its IDLE condition (R29), T neither at END nor held by a word that waits? -/
def State.tIdle (s : State) (d : DieId) (c : CoreId) (k : SlotId) : Bool :=
  match s.slotJob? d c k with
  | none => false
  | some j =>
    let t := j.streams[(2 : Fin 5)]
    let now := s.timeOf (.eng d c k .t)
    let idle : Int := match (j.kernel.progs[2]?.getD [])[t.pc.toNat]? with
      | some v => bits v 63 54
      | none => 0
    j.issuing now && !t.atEnd && decide (t.last + 1 + idle ≤ (now : Int)) && decide (t.gate ≤ now) && !t.flights.any fun f => f.work.blocks

/-- A stop that waited for T's boundary is taken there (R439): T's word at pc, with this number, is where T stands. -/
def State.deliver (s : State) (d : DieId) (c : CoreId) (k : SlotId) (st : Stop) (pc : Word) (id : Nat) : State :=
  let w : Who := .eng d c k .t
  let gone (j : Job) : Job :=
    match (List.range 4).find? fun i => (j.chan i).stop == some st with
    | some i => j.updChan i fun q => { q with stop := none }
    | none => { j with pgmStop := j.pgmStop.erase st }
  (s.dropPreempt w (s.timeOf w)).updJobOf w fun j => (gone j).trap 2 pc st (s.bare (whoSite w)) (s.timeOf w) id

/-- The delivery at the next word of a slot's T stream, where the word meets IDLE and the engine can take it (R439); the engine's choice of the
slot is made by whoever asks. -/
def State.deliverNext (s : State) (d : DieId) (c : CoreId) (k : SlotId) : Option State :=
  let u : State := { s with cur := .eng d c k .t }
  match s.slotJob? d c k with
  | none => none
  | some j => match j.pending with
    | [] => none
    | st :: _ =>
      let t := j.streams[(2 : Fin 5)]
      if s.live d && s.tIdle d c k && u.engineFree && u.gatesOpen then some (s.deliver d c k st t.pc t.nextId) else none

/-- STOP_DELIVERY (R439): a stop of a channel or of a programming request is taken at T's boundary: while T waits at END or in a wait of R433, or
when its next word meets IDLE and the engine chooses its slot: here where the other slot cannot contend; where it can, the engine's turn chooses. -/
def execStopDelivery (d : DieId) (r : RecId) (s : State) : Host.Outcome State Fault Refusal :=
  match s.job? d r.val with
  | none => .next s
  | some j =>
    match j.home, j.pending with
    | some (c, k), st :: _ =>
      let t := j.streams[(2 : Fin 5)]
      if !j.issuing (s.timeOf (.eng d c k .t)) || !s.live d then .next s
      else match j.tWaiting with
        | some f => .next (s.deliver d c k st f.pc f.id)
        | none =>
          if t.atEnd then .next (s.deliver d c k st t.pc t.nextId)
          else if s.tIdle d c (1 - k) then .next s
          else .next ((s.deliverNext d c k).getD s)
    | _, _ => .next s

end Sys2Proof.Machine
end

