-- ==== Sys2Proof/Machine/TileMoves.lean ====
section
/-! DEFINITION. XFILL, TQIN and TQOUT, and TQ_WAIT_END (spec/14_queues_engines.md R316, R317, R335; spec/18_containment.md R391). -/

namespace Sys2Proof.Machine
open Sys2Proof

/-- Bytes of one row of an image moved at an origin, and the whole rows an image holds (R317). -/
def tqShape (t : BitVec 256) (o : Word) : Nat × Nat × Nat :=
  let w := tCols t - orgCol o
  let b := fmtBytes (tFmt t) w
  (w, b, 4096 / b)

/-- The checks of TQIN and TQOUT (R317), and the grove window (R219). -/
def State.tqCheck (s : State) (q tn : BitVec 6) (t : BitVec 256) (o : Word) : Option Stop :=
  match s.useTensor tn t [0, 1] .tensorBad with
  | some e => some e
  | none =>
    let (w, b, hh) := tqShape t o
    if 0x0C ≤ (tFmt t).toNat then some { cause := .tensorBad, info0 := zx64 tn }
    else if !s.tqUsable (qName q) then some (stopOf .queueCfg)
    else if tRows t ≤ orgRow o ∨ tCols t ≤ orgCol o then some (stopOf .originRange)
    else if fmtIsSb (tFmt t) && (orgCol o % 16 != 0 || w % 16 != 0) then some (stopOf .tensorAlign)
    else if 4096 < b then some (stopOf .shapeBad)
    else if tEdge t = 2 ∧ tRows t < orgRow o + hh then some (stopOf .edgeFault)
    else if s.beyondWindow s.cur t (min (tRows t) (orgRow o + hh) - 1) (tCols t - 1) then some (stopOf .tensorSpace)
    else none

/-- TQIN (R317). -/
def execTqin (h : Hdr) (g : Guard) (tq tensor : BitVec 6) (org : BitVec 5) (s : State) : Host.Outcome State Fault Refusal :=
  runGuarded (.tqin h g tq tensor org) h g always (fun s =>
    let t := s.tensor 3 tensor
    let o := s.readX 0 org
    match s.tqCheck tq tensor t o with
    | some e => .error e
    | none => .ok (s.launchWord h.tks none [] (.tqin tq t o none), .fall)) s

/-- TQOUT (R317). -/
def execTqout (h : Hdr) (g : Guard) (tq tensor : BitVec 6) (org : BitVec 5) (s : State) : Host.Outcome State Fault Refusal :=
  runGuarded (.tqout h g tq tensor org) h g always (fun s =>
    let t := s.tensor 3 tensor
    let o := s.readX 0 org
    match s.tqCheck tq tensor t o with
    | some e => .error e
    | none => .ok (s.launchWord h.tks none [] (.tqout tq t o false), .fall)) s

/-- Byte k of row r of the image TQOUT takes: rows beyond ROWS under EDGE, a nibble beyond the row zero. -/
def State.tqByte (s : State) (w : Who) (t : BitVec 256) (o : Word) (r k : Nat) : Option (Byte × Bool) :=
  let (nc, _, _) := tqShape t o
  let row := orgRow o + r
  if tRows t ≤ row ∧ tEdge t ≠ 1 then some (0, false)
  else
    (s.streamByte w (setBits t 160 32 (min row (tRows t - 1) + 1)) (min row (tRows t - 1)) (orgCol o) nc k).map fun b =>
      if tFmt t = 1 ∧ nc ≤ 2 * k + 1 then (b.1 &&& 0x0F, b.2) else b

/-- The image of TQOUT as a tile-queue entry; none: beyond the grove window. -/
def State.tqImage (s : State) (w : Who) (t : BitVec 256) (o : Word) (ready : Nat) : Option TqEntry :=
  let (_, b, hh) := tqShape t o
  (allSome ((List.range (hh * b)).map fun i => s.tqByte w t o (i / b) (i % b))).map fun l =>
    { image := rowOf (l.map (·.1)), tag := tFmt t, ready := ready
      poison := BitVec.ofNat 32 ((List.range 32).foldl (fun m u => if ((l.drop (128 * u)).take 128).any (·.2) then m + 2 ^ u else m) 0) }

/-- Row r of a tensor alone, as a transfer's destination. -/
def rowXfer (t : BitVec 256) (o : Word) (r : Nat) : Xfer :=
  let row := orgRow o + r
  { src := t, dst := setBits t 160 32 (row + 1), spec := 0, sorg := 0, dorg := BitVec.ofNat 32 (orgCol o) ++ BitVec.ofNat 32 row }

/-- TQIN's writes: the rows inside the tensor. -/
def State.tqWrite (s : State) (w : Who) (t : BitVec 256) (o : Word) (img : Row) : Except CopyStop State :=
  let (_, b, hh) := tqShape t o
  (List.range (min hh (tRows t - orgRow o))).foldl (fun m r =>
    match m with
    | .error e => .error e
    | .ok s => s.putStream w 0 (rowXfer t o r) 0 ((rowBytes img (r * b) b).map fun y => (y, false))) (Except.ok s)

/-- TQ_WAIT_END (R316, R317): a waiting TQIN takes its entry, a waiting TQOUT its place. -/
def execTqWaitEnd (d : DieId) (c : CoreId) (k : SlotId) (s : State) : Host.Outcome State Fault Refusal :=
  match s.tStream d c k with
  | none => .next s
  | some (w, j) =>
    let waiting (f : Flight) : Bool := !f.halted && (match f.work with
      | .tqin _ _ _ m => m.isNone
      | .tqout _ _ _ l => !l
      | _ => false)
    match (j.streams[(2 : Fin 5)]).flights.find? waiting with
    | none => .next s
    | some f =>
      let now := s.timeOf w
      let s0 := { s with cur := w }
      let go (s : State) (land : Option Nat) (wk : Work) : State :=
        (s.updStream w fun st => st.updFlight f.id fun y => { y with work := wk, land := land }).openGate w
      match f.work with
      | .tqin q t o none =>
        let n := qName q
        (match s0.tqHead n now with
        | none => .next s
        | some e =>
          let (_, b, hh) := tqShape t o
          let used := b * min hh (tRows t - orgRow o)
          if e.ue then .next (s.stopFlight w f (stopOf .tqUe))
          else if e.tag ≠ tFmt t then .next (s.stopFlight w f { cause := .tqBad, info0 := zx64 e.tag })
          else if (List.range 32).any fun u => e.poison.getLsbD u && decide (128 * u < used) then .next (s.stopFlight w f (stopOf .poison))
          else .next { (go (s0.tqPop n) (some (now + 40)) (.tqin q t o (some e.image))) with cur := s.cur })
      | .tqout q t o false =>
        let n := qName q
        -- it reads what its tokens released once that has taken effect (R271)
        if !s0.tqRoom n || !s.acquired w f then .next s
        else .next { (go ((s0.tqMake n).updTq n fun x => { x with reserved := x.reserved + 1 }) (some (now + 8)) (.tqout q t o true)) with cur := s.cur }
      | _ => .next s

/-- A TQOUT that left its wait 8 cycles ago is accepted: its entry is pushed, poppable 32 cycles later, and it completes (R317). -/
def State.tqAccept (s : State) (w : Who) (f : Flight) (q : BitVec 6) (t : BitVec 256) (o : Word) : State :=
  let n := qName q
  match s.tqImage w t o (s.timeOf w + 32) with
  | none => (({ s with cur := w }.updTq n fun x => { x with reserved := x.reserved - 1 }).updStream w fun st =>
      st.updFlight f.id fun y => { y with work := .tqout q t o false }).stopFlight w f (stopOf .tensorSpace)
  | some e =>
    let s0 : State := { s with cur := w }
    { (((s0.tqPush n { e with taken := s.timeOf w, rank := tqRank w }).updTq n fun x => { x with reserved := x.reserved - 1 }).complete w f) with cur := s.cur }

/-- XFILL (R335). -/
def execXfill (h : Hdr) (g : Guard) (dt : BitVec 6) (val org : BitVec 5) (s : State) : Host.Outcome State Fault Refusal :=
  runGuarded (.xfill h g dt val org) h g always (fun s =>
    let t := s.tensor 3 dt
    let o := s.readX 1 org
    match s.useTensor dt t [0, 1] .tensorBad with
    | some e => .error e
    | none =>
      if fmtIsSb (tFmt t) || decide (0x0C ≤ (tFmt t).toNat) then .error (stopOf .typeBad)
      else if tRows t ≤ orgRow o ∨ tCols t ≤ orgCol o then .error (stopOf .originRange)
      else if s.beyondWindow s.cur t (tRows t - 1) (tCols t - 1) then .error (stopOf .tensorSpace)
      else
        let bytes := fmtBytes (tFmt t) ((tRows t - orgRow o) * (tCols t - orgCol o))
        .ok (s.launchWord h.tks (some (s.now + 8 + cdiv bytes 512)) [] (.xfill t (s.readX 0 val) o), .fall)) s

/-- XFILL's writes. -/
def State.fillWrite (s : State) (w : Who) (t : BitVec 256) (v o : Word) : Except CopyStop State :=
  let x : Xfer := { src := t, dst := t, spec := 0, sorg := 0, dorg := o }
  let wd := fmtWidth (tFmt t)
  let e := v.toNat % 2 ^ wd
  let unit : List Byte := if wd = 4 then [BitVec.ofNat 8 (e * 17)] else leBytes (wd / 8) e
  let n := fmtBytes (tFmt t) (x.rows * x.cols)
  s.putStream w 0 x 0 (((List.replicate (cdiv n unit.length) unit).flatten.take n).map fun b => (b, false))

end Sys2Proof.Machine
end

