-- ==== Sys2Proof/Machine/Messages.lean ====
section
/-! DEFINITION. Message queues: bindings, credits, appends, and MSEND (spec/14_queues_engines.md R320-R324). -/

namespace Sys2Proof.Machine
open Sys2Proof

/-- The size of an entry (R320). -/
def Mq.esz (m : Mq) : Nat := 2 ^ m.log2.toNat
/-- The free count of R323; an append the port has accepted and not written yet has its entry. -/
def Mq.free (m : Mq) : Nat := m.count.toNat - m.fill - m.held - (m.appends.filter fun a => a.tag.isSome).length

/-- A queue's binding register +0 as it reads (R320). -/
def Mq.reg0 (m : Mq) : Word := BitVec.ofBool m.valid ++ (0 : BitVec 3) ++ m.log2 ++ m.gen ++ m.count ++ m.handle
/-- A write of a binding register (R320); none: refused. A new binding begins with an empty queue (log 29). -/
def Mq.bind (m : Mq) (second : Bool) (v : Word) : Option Mq :=
  if second then (if bits v 5 0 = 0 then some { m with offset := v.extractLsb' 0 20 } else none)
  else
    let l := bits v 59 56
    if 6 ≤ l ∧ l ≤ 12 then
      some { m with
        valid := v.getLsbD 63, log2 := v.extractLsb' 56 4, gen := m.gen + 1, count := v.extractLsb' 32 16, handle := v.extractLsb' 0 32
        head := 0, tail := 0, held := 0, owners := [], appends := [], heads := [] }
    else none

/-- MQ_BINDING_WRITE (R320): a write of a binding register; a refused one changes nothing. -/
def execMqBindingWrite (d : DieId) (c : CoreId) (q : Fin 4) (second : Bool) (v : Word) (s : State) : Host.Outcome State Fault Refusal :=
  match (s.mq d c q).bind second v with
  | some m => .next ((s.updMq d c q fun _ => m).updSys d fun x => { x with jobstat := 0 })
  | none => .next (s.updSys d fun x => { x with jobstat := 2 })

/-- Does a queue's region lie in its owner's declared scratchpad (R320)? -/
def Mq.regionOk (m : Mq) (j : Job) : Bool := decide (m.offset.toNat + 64 + m.count.toNat * m.esz ≤ j.spBytes) && m.offset.toNat % 64 == 0 && m.count != 0

/-! ## Targets and credits (R323, R324) -/

/-- The table's entry for a target. -/
def Job.credit? (j : Job) (t : Word) : Option Credit := j.mqcred.find? fun c => c.tgt == t

/-- Gives unused credits back to their queue. -/
def State.returnCredits (s : State) (d : DieId) (c : Credit) : State :=
  if c.n = 0 then s
  else if s.tgtAway c.tgt then
    match s.egress d (tgtPkg c.tgt) 0 false true 0 (.back (tgtDie c.tgt) (tgtCid c.tgt) (tgtMq c.tgt) c.gen c.n) with
    | .ok s => s
    | .error _ => s
  else s.updMq (tgtDie c.tgt) (tgtCid c.tgt) (tgtMq c.tgt) fun m => if m.gen = c.gen then { m with held := m.held - c.n } else m

/-- A request goes out for a target: its table entry notes it; a new entry replaces the least recently used of eight (R323). The entries stand
least recently used first. -/
def State.creditEntry (s : State) (w : Who) (t : Word) : State :=
  match s.jobOf? w with
  | none => s
  | some j =>
    if (j.credit? t).isSome then s.updJobOf w fun j => { j with mqcred := j.mqcred.map fun c => if c.tgt = t then { c with asked := true } else c }
    else
      let s := if j.mqcred.length < 8 then s else match j.mqcred.head? with
        | some c => s.returnCredits (whoDie w) c
        | none => s
      s.updJobOf w fun j => { j with mqcred := (if j.mqcred.length < 8 then j.mqcred else j.mqcred.drop 1) ++ [{ tgt := t, gen := 0, esz := 0, n := 0, asked := true }] }

/-- A table entry takes n credits of a generation, as the answer to its request or as credits that return (R323). -/
def Credit.grant (c : Credit) (gen : BitVec 8) (esz n : Nat) (asked : Bool) : Credit :=
  { c with gen := gen, esz := esz, n := if c.gen = gen then c.n + n else n, asked := c.asked && !asked }

/-- A grant enters a job's table, when it still holds the target's entry; credits with no entry return (R323). -/
def State.grantCredits (s : State) (d : DieId) (r : Nat) (t : Word) (gen : BitVec 8) (esz n : Nat) (asked : Bool) : State :=
  let back : Credit := { tgt := t, gen := gen, esz := esz, n := n, asked := false }
  match s.job? d r with
  | none => s.returnCredits d back
  | some j => match j.credit? t with
    | none => s.returnCredits d back
    | some _ => s.updJob d r fun j => { j with mqcred := j.mqcred.map fun c => if c.tgt = t then c.grant gen esz n asked else c }

/-- The MSEND of A that waits for a credit, or has bytes to pop. -/
def Job.msend? (j : Job) (waiting : Bool) : Option Flight :=
  (j.streams[(1 : Fin 5)]).flights.find? fun f => !f.halted && (match f.work with
    | .msend _ _ _ credit _ => credit.isNone == waiting
    | _ => false)

/-- No request of a job is out for a target any more. -/
def State.unasked (s : State) (d : DieId) (r : Nat) (t : Word) : State :=
  s.updJob d r fun j => { j with mqcred := j.mqcred.map fun c => if c.tgt = t then { c with asked := false } else c }

/-- The request of a job for a target is refused while an append of it waits to go again: that append's MSEND stops, once A runs. -/
def State.refuseAgain (s : State) (d : DieId) (r : Nat) (t : Word) (cause : Cause) : State :=
  { s.unasked d r t with remoteOut := s.remoteOut.map fun (o : RemoteOut) =>
    if o.die = d ∧ o.jrec = r then { o with app := o.app.map fun a => if a.tgt = t ∧ a.refused = some none then { a with refused := some (some cause) } else a } else o }

/-- Does an append of a job for a target wait to go again? -/
def State.goesAgain (s : State) (d : DieId) (r : Nat) (t : Word) : Bool :=
  s.remoteOut.any fun o => o.die == d && o.jrec == r && o.app.any fun a => a.tgt == t && a.refused == some none

/-- The request of a job for a target is refused: an MSEND that waits for it stops, MQ_BAD with its own xr(TGT) (R324, R365); one of a job that
is stopping asks again after the resume. -/
def State.refuseMsend (s : State) (d : DieId) (r : Nat) (t : Word) (cause : Cause) : State :=
  if s.goesAgain d r t then s.refuseAgain d r t cause
  else match s.job? d r with
  | some j => match j.home, j.msend? true with
    | some (c, k), some f =>
      let raw := match f.work with
        | .msend _ tgt _ _ _ => tgt
        | _ => 0
      if s.tgtName raw = t ∧ j.issuing (s.grove d (groveOf c)).cyc = true then
        (s.unasked d r t).stopFlight (.eng d c k .a) f (if cause = .mqBad then { cause := cause, info0 := raw } else stopOf cause)
      else s.unasked d r t
    | _, _ => s.unasked d r t
  | none => s

/-- A queue as its senders name it: in this package, and from another one. -/
def mqTarget (d : DieId) (c : CoreId) (q : Fin 4) : Word := BitVec.ofNat 64 (pkgCore d c + q.val * 2 ^ 16)
def State.mqTargetAway (s : State) (d : DieId) (c : CoreId) (q : Fin 4) : Word := mqTarget d c q + BitVec.ofNat 64 (2 ^ 31 + s.packageId.toNat * 2 ^ 18)

/-- A queue's port sends an answer to another package. -/
def State.grantAway (s : State) (d : DieId) (c : CoreId) (q : Fin 4) (o : MqReq) (gen : BitVec 8) (esz n : Nat) (asked : Bool) : State :=
  match s.egress d o.pkg 0 false true 0 (.grant o.die o.core o.slot (s.mqTargetAway d c q) gen esz n asked) with
  | .ok s => s
  | .error _ => s

/-- MQ_CREDIT_REQUEST (R322, R323): a core's port answers the oldest request for a queue: it holds it while the owner is not resident or nothing
is free, refuses it where the queue is not bound, and else grants up to 8 credits. -/
def execMqCreditRequest (d : DieId) (c : CoreId) (q : Fin 4) (s : State) : Host.Outcome State Fault Refusal :=
  let m := s.mq d c q
  match m.reqs with
  | [] => .next s
  | r :: rest =>
    let pop (n : Nat) (s : State) : State := s.updMq d c q fun m => { m with reqs := rest, held := m.held + n }
    let answer (s : State) (gen : BitVec 8) (esz n : Nat) : State :=
      if r.pkg != s.packageId then s.grantAway d c q r gen esz n true
      else if esz = 0 then s.refuseMsend r.die r.jrec (mqTarget d c q) .mqBad
      else s.grantCredits r.die r.jrec (mqTarget d c q) gen esz n true
    if !m.valid then .next (answer (pop 0 s) 0 0 0)
    else if (s.mqOwner d c m).isNone || m.free = 0 then .next s
    else
      let n := min 8 m.free
      .next (answer (pop n s) m.gen m.esz n)

/-- The owner tag of the bank an offset of a job's scratchpad lies in (R218). -/
def State.bankTag (s : State) (d : DieId) (c : CoreId) (j : Job) (off : Nat) : BitVec 12 := (s.core d c).tags[j.banks.getD (off / 4096) 0]?.getD 0

/-- A queue's port accepts an append: its credit is used up, and it carries its bank's owner tag (R218, R322). -/
def State.mqAccept (s : State) (d : DieId) (c : CoreId) (q : Fin 4) (j : Job) (a : MqAppend) (rest : List MqAppend) : State :=
  let tag := s.bankTag d c j (s.mq d c q).offset.toNat
  s.updMq d c q fun m => { m with held := m.held - 1, appends := { a with tag := some tag } :: rest }

/-- The oldest append of a queue's port came from another package (R322, R323): it is accepted once the owner is resident; one for a generation
that is over makes its sender ask for credit anew, one whose region is not in the owner's scratchpad is refused with MQ_BAD (R320): nothing is
written. -/
def State.mqArrive (s : State) (d : DieId) (c : CoreId) (q : Fin 4) (a : MqAppend) (rest : List MqAppend) : State :=
  let m := s.mq d c q
  let drop (s : State) : State := s.updMq d c q fun m => { m with appends := rest }
  if !m.valid || m.gen != a.gen then (drop s).grantAway d c q a.sender m.gen m.esz 0 false
  else match (s.mqOwner d c m).bind (s.job? d) with
    | none => s
    | some j => if m.regionOk j then s.mqAccept d c q j a rest else (drop s).grantAway d c q a.sender m.gen 0 0 false

/-- MQ_APPEND (R218, R321, R322): the port accepts its oldest append, or writes an accepted one's entry, then TAIL, into its owner's bank; one
whose owner tag is no longer the bank's is dropped. -/
def execMqAppend (d : DieId) (c : CoreId) (q : Fin 4) (s : State) : Host.Outcome State Fault Refusal :=
  let m := s.mq d c q
  match m.appends with
  | [] => .next s
  | a :: rest => match a.tag with
    | none => .next (s.mqArrive d c q a rest)
    | some tag =>
      let base := m.offset.toNat
      let bytes (l : List Byte) : List (Byte × Bool) := l.map fun b => (b, false)
      match s.mqOwner d c m with
      | some r =>
        if ((s.job? d r).map fun j => s.bankTag d c j base) = some tag then
          let s := s.updJob d r fun j => (j.spWrite (base + 64 + m.esz * (m.tail.toNat % m.count.toNat)) (bytes a.data)).spWrite base (bytes (leBytes 4 (m.tail + 1).toNat))
          .next (s.updMq d c q fun m => { m with tail := m.tail + 1, appends := rest, owners := m.owners ++ [a.sender] })
        else .next (s.updMq d c q fun m => { m with appends := rest })
      | none => .next (s.updMq d c q fun m => { m with appends := rest })

/-- A freed entry's credit returns to the slot that appended it, when that slot's table still holds a matching entry (R323). -/
def State.creditBack (s : State) (d : DieId) (c : CoreId) (q : Fin 4) (o : MqReq) : State :=
  let m := s.mq d c q
  let hold (s : State) : State := s.updMq d c q fun m => { m with held := m.held + 1 }
  if o.pkg ≠ s.packageId then (hold s).grantAway d c q o m.gen m.esz 1 false
  else match (s.job? o.die o.jrec).bind fun j => j.credit? (mqTarget d c q) with
    | some e => if e.gen = m.gen then (hold s).grantCredits o.die o.jrec (mqTarget d c q) m.gen m.esz 1 false else s
    | none => s

/-- MQ_HEAD_WRITE (R322): the port takes the oldest written HEAD that freed entries when it was written; their credits return (R323). -/
def execMqHeadWrite (d : DieId) (c : CoreId) (q : Fin 4) (head : BitVec 32) (s : State) : Host.Outcome State Fault Refusal :=
  let m := s.mq d c q
  match m.heads with
  | [] => .next s
  | h :: rest =>
    if h ≠ head then .next s
    else
      let n := (head - m.head).toNat
      let s := s.updMq d c q fun m => { m with head := head, owners := m.owners.drop n, heads := rest }
      .next ((m.owners.take n).foldl (fun s o => s.creditBack d c q o) s)

/-! ## MSEND -/

/-- MSEND: its checks at issue (R324). -/
def execMsend (h : Hdr) (g : Guard) (q : BitVec 4) (tgt bytes : BitVec 5) (s : State) : Host.Outcome State Fault Refusal :=
  runGuarded (.msend h g q tgt bytes) h g always (fun s =>
    let n := s.readX 1 bytes
    let t := s.readX 0 tgt
    let c := s.jb.qcfg q.toNat
    match queueCheck c false s.eng with
    | some e => .error (stopOf e)
    | none =>
      let (ub, _) := unitOf (qSnk c)
      if 2 ^ 32 ≤ n.toNat ∨ n.toNat % ub ≠ 0 then .error (stopOf .qfmtAlign)
      else if t.toNat / 2 ^ 32 ≠ 0 ∨ 255 < tgtCore t then .error { cause := .mqBad, info0 := t }
      else
        let away := s.tgtAway t
        let refused := away && (match s.egress (whoDie s.cur) (tgtPkg t) 0 false true 0 (.load 0 0) with
          | .error .partition => true
          | _ => false)
        if refused then .error (stopOf .partition)
        else .ok (s.launchWord h.tks none [] (.msend q t n.toNat none []), .fall)) s

/-- A MSEND's work changes. -/
def State.setMsend (s : State) (w : Who) (f : Flight) (wk : Work) : State := s.updStream w fun st => st.updFlight f.id fun y => { y with work := wk }

/-- A job's request for credit goes to another package (R323). -/
def State.askAway (s : State) (w : Who) (t : Word) : Except EgressFail State :=
  match w with
  | .sys _ => .ok s
  | .eng d c k _ => (s.egress d (tgtPkg t) 0 false true 0 (.credit (tgtDie t) (tgtCid t) (tgtMq t) (2 * pkgCore d c + k.val))).map fun s =>
      (s.sendOut d (s.recOf w) (1, creditRequest t.toNat) (tgtPkg t) 0 true false).creditEntry w t

/-- A waiting MSEND asks for credit (R323); where the target is dead it needs none, and its append will be dropped (R240). -/
def State.askCredit (s : State) (w : Who) (f : Flight) (q : BitVec 4) (t : Word) (n : Nat) (popped : List Byte) : State :=
  match w with
  | .sys _ => s
  | .eng d c k _ =>
    let lost (s : State) : State := (s.setMsend w f (.msend q t n (some (0, 2 ^ 33)) popped)).openGate w
    if s.tgtAway t then
      if s.targetDead (tgtPkg t) 0 then lost s
      else if s.ordWait d (tgtPkg t) then s
      else match s.askAway w t with
        | .error .partition => s.stopFlight w f (stopOf .partition)
        | .error .unreachable => lost s
        | .ok s => s
    else if !s.live (tgtDie t) then lost s
    else
      let me : MqReq := { pkg := s.packageId, die := d, core := c, slot := k.val, jrec := s.recOf w }
      (s.creditEntry w (s.tgtName t)).updMq (tgtDie t) (tgtCid t) (tgtMq t) fun m => { m with reqs := m.reqs ++ [me] }

/-- Does a target serve no message any more: its package is dead, or its die is fenced (R240, R404)? -/
def State.tgtDead (s : State) (t : Word) : Bool := if s.tgtAway t then s.targetDead (tgtPkg t) 0 else !s.live (tgtDie t)

/-- The table's entry e is used for one append: it becomes the most recently used (R323). -/
def State.useCredit (s : State) (w : Who) (e : Credit) : State :=
  s.updJobOf w fun j => { j with mqcred := j.mqcred.filter (· != e) ++ [{ e with n := e.n - 1 }] }

/-- The oldest append of a job that another package's port has refused. -/
def State.refusedApp (s : State) (d : DieId) (r : Nat) : Option (RemoteOut × Appended) :=
  s.remoteOut.findSome? fun o => match o.app with
    | some a => if o.die == d && o.jrec == r && a.refused.isSome then some (o, a) else none
    | none => none

/-- A refused append goes again, with a credit of the binding that now stands, or ends its MSEND with MQ_BAD (R320, R323;
log 101). -/
def State.appendAgain (s : State) (w : Who) (j : Job) (o : RemoteOut) (a : Appended) : State :=
  match w with
  | .sys _ => s
  | .eng d c k _ =>
    let freed (s : State) : State := s.ackOut d fun x => x.n == o.n
    let stop (st : Stop) : State := (freed s).stopAt w a.pc st (some o.wid.2)
    if a.refused = some (some .mqBad) then stop { cause := .mqBad, info0 := a.tgt }
    else if a.refused = some (some .partition) then stop (stopOf .partition)
    else if s.targetDead o.pkg 0 then (freed s).gone w o.pkg 0 true
    else if s.ordWait d o.pkg then s
    else
      let ask : State := match s.askAway w a.tgt with
        | .error .partition => stop (stopOf .partition)
        | .error .unreachable => (freed s).gone w o.pkg 0 true
        | .ok s => s
      match j.credit? a.tgt with
      | some e =>
        if 0 < e.n then
          if e.esz < a.entry.length then stop { cause := .msgSize, info0 := BitVec.ofNat 64 (a.entry.length - 16) }
          else match s.egress d o.pkg 0 false true 0 (.append (tgtDie a.tgt) (tgtCid a.tgt) (tgtMq a.tgt) e.gen (2 * pkgCore d c + k.val) a.entry) with
            | .error .partition => stop (stopOf .partition)
            | .error .unreachable => (freed s).gone w o.pkg 0 true
            | .ok s =>
              { s with remoteOut := s.remoteOut.map fun (x : RemoteOut) => if x.n = o.n then { x with app := some { a with refused := none } } else x }.useCredit w e
        else if e.asked then s
        else ask
      | none => ask

/-- MSEND_CREDIT (R323, R324): A's waiting MSEND takes a credit, or asks for one. -/
def execMsendCredit (d : DieId) (c : CoreId) (k : SlotId) (s : State) : Host.Outcome State Fault Refusal :=
  let w : Who := .eng d c k .a
  match s.slotJob? d c k with
  | none => .next s
  | some j =>
    if !(j.issuing (s.timeOf w) && s.live d) then .next s
    else match s.refusedApp d (s.recOf w), j.msend? true with
    | some (o, a), _ => .next (s.appendAgain w j o a)
    | none, none => .next s
    | none, some f => match f.work with
      | .msend q t n _ popped =>
        match j.credit? (s.tgtName t) with
        | some e =>
          if 0 < e.n then
            if e.esz < n + 16 then .next (s.stopFlight w f { cause := .msgSize, info0 := BitVec.ofNat 64 n })
            else .next (((s.useCredit w e).setMsend w f (.msend q t n (some (e.gen, e.esz)) popped)).openGate w)
          else if e.asked && !s.tgtDead t then .next s
          else .next (s.askCredit w f q t n popped)
        | none => .next (s.askCredit w f q t n popped)
      | _ => .next s

/-- The prefix and payload of an append (R321). -/
def msgEntry (seq : Word) (core : Nat) (pkg : BitVec 13) (data : List Byte) : List Byte :=
  leBytes 16 (seq.toNat * 2 ^ 64 + core * 2 ^ 48 + pkg.toNat * 2 ^ 32 + data.length) ++ data

/-- An MSEND with all its bytes appends and completes (R323, R324), once every write its release covers is over at DOMAIN (R273). -/
def State.msendAppend (s : State) (w : Who) (f : Flight) (j : Job) (q : BitVec 4) (t : Word) (n : Nat) (gen : BitVec 8) (popped : List Byte) : State :=
  match w with
  | .sys _ => s
  | .eng d c k _ =>
    let entry := msgEntry (j.msends + 1) (pkgCore d c) s.packageId popped
    let sent (s : State) : State := (s.updJobOf w fun j => { j with msends := j.msends + 1 }).complete w f
    let pkg := tgtPkg t
    if !s.released w f 4 then s
    else if s.tgtAway t then
      if s.targetDead pkg 0 then sent (s.gone w pkg 0 true)
      else if s.ordWait d pkg then s
      else match s.egress d pkg 0 false true 0 (.append (tgtDie t) (tgtCid t) (tgtMq t) gen (2 * pkgCore d c + k.val) entry) with
        | .error .partition => s.stopFlight w f (stopOf .partition)
        | .error .unreachable => sent (s.gone w pkg 0 true)
        | .ok s => sent (s.sendOut d (s.recOf w) (1, f.id) pkg 0 true true (some { tgt := t, pc := f.pc, entry := entry }))
    else if !s.live (tgtDie t) then sent (s.gone w 0 0 true)
    else
      let m := s.mq (tgtDie t) (tgtCid t) (tgtMq t)
      -- a credit of a generation that is over is void: the MSEND asks again
      if m.gen ≠ gen then (s.updJobOf w fun j => { j with mqcred := j.mqcred.map fun e => if e.tgt = s.tgtName t ∧ e.gen = gen then { e with n := 0 } else e }).setMsend w f
        (.msend q t n none popped)
      else match (s.mqOwner (tgtDie t) (tgtCid t) m).bind (s.job? (tgtDie t)) with
        | none => s
        | some o =>
          if !m.regionOk o then s.stopFlight w f { cause := .mqBad, info0 := t }
          else
            let me : MqReq := { pkg := s.packageId, die := d, core := c, slot := k.val, jrec := s.recOf w }
            let a : MqAppend := { sender := me, gen := gen, data := entry, tag := some (s.bankTag (tgtDie t) (tgtCid t) o m.offset.toNat) }
            sent (s.updMq (tgtDie t) (tgtCid t) (tgtMq t) fun m => { m with held := m.held - 1, appends := m.appends ++ [a] })

/-- An MSEND with its credit pops what has come of its bytes; with all of them it appends (R310, R324). -/
def State.msendStep (s : State) (w : Who) (f : Flight) (q : BitVec 4) (t : Word) (n : Nat) (gen : BitVec 8) (esz : Nat) (popped : List Byte) : State :=
  match s.jobOf? w, s.stream? w with
  | some j, some st =>
    if popped.length < n then
      let cf := j.qcfg q.toNat
      let (sb, se) := unitOf (qSnk cf)
      let units := min ((j.dq q.toNat).ready cf (s.timeOf w) / se) ((n - popped.length) / sb)
      if units = 0 || !st.popsClear f.id q.toNat then s
      else
        let r := (j.dq q.toNat).deliver cf (units * se) f.rm
        let clean := (r.1.takeWhile fun b => !b.2).length / sb
        if clean = 0 then s.stopFlight w f (stopOf (((j.dq q.toNat).badPop cf se).getD .poison))
        else
          let r := (j.dq q.toNat).deliver cf (clean * se) f.rm
          (s.updJobOf w fun j => j.updDq q.toNat fun x => x.remove cf (clean * se)).updStream w fun st => st.updFlight f.id fun y =>
            { y with effs := y.effs ++ flagEff r.2, work := .msend q t n (some (gen, esz)) (popped ++ r.1.map (·.1)) }
    else s.msendAppend w f j q t n gen popped
  | _, _ => s

end Sys2Proof.Machine
end

