-- ==== Sys2Proof/Machine/Matrix.lean ====
section
/-! DEFINITION. The matrix array: operands of a K-step, exact sums, checksums, and what an MMA does (spec/07_registers_accumulators.md R137-R150,
R156-R159, R436; spec/18_containment.md R388, R392). -/

namespace Sys2Proof.Machine
open Sys2Proof

/-! ## Tiles as elements (R138) -/

/-- Element (i, j) of a W1024 tile, its class, its value. -/
def Tile.elem (t : Tile) (i j : Nat) : BitVec 1024 := (t.rows[i]?.getD 0).extractLsb' (1024 * j) 1024
def Tile.elemCls (t : Tile) (i j : Nat) : Cls := clsOf (t.cls.extractLsb' (64 * i + 2 * j) 2)
def Tile.value (t : Tile) (i j : Nat) : Val := wValue (t.elemCls i j) (t.elem i j)

/-- A row of 32 W1024 elements, and a row's class bits. -/
def rowOfElems (l : List (BitVec 1024)) : Row := BitVec.ofNat 32768 (l.foldr (fun e a => e.toNat + 2 ^ 1024 * a) 0)
def clsRow (l : List Cls) : BitVec 64 := BitVec.ofNat 64 (l.foldr (fun c a => (clsBits c).toNat + 4 * a) 0)

/-- The tile a vector register lies in (R17). -/
def rowTile (r : BitVec 7) : BitVec 2 := r.extractLsb' 5 2

/-- A row with its classes as this word reads it: a V write in flight may or may not be seen, whole (R33, R174). -/
def State.readRow (s : State) (site : Nat) (r : BitVec 7) : Row × BitVec 64 :=
  let t := s.jb.tile (rowTile r)
  let i := r.toNat % 32
  let base := (t.rows[i]?.getD 0, t.cls.extractLsb' (64 * i) 64)
  let now := s.now
  let l := ((s.jb.streams[(4 : Fin 5)]).flights).foldl (fun l f => f.effs.foldl (fun (l : List (Row × BitVec 64)) e =>
    let put (v : Row × BitVec 64) : List (Row × BitVec 64) := if f.landed now then [v] else l ++ [v]
    match e with
    | .row q v c => if q = r then put (v, c) else l
    | .lane q w k v => if q = r then put (let b := l.getLastD base; (setBits b.1 (w * k) w v, b.2)) else l
    | _ => l) l) [base]
  s.choose site base l

/-- Does the effect write a row of tile z, or a lane of one? -/
def Eff.inTile (z : BitVec 2) : Eff → Bool
  | .row r .. | .lane r .. => rowTile r == z
  | _ => false

/-- A tile as M reads it: each row whole, with or without a V write that is in flight (R33, R175; log 94). -/
def State.seenTile (s : State) (z : BitVec 2) : Tile :=
  let t := s.jb.tile z
  if !(s.jb.streams[(4 : Fin 5)]).flights.any fun f => f.effs.any (Eff.inTile z) then t
  else
    let rs := (List.range 32).map fun i => s.readRow (2 ^ 17 + i) (z ++ BitVec.ofNat 5 i)
    { t with rows := Vector.ofFn fun i => (rs[i.val]?.getD (0, 0)).1, cls := BitVec.ofNat 2048 (rs.foldr (fun r a => r.2.toNat + 2 ^ 64 * a) 0) }

/-- M writes a tile. V's row writes there that are still in flight were issued before, since the tile is busy since M's word was (R151): what they
would still write is discarded (R33, R175). -/
def Job.writeTile (j : Job) (z : BitVec 2) (f : Tile → Tile) : Job :=
  let clear (f : Flight) : Flight := { f with effs := f.effs.filter fun e => !e.inTile z }
  ({ j with streams := updAt j.streams 4 fun (st : Stream) => { st with flights := st.flights.map clear } } : Job).updTile z f

/-- A tile of zeros with finite classes, of the type it has. -/
def Tile.zeroed (t : Tile) : Tile := { t with rows := Vector.replicate 32 0, cls := 0, ue := 0 }

/-- Exact products and sums of one K-step (R142): rows of A and columns of B, 16 values each. The step's products combine their classes first,
k ascending (log 90), and their sum then meets the element's. -/
def dotVals (a b : List Val) (c : Cls) (x : BitVec 1024) : BitVec 1024 × Cls × Bool :=
  let n : Int := (a.zip b).foldl (fun n p => n + Val.onGrid (-256) p.1 * Val.onGrid (-256) p.2) 0
  let r := (a.zip b).foldl (fun (acc : Cls × Bool) p =>
    let k := Cls.add acc.1 (Val.mul p.1 p.2).cls
    (k.1, acc.2 || k.2 || mulInvalid p.1 p.2)) (.fin, false)
  let k := Cls.add c r.1
  (x + BitVec.ofInt 1024 n, k.1, r.2 || k.2)

/-- One K-step added to a tile; a checked one also to its checksums (R142, R156). True: an invalid operation (R57). -/
def Tile.addStep (t : Tile) (a b : List (List Val)) (ck : Bool) : Tile × Bool :=
  let new := a.zipIdx.map fun (ra, i) => b.zipIdx.map fun (cb, j) => dotVals ra cb (t.elemCls i j) (t.elem i j)
  let rows : Vector Row 32 := Vector.ofFn fun i => rowOfElems ((new.getD i.val []).map (·.1))
  let cls : BitVec 2048 := BitVec.ofNat 2048 (new.foldr (fun r acc => (clsRow (r.map (·.2.1))).toNat + 2 ^ 64 * acc) 0)
  let g (v : Val) : Int := Val.onGrid (-256) v
  let sumA : List Int := (List.range 16).map fun k => a.foldl (fun n r => n + g (r.getD k .nan)) 0
  let sumB : List Int := (List.range 16).map fun k => b.foldl (fun n c => n + g (c.getD k .nan)) 0
  let dotI (x : List Int) (y : List Val) : BitVec 1024 := BitVec.ofInt 1024 ((x.zip y).foldl (fun n p => n + p.1 * g p.2) 0)
  let t' : Tile := { t with rows := rows, cls := cls }
  let t' := if ck && t.armed then { t' with
      ckRow := Vector.ofFn fun j => t.ckRow[j] + dotI sumA (b.getD j.val [])
      ckCol := Vector.ofFn fun i => t.ckCol[i] + dotI sumB (a.getD i.val []) } else t'
  (t', new.any fun r => r.any (·.2.2))

/-! ## The checksum check (R157) -/

/-- The FP32 rounding of an exact sum in units of 2^-512. -/
def sumFp32 (n : Int) : Nat := (roundTo 8 (Val.ofInt n (-512)) 0 false).1

/-- Do two FP32 roundings mismatch under a tolerance? -/
def pairBad (tol : BitVec 32) (x y : Nat) : Bool :=
  if x = y then false
  else if tol = 0 then true
  else match fmtValue 8 x, fmtValue 8 y, fmtValue 8 tol.toNat with
    | .fin nx mx ex, .fin ny my ey, .fin _ mt et =>
      let g := min ex ey
      let a := Val.onGrid g (.fin nx mx ex)
      let b := Val.onGrid g (.fin ny my ey)
      Val.lt (.fin false (mt * max a.natAbs b.natAbs) (et + g)) (.fin false (a - b).natAbs g)
    | _, _, _ => false

/-- The number of mismatching pairs of a tile. -/
def Tile.mismatches (t : Tile) (tol : BitVec 32) : Nat :=
  let line (f : Nat → Nat × Nat) (ck : BitVec 1024) : Bool :=
    let ps := (List.range 32).map f
    ps.all (fun p => t.elemCls p.1 p.2 == .fin) &&
      pairBad tol (sumFp32 (ps.foldl (fun n p => n + (t.elem p.1 p.2).toInt) 0)) (sumFp32 ck.toInt)
  ((List.finRange 32).filter fun j => line (fun i => (i, j.val)) t.ckRow[j]).length +
    ((List.finRange 32).filter fun i => line (fun j => (i.val, j)) t.ckCol[i]).length

/-- The checksums as sums of the tile (R163). -/
def Tile.rebuild (t : Tile) : Tile :=
  let sum (f : Nat → Nat × Nat) : BitVec 1024 := (List.range 32).foldl (fun n k => n + t.elem (f k).1 (f k).2) 0
  { t with ckRow := Vector.ofFn fun j => sum fun i => (i, j.val), ckCol := Vector.ofFn fun i => sum fun j => (i.val, j) }

/-! ## Operands of one K-step (R144-R149) -/

/-- One operand as a K-step reads it: 32 lanes of 16 values with their error marks, the bytes read (for the audit log, and what of a queue a
window retains) in units of `unit` bytes, entries popped of a tile queue, a queue's lanes at the last index inside (R144). -/
structure Operand where
  lanes : List (List (Val × Bool))
  bytes : List (Byte × Bool) := []
  unit : Nat := 1
  popped : Nat := 0
  edge : List (Val × Bool) := []

/-- The bytes of an operand as its K-step consumed them (R394): a unit for which UEPOL put zeros is zero, and of a SEED record all (R149). -/
def Operand.consumed (o : Operand) (zero seeded : Bool) : List Byte :=
  if !zero then o.bytes.map (·.1)
  else (chunks (if seeded then o.bytes.length else o.unit) o.bytes).flatMap fun u => if u.any (·.2) then u.map fun _ => 0 else u.map (·.1)

/-- Why a K-step is not added now. -/
inductive StepStop where
  | wait
  | stop (st : Stop)

/-- Lanes of 16 K-elements each, from the bytes of a K-step of a canopy image (R283). -/
def lanesOf (f : BitVec 5) (bs : List (Byte × Bool)) : List (List (Val × Bool)) :=
  let lb := stepBytes f / 32
  (List.range 32).map fun n =>
    let lane := (bs.drop (n * lb)).take lb
    let (ub, pe) := unitOf f
    (elemVals f (lane.map (·.1)) 0 16).zipIdx.map fun (v, i) => (v, ((lane.drop (i / pe * ub)).take ub).any (·.2))

/-- Lanes of a K-step popped from a queue, which holds its elements row-major: A's K-step has rows of 16, B's of 32 (R353, log 30). -/
def queueLanes (f : BitVec 5) (isA : Bool) (bs : List (Byte × Bool)) : List (List (Val × Bool)) :=
  let (ub, pe) := unitOf f
  (List.range 32).map fun n => (List.range 16).map fun k =>
    let e := if isA then 16 * n + k else 32 * k + n
    let u := (bs.drop (e / pe * ub)).take ub
    (unitVal f (leNat (u.map (·.1))) (e % pe), u.any (·.2))

/-- The index an element is read at under a tensor's edge; none: it reads as zero (R144). -/
def edgeIndex (edge i n : Nat) : Option Nat := if i < n then some i else if edge = 1 then some (n - 1) else none

/-- Element (lane, k) of an operand: A's is (row, K), B's is (K, column). -/
def opCoord (isA : Bool) (lane k : Nat) : Nat × Nat := if isA then (lane, k) else (k, lane)

/-- An operand in scratchpad. -/
def State.opLocal (s : State) (w : Who) (t : BitVec 256) (isA : Bool) (lane0 k0 : Nat) : Operand :=
  let ub := (unitOf (tFmt t)).1
  let unit (o : Nat) : List (Byte × Bool) := (s.localRead w 0 (tBase t + o) ub).getD (List.replicate ub (0, true))
  let place (n k : Nat) : Option (Nat × Nat) :=
    let (i, j) := opCoord isA (lane0 + n) (k0 + k)
    match edgeIndex (tEdge t) i (tRows t), edgeIndex (tEdge t) j (tCols t) with
    | some i, some j => some (elemUnit t i j)
    | _, _ => none
  let value (p : Option (Nat × Nat)) : Val × Bool := match p with
    | some (o, sub) => let u := unit o; (unitVal (tFmt t) (leNat (u.map (·.1))) sub, u.any (·.2))
    | none => (.fin false 0 0, false)
  let l := (List.range 32).map fun n => (List.range 16).map fun k => place n k
  { lanes := l.map fun r => r.map value, bytes := (l.flatten.filterMap fun p => p.map (·.1)).eraseDups.flatMap unit, unit := ub }

/-- The extent of a tensor along K: an A operand's columns, a B operand's rows. -/
def kExtent (t : BitVec 256) (isA : Bool) : Nat := if isA then tCols t else tRows t

/-- A queue operand's lanes under its tensor's edge (R144): outside it reads zero, or under CLAMP the element at the nearest index inside, which an
earlier K-step of the MMA may have popped: `kept` holds those. One that the MMA never popped is open (log 89). -/
def edgeLanes (t : BitVec 256) (isA : Bool) (lane0 k0 : Nat) (bs : List (Byte × Bool)) (kept : List (Val × Bool)) : List (List (Val × Bool)) :=
  let l := queueLanes (tFmt t) isA bs
  (List.range 32).map fun n => (List.range 16).map fun k =>
    let (i, j) := opCoord isA (lane0 + n) (k0 + k)
    match edgeIndex (tEdge t) i (tRows t), edgeIndex (tEdge t) j (tCols t) with
    | some i, some j =>
      let (n', k') := opCoord isA i j
      if lane0 ≤ n' ∧ k0 ≤ k' then ((l.getD (n' - lane0) []).getD (k' - k0) (.nan, false))
      else if lane0 ≤ n' ∧ kept ≠ [] then kept.getD (n' - lane0) (.nan, false)
      else (unitVal (tFmt t) (Config.queueEdge (bs.map (·.1)) (16 * n + k)) 0, false)
    | _, _ => (.fin false 0 0, false)

/-- A queue operand's K-step: its lanes, and those at the last index inside from here on. -/
def queueOperand (t : BitVec 256) (isA : Bool) (lane0 k0 : Nat) (bs : List (Byte × Bool)) (kept : List (Val × Bool)) : Operand :=
  let last := kExtent t isA - 1
  { lanes := edgeLanes t isA lane0 k0 bs kept, bytes := bs, unit := (unitOf (tFmt t)).1
    edge := if k0 ≤ last ∧ last < k0 + 16 then (queueLanes (tFmt t) isA bs).map fun l => l.getD (last - k0) (.nan, false) else kept }

/-- An operand from a data queue: its next K-step is popped (R145); the conversion's flags are M's (R309). -/
def State.opData (s : State) (w : Who) (t : BitVec 256) (isA : Bool) (lane0 k0 : Nat) (kept : List (Val × Bool)) (rm : BitVec 3) :
    Except StepStop (Operand × FlagSet × State) :=
  match s.jobOf? w with
  | none => .error .wait
  | some j =>
    let q := tBase t
    let c := j.qcfg q
    let n := sinkElems c (stepBytes (tFmt t))
    if (j.dq q).ready c (s.timeOf w) < n then .error .wait
    else
      let r := (j.dq q).deliver c n rm
      .ok (queueOperand t isA lane0 k0 r.1 kept, r.2, s.updJobOf w fun j => j.updDq q fun x => x.remove c n)

/-- An operand from a tile queue: the head entry's next K-step; an entry of another format stops the MMA (R145). -/
def State.opTile (s : State) (w : Who) (t : BitVec 256) (isA : Bool) (lane0 k0 : Nat) (kept : List (Val × Bool)) : Except StepStop (Operand × State) :=
  let n := qName (BitVec.ofNat 6 (tBase t))
  let s0 := { s with cur := w }
  let q := s0.tq n
  match s0.tqHead n (s.timeOf w) with
  | none => .error .wait
  | some e =>
    if e.tag ≠ tFmt t then .error (.stop { cause := .tqBad, info0 := zx64 e.tag })
    else
      let sb := stepBytes (tFmt t)
      let per := 4096 / sb
      let off := q.used * sb
      let bs := (rowBytes e.image off sb).zipIdx.map fun (b, i) => (b, e.ue || e.poison.getLsbD ((off + i) / 128))
      let last := q.used + 1 ≥ per
      let s := { ((s0.tqTouch n 0).updTq n fun x => if last then x.pop else { x with used := x.used + 1 }) with cur := s.cur }
      .ok ({ queueOperand t isA lane0 k0 bs kept with popped := if last then 1 else 0 }, s)

/-- What one K-step reads of an image: the whole record of a SEED entry, else its own bytes (R283, R284). -/
def State.stepImage (s : State) (d : DieId) (c : CoreId) (u : DirUse) (step : Nat) (since : Option Nat) : List (Byte × Bool) × State :=
  let b := stepBytes (dFmt u.entry)
  if dKind u.entry = 2 then s.imageBytes d c u 0 (dLen u.entry) since else s.imageBytes d c u (step * b) b since

/-- B from the canopy (R147, R148, R284): the K-step's entry as it stood at issue, elements outside under EDGE. -/
def State.opCanopy (s : State) (d : DieId) (c : CoreId) (t : BitVec 256) (dirs : List DirUse) (lane0 k0 : Nat) (since : Option Nat) :
    Except StepStop (Operand × State) :=
  match edgeIndex (tEdge t) k0 (tRows t), edgeIndex (tEdge t) lane0 (tCols t) with
  | some kk, some nn =>
    match dirs.find? fun u => u.asked == tileIndex t kk nn with
    | none => .ok ({ lanes := List.replicate 32 (List.replicate 16 (.fin false 0 0, false)) }, s)
    | some u =>
      let step := kk % 512 / 16
      let whole : Except StepStop (List (List (Val × Bool)) × List (Byte × Bool) × State) :=
        if dKind u.entry = 2 then
          let (r, s) := s.stepImage d c u step since
          let b := r.map (·.1)
          let ue := r.any (·.2)
          if !ue && recCrc b != recCheck b then .error (.stop (stopOf .seedRec))
          else
            let ws := seedWeights b (16 * step) 16
            .ok ((List.range 32).map fun n => ws.map fun row => (row.getD n .nan, ue), r, s)
        else
          let f := dFmt u.entry
          let (r, s) := s.stepImage d c u step since
          .ok (lanesOf f r, r, s)
      match whole with
      | .error e => .error e
      | .ok (l, bs, s) =>
        let pick (n k : Nat) : Val × Bool :=
          match edgeIndex (tEdge t) (k0 + k) (tRows t), edgeIndex (tEdge t) (lane0 + n) (tCols t) with
          | some i, some j => ((l.getD (j % 32) []).getD (i % 16) (.nan, false))
          | _, _ => (.fin false 0 0, false)
        .ok ({ lanes := (List.range 32).map fun n => (List.range 16).map fun k => pick n k, bytes := bs, unit := (unitOf (dFmt u.entry)).1 }, s)
  | _, _ => .ok ({ lanes := List.replicate 32 (List.replicate 16 (.fin false 0 0, false)) }, s)

/-- A retained queue operand at a replay: the converted bytes of its K-step again (R318). -/
def retainedOp (t : BitVec 256) (isA : Bool) (lane0 k0 : Nat) (l : List (Byte × Bool)) (kept : List (Val × Bool)) (step : Nat) : Operand :=
  let sb := stepBytes (tFmt t)
  queueOperand t isA lane0 k0 ((l.drop (step * sb)).take sb) kept

/-! ## Rates (R68, R145, R146), in eighths of a cycle -/

/-- A format's cycles per K-step. -/
def fmtRate (f : BitVec 5) : Nat :=
  if f = 4 ∨ f = 5 then 16 else if f = 6 ∨ f = 7 then 32 else if f = 1 ∨ stepBytes f = 320 then 4 else if stepBytes f = 192 then 2 else 8

/-- The cycles of K-step `step` of an MMA: the largest of the format terms and the byte terms of each source path. -/
def Mma.rate (m : Mma) (step : Nat) : Nat :=
  let fa := tFmt m.ta
  let use : Option DirUse :=
    if tLoc m.tb = 3 then
      match edgeIndex (tEdge m.tb) (16 * (bits m.kr 31 0 + step)) (tRows m.tb), edgeIndex (tEdge m.tb) (32 * bits m.idx 63 32) (tCols m.tb) with
      | some k, some n => m.dirs.find? fun u => u.asked == tileIndex m.tb k n
      | _, _ => none
    else none
  let (fb, seeded) := match use with
    | some u => (dFmt u.entry, dKind u.entry == 2)
    | none => (if tLoc m.tb = 3 then fa else tFmt m.tb, false)
  let byte (f : BitVec 5) : Nat := stepBytes f / 64
  let queueA := tLoc m.ta == 4 || tLoc m.ta == 5
  let queueB := tLoc m.tb == 4 || tLoc m.tb == 5
  let shared := if queueA && queueB then byte fa + byte fb else 0
  if seeded then max (2 * fmtRate fa) (byte fa) else max (max (fmtRate fa) (fmtRate fb)) (max (max (byte fa) (byte fb)) shared)

/-- The cycles from an MMA's start to the addition of K-step `step`, from K-step `from_` on. -/
def Mma.due (m : Mma) (step : Nat) : Nat := cdiv ((List.range (step + 1)).foldl (fun a u => a + m.rate u) 0) 8

/-- The cycle the array begins K-step `done` of an MMA started at a. -/
def Mma.begun (m : Mma) (done : Nat) (a : Int) : Int := if done = 0 then a else a + (m.due (done - 1) : Int)

/-- The start of an MMA whose K-step `done` begins no sooner than a cycle. -/
def Mma.heldTo (m : Mma) (done : Nat) (a : Int) (t : Nat) : Int := a + max 0 ((t : Int) - m.begun done a)

/-! ## One operand of a K-step -/

/-- One operand of K-step `step` of an MMA; flags of a queue's conversion beside it. -/
def State.operand (s : State) (w : Who) (m : Mma) (isA replay : Bool) (step : Nat) (rm : BitVec 3) : Except StepStop (Operand × FlagSet × State) :=
  let t := if isA then m.ta else m.tb
  let lane0 := 32 * (if isA then bits m.idx 31 0 else bits m.idx 63 32)
  let k0 := 16 * (bits m.kr 31 0 + step)
  let kept := if isA then m.ka else m.kb
  if replay && (tLoc t == 4 || tLoc t == 5) then .ok (retainedOp t isA lane0 k0 (if isA then m.qa else m.qb) kept step, 0, s)
  else if tLoc t = 5 then s.opData w t isA lane0 k0 kept rm
  else if tLoc t = 4 then (s.opTile w t isA lane0 k0 kept).map fun r => (r.1, 0, r.2)
  else if tLoc t = 3 then match w with
    | .eng d c _ _ =>
      -- the rows of a K-step are resolved one by one in the cycles the K-step takes (R287)
      (s.opCanopy d c t m.dirs lane0 k0 (some (s.timeOf w - cdiv (m.rate step) 8))).map fun r => (r.1, 0, r.2)
    | .sys _ => .error .wait
  else .ok (s.opLocal w t isA lane0 k0, 0, s)

end Sys2Proof.Machine
end

