-- ==== Sys2Proof/Machine/MatrixWords.lean ====
section
/-! DEFINITION. MOPEN, MMA, TSTART, TEND, MRD, MCVT and MCHK, and the steps MMA_START, MMA_KSTEP, TEND_CHECK (spec/07_registers_accumulators.md
R137-R163, R436, R438; spec/02_jobs.md R34; spec/18_containment.md R388, R392, R393). -/

namespace Sys2Proof.Machine
open Sys2Proof

/-! ## Ownership and what holds a matrix word (R141, R151) -/

/-- The tile a word of M names while it is in flight. -/
def Work.tile? : Work → Option (BitVec 2)
  | .mopen z .. | .mcvt z .. => some z
  | .mma m .. => some m.z
  | .tend z .. => some z
  | .mrd z .. => some z
  | .seedscan z .. => some z
  | .seedfit z .. => some z
  | _ => none

/-- Has the open window seen an error: one it noted, or an uncorrectable one that stands in a row (R161, R388)? -/
def Tile.erred (t : Tile) : Bool := t.ue != 0 || t.win.any (·.err)

/-- Will a TEND of this window replay it, as the tile stands, or has it (R161)? -/
def Tile.replays (t : Tile) (tol : BitVec 32) : Bool :=
  match t.win with
  | none => false
  | some v => v.replays != 0 || (v.replayable && (t.erred || (t.armed && decide (0 < t.mismatches tol))))

/-- Does the word in flight keep its tile busy (R151, R153)? A TEND does that replays its window. -/
def Job.keepsBusy (j : Job) (f : Flight) : Bool :=
  match f.work with
  | .tend z replaying .. => replaying.isSome || (j.tile z).replays f.tol
  | w => w.tile?.isSome

def isMma : Work → Bool
  | .mma .. => true
  | _ => false

/-- A matrix word other than MMA waits for the slot's MMA and for words that name its tile; an MMA for words other than MMA on its tile (R141).
A TEND on the tile holds every later word that names it (R162, DEDUCED). -/
def matrixReady (z : BitVec 2) (mma : Bool) (s : State) : Bool :=
  s.str.flights.all fun f => if isMma f.work then mma else f.work.tile? != some z

/-- Does the array of the current core have room: fewer than four buffered (R34)? -/
def State.arrayRoom (s : State) : Bool :=
  match s.cur with
  | .eng d c _ _ => decide ((s.core d c).array.length < 4)
  | .sys _ => true

/-- Is the tile declared (R137)? -/
def State.tileBad (s : State) (z : BitVec 2) : Option Stop :=
  if s.jb.kernel.acc ≤ z.toNat then some { cause := .tileRange, info0 := zx64 z } else none

/-- The save-area offset of a tile's row (R208). -/
def Job.tileOffset (j : Job) (z row : Nat) : Nat := 0x10000 + j.spBytes + 0x20000 * z + 4096 * row

/-- The stop of a read of a tile's uncorrectable row (R387, R388). -/
def Job.rowUe (j : Job) (z : BitVec 2) (r : Nat) : Stop := { cause := .stateUe, info0 := BitVec.ofNat 64 (j.tileOffset z.toNat r) }
/-- The stop of a read of a tile with an uncorrectable row and no open window (R388). -/
def Job.tileUe (j : Job) (z : BitVec 2) : Option Stop :=
  if (j.tile z).win.isSome then none else ((List.range 32).find? fun r => (j.tile z).ue.getLsbD r).map (j.rowUe z)

/-! ## MOPEN (R153) -/

/-- What MOPEN makes of a tile. -/
def Tile.opened (t : Tile) (zf : Bool) (ty : BitVec 5) : Tile :=
  if zf then { t.zeroed with ty := ty, armed := ty == 0x0C, ckRow := Vector.replicate 32 0, ckCol := Vector.replicate 32 0 }
  else { t with ty := ty, cls := 0, armed := false }

/-- A tile type's lane count; none: no tile type (R138). -/
def tileLanes (ty : BitVec 5) : Option Nat :=
  if ty = 0x0C then some 32 else if ty = 8 ∨ ty = 3 then some 1024 else if ty = 7 ∨ ty = 6 then some 2048
  else if ty = 0 ∨ ty = 4 ∨ ty = 5 then some 4096 else none

/-- MOPEN. -/
def execMopen (h : Hdr) (g : Guard) (z : BitVec 2) (zf : Bool) (type5 : BitVec 5) (s : State) : Host.Outcome State Fault Refusal :=
  runGuarded (.mopen h g z zf type5) h g (matrixReady z false) (fun s =>
    match s.tileBad z with
    | some e => .error e
    | none =>
      if (tileLanes type5).isNone then .error (stopOf .typeBad)
      else if (s.jb.tile z).win.isSome then .error (stopOf .windowBad)
      else .ok (s.launchWord h.tks (some (s.now + 2)) [] (.mopen z zf type5), .fall)) s

/-! ## MMA (R142-R147) -/

/-- An MMA as its word and registers give it. -/
def mmaOf (z : BitVec 2) (ta tb : BitVec 6) (idx kr : BitVec 5) (ck : Bool) (s : State) : Mma :=
  { z := z, at_ := ta.toNat, bt := tb.toNat, ta := s.tensor 3 ta, tb := s.tensor (secondSite ta tb) tb, idx := s.readX 0 idx, kr := s.readX 1 kr, ck := ck, dirs := []
    id := s.str.nextId, word := (s.jb.kernel.progs[3]?.getD [])[s.str.pc.toNat]?.getD 0 }

def Mma.a (m : Mma) : Nat := bits m.idx 31 0
def Mma.b (m : Mma) : Nat := bits m.idx 63 32
def Mma.k0 (m : Mma) : Nat := bits m.kr 31 0
def Mma.nk (m : Mma) : Nat := bits m.kr 63 32

/-- Does the MMA read scratchpad? -/
def Mma.readsPad (m : Mma) : Bool := tLoc m.ta == 0 || tLoc m.tb == 0

/-- Does the MMA read an element outside a tensor whose EDGE is FAULT? -/
def Mma.edgeBad (m : Mma) (isA : Bool) : Bool :=
  let t := if isA then m.ta else m.tb
  let (r, c) := if isA then (32 * m.a + 32, 16 * (m.k0 + m.nk)) else (16 * (m.k0 + m.nk), 32 * m.b + 32)
  tEdge t == 2 && m.nk != 0 && decide (tRows t < r ∨ tCols t < c)

/-- The bank group of a scratchpad offset (R353). -/
def Kernel.group (k : Kernel) (o : Nat) : Nat :=
  ((List.range 4).find? fun g => decide (o < 4096 * (k.sp.take (g + 1)).foldl (· + ·) 0)).getD 3

/-- How many of an MMA's K-elements are looked at along an extent of n elements: all, but one alone of those beyond the extent, which EDGE
resolves alike. -/
def Mma.span (m : Mma) (n : Nat) : Nat := min (16 * m.nk) (max 1 (n + 1 - 16 * m.k0))

/-- The bank groups of the scratchpad bytes an operand reads (R143, R144). -/
def Mma.groups (m : Mma) (k : Kernel) (isA : Bool) : List Nat :=
  let t := if isA then m.ta else m.tb
  let lane0 := 32 * (if isA then m.a else m.b)
  if tLoc t ≠ 0 then []
  else
    ((List.range 32).flatMap fun n => (List.range (m.span (if isA then tCols t else tRows t))).flatMap fun e =>
      let (i, j) := opCoord isA (lane0 + n) (16 * m.k0 + e)
      match edgeIndex (tEdge t) i (tRows t), edgeIndex (tEdge t) j (tCols t) with
      | some i, some j =>
        let o := tBase t + (elemUnit t i j).1
        [k.group o, k.group (o + (unitOf (tFmt t)).1 - 1)]
      | _, _ => []).eraseDups

/-- The directory indices an MMA uses (R147). -/
def Mma.indices (m : Mma) : List Nat :=
  if tLoc m.tb ≠ 3 then []
  else
    ((List.range (cdiv (m.span (tRows m.tb)) 16)).filterMap fun u =>
      match edgeIndex (tEdge m.tb) (16 * (m.k0 + u)) (tRows m.tb), edgeIndex (tEdge m.tb) (32 * m.b) (tCols m.tb) with
      | some k, some n => some (tileIndex m.tb k n)
      | _, _ => none).eraseDups

/-- Source bytes of a queue's capacity that a pop or push of n sink elements moves (R307). -/
def qMoved (c : Word) (n : Nat) : Nat :=
  let (ub, pe) := unitOf (qSrc c)
  cdiv n pe * ub

/-- The stop of R143 for a queue operand of an MMA, and of a K-step larger than its queue (R307) where it has one. -/
def State.mmaQueueBad (s : State) (t : BitVec 256) (none_ : Bool) : Option Stop :=
  if tLoc t = 5 then
    let c := s.jb.qcfg (tBase t)
    if 16 ≤ tBase t then some (stopOf .queueCfg)
    else match queueCheck c false s.eng with
      | some e => some (stopOf e)
      | none =>
        if qSnk c ≠ tFmt t then some (stopOf .queueCfg)
        else if !none_ && decide (qCap c < qMoved c (sinkElems c (stepBytes (tFmt t)))) then some (stopOf .lenRange)
        else none
  else if tLoc t = 4 then
    if 64 ≤ tBase t ∨ tBase t < 16 ∨ !s.tqUsable (qName (BitVec.ofNat 6 (tBase t))) then some (stopOf .queueCfg) else none
  else none

/-- The directory entries an MMA uses, resolved in its core's column. -/
def State.mmaDirs (s : State) (m : Mma) : Except DirFail (List DirUse) × State :=
  match s.cur with
  | .eng d c _ _ => s.resolveDirs d c m.indices
  | .sys _ => (.ok [], s)

/-- The checks of R143, in order; with them the directory entries the MMA will use. -/
def State.mmaCheck (s : State) (m : Mma) (ta tb : BitVec 6) : Except Stop (List DirUse × State) :=
  let num (c : Cause) (n : BitVec 6) : Stop := { cause := c, info0 := zx64 n }
  match s.tileBad m.z with
  | some e => .error e
  | none =>
    if (s.jb.tile m.z).ty ≠ 0x0C then .error (stopOf .typeBad)
    else match s.entryBad ta m.ta [0, 4, 5] .tensorBad with
      | some e => .error e
      | none => match s.entryBad tb m.tb [0, 3, 4, 5] .tensorBad with
        | some e => .error e
        | none =>
          if tFmtReserved m.ta || tFmtReserved m.tb then .error (stopOf .fmtBad)
          else if !matrixFmt (tFmt m.ta) then .error (num .typeBad ta)
          else if tLoc m.tb ≠ 3 ∧ !matrixFmt (tFmt m.tb) then .error (num .typeBad tb)
          else match s.mmaQueueBad m.ta (m.nk == 0) with
            | some e => .error e
            | none => match s.mmaQueueBad m.tb (m.nk == 0) with
              | some e => .error e
              | none =>
                -- R205 gives this check no place among those of R143 (log 37)
                if 2 ^ 32 < m.k0 + m.nk ∨ 2 ^ 27 < m.nk then .error (stopOf .kstepRange)
                else if m.edgeBad true then .error (num .tileRange ta)
                else if m.edgeBad false then .error (num .tileRange tb)
                else
                  let ga := m.groups s.jb.kernel true
                  match (List.range 4).find? fun g => ga.contains g && (m.groups s.jb.kernel false).contains g with
                  | some g => .error { cause := .bankConflict, info0 := BitVec.ofNat 64 g }
                  | none =>
                    let r := s.mmaDirs m
                    match r.1 with
                    | .ok us => .ok (us, r.2)
                    | .error (.empty _) => .error (num .tensorBad tb)
                    | .error .outside => .error (stopOf .canopyCol)
                    | .error (.unreadable i) => .error { cause := .canopyUe, info0 := BitVec.ofNat 64 i }

/-- An open window retains the MMA, up to 16 (R159). -/
def Window.retain (w : Window) (m : Mma) : Window :=
  if w.retained.length < 16 then { w with retained := w.retained ++ [m] } else { w with replayable := false }

/-- MMA. -/
def execMma (h : Hdr) (g : Guard) (z : BitVec 2) (ta tb : BitVec 6) (idx kr : BitVec 5) (ck : Bool) (s : State) : Host.Outcome State Fault Refusal :=
  runGuarded (.mma h g z ta tb idx kr ck) h g (fun s => matrixReady z true s && s.arrayRoom) (fun s =>
    let m := mmaOf z ta tb idx kr ck s
    match s.mmaCheck m ta tb with
    | .error e => .error e
    | .ok (us, s) =>
      let m := { m with dirs := us }
      let s := s.updJb fun j => j.updTile z fun t =>
        { t with armed := t.armed && ck, win := t.win.map fun v => v.retain m }
      if m.nk = 0 then .ok (s.launchWord h.tks (some (s.now + 1)) [] (.mma m 0 none), .fall)
      else
        let id := s.str.nextId
        let s := s.launchWord h.tks none [] (.mma m 0 none)
        .ok (match s.cur with
          | .eng d c k _ => s.updCore d c fun x => { x with array := x.array ++ [{ slot := k, id := id }] }
          | .sys _ => s, .fall)) s

/-! ## TSTART and TEND (R158, R161, R438) -/

/-- The checks of TSTART before its wait. -/
def State.tstartBad (s : State) (z k : BitVec 2) (we : Bool) : Option Stop :=
  match s.tileBad z with
  | some e => some e
  | none =>
    if (s.jb.tile z).ty ≠ 0x0C then some (stopOf .typeBad)
    else if (s.jb.tile z).win.isSome then some (stopOf .windowBad)
    else if we && decide (s.jb.kernel.chan ≤ k.toNat) then some (stopOf .queueCfg)
    else none

/-- Is the window sampled for audit (R393)? The random draw is a free value. -/
def State.sampled (s : State) : Bool :=
  match s.cur with
  | .eng d c _ _ =>
    let x := s.die d
    let g := s.grove d (groveOf c)
    !g.spareUsed && !g.auditOff && decide (x.audfrac.toNat < 32) && Config.freeNat s.free 100 % 2 ^ x.audfrac.toNat == 0
  | .sys _ => false

/-- TSTART: with WE, issue waits for the channel's write pointer; the window is open from its issue on, and it completes 2 cycles later. -/
def execTstart (h : Hdr) (g : Guard) (z k : BitVec 2) (we : Bool) (thr : BitVec 5) (s : State) : Host.Outcome State Fault Refusal :=
  runGuarded (.tstart h g z k we thr) h g
    (fun s => matrixReady z false s && ((s.tstartBad z k we).isSome || !we || decide ((s.readX 0 thr).toNat ≤ (s.jb.chan k.toNat).wp)))
    (fun s =>
      match s.tstartBad z k we with
      | some e => .error e
      | none =>
        let smp := s.sampled
        let open_ (t : Tile) : Tile :=
          { t.zeroed with
            armed := true, ckRow := Vector.replicate 32 0, ckCol := Vector.replicate 32 0, replayed := 0, win := some { sampled := smp } }
        .ok ((s.updJb fun j => j.writeTile z open_).launchWord h.tks (some (s.now + 2)) [] .fixed, .fall)) s

/-- TEND: the check's result comes 4 cycles after issue. -/
def execTend (h : Hdr) (g : Guard) (z : BitVec 2) (s : State) : Host.Outcome State Fault Refusal :=
  runGuarded (.tend h g z) h g (matrixReady z false) (fun s =>
    match s.tileBad z with
    | some e => .error e
    | none =>
      if (s.jb.tile z).win.isNone then .error (stopOf .windowBad)
      else .ok (s.launchWord h.tks none [] (.tend z none 0 none (s.now + 4)), .fall)) s

/-- Frees what a window retains of queues (R318). -/
def State.freeRetained (s : State) (w : Who) (ms : List Mma) : State :=
  let dq (j : Job) : Job := (List.range 16).foldl (fun j q => j.updDq q fun x => { x with retained := x.retained - ms.foldl (fun n m => n + m.heldDq j q) 0 }) j
  let s := s.updJobOf w dq
  let s' := (List.range 48).foldl (fun (s : State) i =>
    let n := qName (BitVec.ofNat 6 (i + 16))
    let held := ms.foldl (fun a m => a + m.heldTq (i + 16)) 0
    if held = 0 then s else s.updTq n fun x => { x with retained := x.retained - held }) { s with cur := w }
  { s' with cur := s.cur }

/-- Is an operand's queue its grove's? -/
def ofGrove (t : BitVec 256) : Bool := tLoc t == 4 && decide (48 ≤ tBase t)
/-- What an MMA holds of its grove's queues alone. -/
def Mma.inGrove (m : Mma) : Mma :=
  { m with
    ea := if ofGrove m.ta then m.ea else 0, eb := if ofGrove m.tb then m.eb else 0
    qa := if ofGrove m.ta then m.qa else [], qb := if ofGrove m.tb then m.qb else [] }
/-- What an MMA holds once its job has left the grove: what it retained of the grove's queues goes with the job's saved state (R318). -/
def Mma.moved (m : Mma) : Mma := { m with ea := if ofGrove m.ta then 0 else m.ea, eb := if ofGrove m.tb then 0 else m.eb }
def Window.moved (v : Window) : Window := { v with retained := v.retained.map Mma.moved }

/-- A window ends in an error (R392): three within a second of global time quarantine the core (R397); answers whether it is the third. -/
def State.badWindow (s : State) (d : DieId) (c : CoreId) : State × Bool :=
  let recent := (s.core d c).badWindows.filter fun t => decide (s.time < t + 1000 * msUnits)
  (s.updCore d c fun x => { x with badWindows := recent ++ [s.time] }, decide (3 ≤ recent.length + 1))

/-- CORE_QUARANTINE (R397): the core takes no job from now on and an event is queued; its resident jobs are pre-empted by the distributor. -/
def State.quarantine (s : State) (d : DieId) (c : CoreId) : State :=
  if (s.core d c).quarantined then s
  else (s.updCore d c fun x => { x with quarantined := true }).queueEvent d (eventRecord 5 true Cause.coreQuarantine.code c.val 0)

/-- A bad window's bookkeeping. -/
def State.noteBadWindow (s : State) (w : Who) : State :=
  match w with
  | .eng d c _ _ =>
    let (s, third) := s.badWindow d c
    if third then s.quarantine d c else s
  | .sys _ => s

/-- The audit log's bytes of retained MMA (R394): each word with IDX and KR. -/
def mmaBytes (ms : List Mma) : List Byte := ms.flatMap fun m => leBytes 8 m.word.toNat ++ leBytes 8 m.idx.toNat ++ leBytes 8 m.kr.toNat

/-- The signature of a committed tile (R394). -/
def Tile.signature (t : Tile) : BitVec 32 :=
  crc32c ((List.range 32).flatMap fun i => (List.range 32).flatMap fun j => leBytes 128 (t.elem i j).toNat ++ [(clsBits (t.elemCls i j)).zeroExtend 8])

/-- Do n bytes at an offset of the audit log lie in it and free (R394)? -/
def Die.auditFree (x : Die) (o n : Nat) : Bool :=
  decide (o + n ≤ 2 ^ 24) && x.audit.all fun e => decide (o + n ≤ e.offset ∨ e.offset + 64 + e.bytes.length ≤ o)

/-- Where an entry of n bytes finds room in the audit log: at its start, or behind an entry (R394, log 60). -/
def Die.auditPlace (x : Die) (n : Nat) : Option Nat :=
  (0 :: x.audit.map fun e => (e.offset + 64 + e.bytes.length + 63) / 64 * 64).find? fun o => x.auditFree o n

/-- A sampled window's entry at its commit (R394). -/
def State.auditEntry (s : State) (w : Who) (j : Job) (z : BitVec 2) (v : Window) : State :=
  match w with
  | .eng d c _ _ =>
    if !v.sampled then s
    else
      let head := mmaBytes v.retained
      let body := head ++ v.log
      let x := s.die d
      match (if 64 + body.length ≤ 2 ^ 20 then x.auditPlace (64 + body.length) else none) with
      | none => s.noticeMs d Cause.auditSkip.code.toNat .auditSkip c.val
      | some o =>
        let e : AuditEntry := {
          core := pkgCore d c, handle := handleOf j.gen j.idx, tag := j.tag, job := j.number, tile := z, count := v.retained.length
          bytes := body, operands := v.log.length, sig := (j.tile z).signature, offset := o, steps := v.steps }
        let groups := (List.range 17).filter fun i => decide (65536 * i < o % 65536 + 64 + body.length)
        groups.foldl (fun s i => s.restamp d (auditRow (o + 65536 * i))) (s.updDie d fun x => { x with audit := x.audit ++ [e] })
  | .sys _ => s

/-- A replay is over: the checksum is disarmed if any retained MMA had CK = 0 (R161). -/
def Tile.afterReplay (t : Tile) : Tile :=
  { t with armed := t.armed && (match t.win with
    | some v => v.retained.all fun m => m.ck
    | none => true) }

/-- TEND_CHECK (R157, R161, R438): the result of TEND's check: clean, a replay, or a stop. A replay without a
K-step has its result 4 cycles later (log 125). -/
def execTendCheck (d : DieId) (c : CoreId) (k : SlotId) (s : State) : Host.Outcome State Fault Refusal :=
  let w : Who := .eng d c k .m
  match s.slotJob? d c k with
  | none => .next s
  | some j =>
    let now := s.timeOf w
    let due (f : Flight) : Bool := !f.halted && (match f.work with
      | .tend _ replaying _ _ result => replaying.isNone && decide (result ≤ now)
      | _ => false)
    match (j.streams[(3 : Fin 5)]).flights.find? due with
    | none => .next s
    | some f => match f.work with
      | .tend z _ _ _ result =>
        let t := State.seenTile { s with cur := w } z
        (match t.win with
        | none => .next (s.complete w f)
        | some v =>
          let mis := if t.armed then t.mismatches f.tol else 0
          if !t.erred && mis = 0 then
            let s := s.auditEntry w j z v
            let s := (s.freeRetained w v.retained).updJobOf w fun j => j.updTile z fun t => { t with win := none, replayed := v.replays }
            .next (s.complete w f)
          else if !v.replayable then .next (s.stopFlight w f { cause := .retainOver, info0 := zx64 z })
          else if v.replays = 2 then
            .next ((s.stopFlight w f { cause := if t.erred then .ueConsumed else .abftMismatch, info0 := BitVec.ofNat 64 (z.toNat + 256 * mis) }).noteBadWindow w)
          else
            let s := s.notice d .replayed c.val (handleOf j.gen j.idx)
            let again (t : Tile) : Tile :=
              { t.zeroed with
                armed := true, ckRow := Vector.replicate 32 0, ckCol := Vector.replicate 32 0
                win := some { v with err := false, replays := v.replays + 1, log := [], steps := [] } }
            let s := s.updJobOf w fun j => j.writeTile z again
            if v.retained.all fun m => m.nk == 0 then
              .next ((s.updJobOf w fun j => j.updTile z Tile.afterReplay).updStream w fun st => st.updFlight f.id fun y => { y with work := .tend z none 0 none (max now result + 4) })
            else
              .next ((s.updStream w fun st => st.updFlight f.id fun y => { y with work := .tend z (some 0) 0 none result }).updCore d c fun x =>
                { x with array := x.array ++ [{ slot := k, id := f.id }] }))
      | _ => .next s

/-! ## The array at work -/

/-- MMA_START (R146, R438): the array's first entry gets its start cycle: an MMA's is at least 8 cycles after its issue, a replay's after its
check's result, and none before the array's previous MMA completed. -/
def execMmaStart (d : DieId) (c : CoreId) (s : State) : Host.Outcome State Fault Refusal :=
  match (s.core d c).array with
  | [] => .next s
  | e :: _ =>
    let w : Who := .eng d c e.slot .m
    let prev := (s.core d c).arrayDone
    match s.flight? w e.id with
    | none => .next (s.updCore d c fun x => { x with array := x.array.drop 1 })
    | some f => match f.work with
      | .mma m done none =>
        let a : Int := max (f.issued + 8) prev
        let a := if done = 0 then a else a - (m.due (done - 1) : Int)
        .next (s.updStream w fun st => st.updFlight f.id fun y => { y with work := .mma m done (some a) })
      | .tend z (some i) done none result =>
        .next (s.updStream w fun st => st.updFlight f.id fun y => { y with work := .tend z (some i) done (some (max (result + 8) prev : Nat)) result })
      | _ => .next s

/-- What UEPOL makes of the error marks of one operand in a K-step (R149, R436): the values, whether zeros were substituted, whether the window's
error is noted; or the stop. -/
def settle (t : BitVec 256) (num : Nat) (kstep : Nat) (window seeded : Bool) (l : List (List (Val × Bool))) : Except Stop (List (List Val) × Bool × Bool) :=
  let plain := l.map fun r => r.map (·.1)
  if !l.any fun r => r.any (·.2) then .ok (plain, false, false)
  else if tUepol t = 1 then
    .ok (l.map fun r => r.map fun v => if v.2 || seeded then .fin false 0 0 else v.1, true, false)
  else if tUepol t = 2 ∧ window then .ok (plain, false, true)
  else .error { cause := .ueConsumed, info0 := BitVec.ofNat 64 (num + 256 * kstep) }

/-- The outcome of trying one K-step. -/
inductive KStep where
  | wait
  | stop (st : Stop)
  | added (m : Mma) (effs : List Eff) (s : State)

/-- One K-step of an MMA, fresh or replayed, added to its tile (R142, R149, R156, R318, R388). -/
def State.addKStep (s : State) (w : Who) (m : Mma) (replay : Bool) (step : Nat) (rm : BitVec 3) : KStep :=
  match s.operand w m true replay step rm with
  | .error .wait => .wait
  | .error (.stop st) => .stop st
  | .ok (a, fa, s1) =>
    match s1.operand w m false replay step rm with
    | .error .wait => .wait
    | .error (.stop st) => .stop st
    | .ok (b, fb, s2) =>
      match s2.jobOf? w with
      | none => .wait
      | some j =>
        let t := State.seenTile { s2 with cur := w } m.z
        let open_ := t.win.isSome
        let ks := m.k0 + step
        let seeded := tLoc m.tb == 3 && m.dirs.any fun u => dKind u.entry == 2 && (match edgeIndex (tEdge m.tb) (16 * ks) (tRows m.tb), edgeIndex (tEdge m.tb) (32 * m.b) (tCols m.tb) with
          | some k, some n => u.asked == tileIndex m.tb k n
          | _, _ => false)
        match settle m.ta m.at_ ks open_ false a.lanes, settle m.tb m.bt ks open_ seeded b.lanes with
        | .error st, _ => .stop st
        | _, .error st => .stop st
        | .ok (va, za, ea), .ok (vb, zb, eb) =>
          if t.ue != 0 && !open_ then .stop ((j.tileUe m.z).getD (stopOf .stateUe))
          else
            let (t', inv) := t.addStep va vb m.ck
            let s3 := if za then s2.zeroSub w m.at_ else s2
            let s3 := if zb then s3.zeroSub w m.bt else s3
            let note (l : List (Byte × Bool)) (t : BitVec 256) (o : Operand) : List (Byte × Bool) := if !replay && (tLoc t = 4 ∨ tLoc t = 5) then l ++ o.bytes else l
            let held : Bool := match t.win with
              | some v => v.replayable && v.retained.any fun x => x.id == m.id
              | none => false
            let m : Mma := { m with ka := a.edge, kb := b.edge }
            let m' : Mma := if replay || !held then m else { m with qa := note m.qa m.ta a, qb := note m.qb m.tb b, ea := m.ea + a.popped, eb := m.eb + b.popped }
            let win (v : Window) : Window :=
              { v with
                err := v.err || ea || eb || t.ue != 0
                retained := if replay then v.retained else v.retained.map fun x => if x.id = m.id then m' else x
                log := if v.sampled then v.log ++ a.consumed (tUepol m.ta == 1) false ++ b.consumed (tUepol m.tb == 1) seeded else v.log
                steps := if v.sampled then v.steps ++ [(va, vb)] else v.steps }
            let hold (s : State) (t : BitVec 256) (o : Operand) : State :=
              if replay || !held then s
              else if tLoc t = 5 then s.updJobOf w fun j =>
                let q := tBase t
                let (ub, pe) := unitOf (qSrc (j.qcfg q))
                j.updDq q fun x => { x with retained := x.retained + cdiv (sinkElems (j.qcfg q) o.bytes.length) pe * ub }
              else if tLoc t = 4 then { (({ s with cur := w } : State).updTq (qName (BitVec.ofNat 6 (tBase t))) fun x => { x with retained := x.retained + o.popped }) with cur := s.cur }
              else s
            let s3 := hold (hold s3 m.ta a) m.tb b
            .added m' (flagEff (fa ||| fb ||| (if inv then flInv else 0)))
              (s3.updJobOf w fun j => j.writeTile m.z fun x => { t' with win := x.win.map win, ue := x.ue })

/-- A K-step stops its word; what its canopy read corrected and noticed stands (R289). -/
def State.stopKStep (s : State) (w : Who) (f : Flight) (m : Mma) (step : Nat) (st : Stop) : State :=
  let met (d : DieId) (c : CoreId) : State :=
    match edgeIndex (tEdge m.tb) (16 * (m.k0 + step)) (tRows m.tb), edgeIndex (tEdge m.tb) (32 * m.b) (tCols m.tb) with
    | some k, some n => match m.dirs.find? fun u => u.asked == tileIndex m.tb k n with
      | some u => (s.stepImage d c u (k % 512 / 16) none).2
      | none => s
    | _, _ => s
  (match w with
    | .eng d c _ _ => if tLoc m.tb = 3 then met d c else s
    | .sys _ => s).stopFlight w f st

/-- The tile's window ends with a K-step's stop: UE_CONSUMED counts against its core (R392). -/
def State.endsWindow (s : State) (w : Who) (z : BitVec 2) (st : Stop) : State :=
  if st.cause = .ueConsumed ∧ ((s.jobOf? w).any fun j => (j.tile z).win.isSome) = true then s.noteBadWindow w else s

/-- The cycle until which a job's SEEDSCAN occupies the array (R141). -/
def Job.seedUntil (j : Job) : Nat :=
  (j.streams[(3 : Fin 5)]).flights.foldl (fun n f => match f.work, f.land with
    | .seedscan .., some t => max n t
    | _, _ => n) 0

/-- The cycle until which a running SEEDSCAN of either slot occupies the array. -/
def State.seedsUntil (s : State) (d : DieId) (c : CoreId) : Nat :=
  (List.finRange 2).foldl (fun n k => match s.slotJob? d c k with
    | some j => if j.running then max n j.seedUntil else n
    | none => n) 0

/-- The array's first entry leaves it. -/
def State.leaveArray (s : State) (d : DieId) (c : CoreId) (now : Nat) : State :=
  s.updCore d c fun x => { x with array := x.array.drop 1, arrayDone := max x.arrayDone now }

/-- May K-step `done` be added, which the array began in its own cycle `begun`? A stop lets the one under way end (R42). -/
def State.mayAdd (s : State) (w : Who) (begun due : Int) : Bool :=
  s.mayStep w || (s.live (whoDie w) && decide ((s.timeOf w : Int) = due) && (match s.jobOf? w with
    | some j => match j.phase with
      | .stopping _ p => decide (begun < p)
      | _ => false
    | none => false))

/-- MMA_KSTEP (R142, R146): the array's first entry adds its next K-step once its cycle has come; waiting operands move the later ones. -/
def execMmaKstep (d : DieId) (c : CoreId) (s : State) : Host.Outcome State Fault Refusal :=
  match (s.core d c).array with
  | [] => .next s
  | e :: _ =>
    let w : Who := .eng d c e.slot .m
    let now := s.timeOf w
    -- the K-step after this one waits for a SEEDSCAN that the other slot has resumed (R141)
    let start (m : Mma) (done : Nat) (a : Int) : Option Int := some (m.heldTo (done + 1) a (s.seedsUntil d c))
    match s.flight? w e.id with
    | none => .next s
    | some f =>
      if f.halted then .next s
      else match f.work with
      | .mma m done (some a) =>
        let t : Int := a + m.due done
        if decide ((now : Int) < t) || !s.mayAdd w (m.begun done a) t || (m.readsPad && !s.acquired w f) then .next s
        else match s.addKStep w m false done f.rm with
          | .wait => .next s
          | .stop st => .next (((s.stopKStep w f m done st).endsWindow w m.z st).leaveArray d c now)
          | .added m' effs s =>
            let f' := { f with effs := f.effs ++ effs }
            if done + 1 = m.nk then .next ((s.complete w { f' with work := .mma m' (done + 1) (some a) }).leaveArray d c now)
            else .next (s.updStream w fun st => st.updFlight f.id fun y => { y with effs := f'.effs, work := .mma m' (done + 1) (start m' done (a + ((now : Int) - t))) })
      | .tend z (some i) done (some a) result =>
        (match (s.jobOf? w).bind fun j => (j.tile z).win.bind fun v => (v.retained.filter fun m => m.nk != 0)[i]? with
        | none => .next s
        | some m =>
          let t : Int := a + m.due done
          if (now : Int) < t then .next s
          else match s.addKStep w m true done f.rm with
            | .wait => .next s
            | .stop st => .next (((s.stopKStep w f m done st).endsWindow w m.z st).leaveArray d c now)
            | .added _ effs s =>
              let set (wk : Work) (s : State) : State := s.updStream w fun st => st.updFlight f.id fun y => { y with effs := f.effs ++ effs, work := wk }
              let more : Bool := match (s.jobOf? w).bind fun j => (j.tile z).win with
                | some v => decide (i + 1 < (v.retained.filter fun m => m.nk != 0).length)
                | none => false
              if done + 1 < m.nk then .next (set (.tend z (some i) (done + 1) (start m done (a + ((now : Int) - t))) result) s)
              else if more then .next (set (.tend z (some (i + 1)) 0 (some (now : Int)) result) s)
              else
                .next ((set (.tend z none 0 none (now + 4)) (s.updJobOf w fun j => j.updTile z Tile.afterReplay)).leaveArray d c now))
      | _ => .next s

/-! ## MRD (R154) -/

/-- Columns of a readout's row that lie inside its destination (R154). -/
def mrdCols (t : BitVec 256) (o : Word) : Nat := min 32 (tCols t - orgCol o)

/-- The checks of MRD, in order; the grove window last (R219). -/
def State.mrdBad (s : State) (z : BitVec 2) (dt : BitVec 6) (t : BitVec 256) (fmt : BitVec 5) (o : Word) : Option Stop :=
  match s.tileBad z with
  | some e => some e
  | none =>
    if (s.jb.tile z).win.isSome then some (stopOf .windowBad)
    else if (s.jb.tile z).ty ≠ 0x0C then some (stopOf .typeBad)
    else match s.useTensor dt t [0, 1, 4, 5] .tensorBad with
      | some e => some e
      | none =>
        if tFmt t ≠ fmt ∨ 0x0C ≤ fmt.toNat then some { cause := .tensorBad, info0 := zx64 dt }
        else if tLoc t = 4 ∧ (64 ≤ tBase t ∨ tBase t < 16 ∨ !s.tqUsable (qName (BitVec.ofNat 6 (tBase t)))) then some (stopOf .queueCfg)
        else match (if tLoc t = 5 then (if 16 ≤ tBase t then some .queueCfg else match queueCheck (s.jb.qcfg (tBase t)) true s.eng with
            | some c => some c
            | none =>
              if qSrc (s.jb.qcfg (tBase t)) ≠ fmt then some .queueCfg
              else if qCap (s.jb.qcfg (tBase t)) < qMoved (s.jb.qcfg (tBase t)) (mrdCols t o) then some .lenRange
              else none) else none : Option Cause) with
          | some c => some (stopOf c)
          | none =>
            if fmtIsSb fmt ∧ orgCol o % 16 ≠ 0 then some (stopOf .tensorAlign)
            else if tEdge t = 2 ∧ (tRows t < orgRow o + 32 ∨ tCols t < orgCol o + 32) then some { cause := .tileRange, info0 := zx64 dt }
            else if orgRow o < tRows t ∧ orgCol o < tCols t ∧ s.beyondWindow s.cur t (min (tRows t) (orgRow o + 32) - 1) (min (tCols t) (orgCol o + 32) - 1) then some (stopOf .tensorSpace)
            else s.jb.tileUe z

/-- MRD. -/
def execMrd (h : Hdr) (g : Guard) (z : BitVec 2) (dt : BitVec 6) (fmt : BitVec 5) (rnd : BitVec 3) (sat fin : Bool) (org : BitVec 5) (s : State) :
    Host.Outcome State Fault Refusal :=
  runGuarded (.mrd h g z dt fmt rnd sat fin org) h g (matrixReady z false) (fun s =>
    let t := s.tensor 3 dt
    let o := s.readX 0 org
    match s.mrdBad z dt t fmt o with
    | some e => .error e
    | none => .ok (s.launchWord h.tks none [] (.mrd z t fmt (effMode rnd.toNat fin s.rmode) sat o 0), .fall)) s

/-- Row i of a readout (R154): its bytes in FMT for the first n columns, those inside the destination, and the flags of all 32 conversions; of a
shared-block format the blocks that reach inside are encoded, with zeros for the columns beyond. -/
def readoutRow (t : Tile) (i n : Nat) (scale : Int) (fmt : BitVec 5) (mode : Nat) (sat : Bool) : List Byte × FlagSet :=
  let vals := (List.range 32).map fun j => if fmtIsSb fmt ∧ n ≤ j then .fin false 0 0 else Val.scale scale (t.value i j)
  if fmtIsSb fmt then encodeVals fmt (vals.take (cdiv n 16 * 16)) mode sat
  else ((encodeVals fmt (vals.take n) mode sat).1, (encodeVals fmt vals mode sat).2)

/-- MRD's next row written or pushed, or its tile-queue entry pushed; with the last it completes, no sooner than R154 says;
to a queue no sooner than to memory, and a tile-queue image holds all 32 by 32 results (log 123). -/
def State.mrdStep (s : State) (w : Who) (f : Flight) (z : BitVec 2) (t : BitVec 256) (fmt : BitVec 5) (mode : Nat) (sat : Bool) (o : Word) (done : Nat) : State :=
  match s.jobOf? w with
  | none => s
  | some j =>
    let now := s.timeOf w
    let tl := ({ s with cur := w } : State).seenTile z
    let set (s : State) (fl : FlagSet) : State :=
      s.updStream w fun st => st.updFlight f.id fun y => { y with effs := f.effs ++ flagEff fl, work := .mrd z t fmt mode sat o (done + 1) }
    let n := mrdCols t o
    -- an error that shows in a row it has still to read stops it (R388)
    let bad : Option Stop := ((if tLoc t = 4 then List.range 32 else [done]).find? fun r => tl.ue.getLsbD r).map (j.rowUe z)
    if done = 32 then (if now < f.issued + 40 then s else s.complete w f)
    else if now < f.issued + done + 1 then s
    else if let some st := bad then s.stopFlight w f st
    else if tLoc t = 4 then
      let q := qName (BitVec.ofNat 6 (tBase t))
      let s0 := { s with cur := w }
      if now < f.issued + 40 ∨ !s0.tqRoom q then s
      else
        let rows := (List.range 32).map fun i => readoutRow tl i 32 (tScale t) fmt mode sat
        let fl := rows.foldl (fun a r => a ||| r.2) 0
        let e : TqEntry := { image := rowOf (rows.flatMap (·.1)), tag := fmt, ready := now + 1, taken := now, rank := tqRank w }
        ({ ((s0.tqMake q).tqPush q e) with cur := s.cur } : State).complete w { f with effs := f.effs ++ flagEff fl }
    else
      let r := readoutRow tl done n (tScale t) fmt mode sat
      -- nothing of a row outside the destination is written
      if tRows t ≤ orgRow o + done ∨ tCols t ≤ orgCol o then set s r.2
      else if tLoc t = 5 then
        let q := tBase t
        if !j.dqRoom q r.1.length then s
        else set (s.updJobOf w fun j => (j.dqMake q r.1.length).updDq q fun x => x.push now (r.1.map fun b => (b, false))) r.2
      else
        -- blocks reach beyond COLS into the row's padding (R154)
        let cols := if fmtIsSb fmt then max (tCols t) (orgCol o + cdiv n 16 * 16) else tCols t
        let x := rowXfer (setBits t 128 32 cols) o done
        match s.putStream w 0 { x with dst := setBits x.dst 128 32 (if fmtIsSb fmt then orgCol o + cdiv n 16 * 16 else orgCol o + n) } 0 (r.1.map fun b => (b, false)) with
        | .ok s => set { s with } r.2
        | .error e => e.halt s w f

/-! ## MCVT and MCHK (R155, R160) -/

/-- MCVT: converted at issue, when nothing can change the tile any more; it lands whole 32 cycles later. -/
def execMcvt (h : Hdr) (g : Guard) (z : BitVec 2) (fmt : BitVec 5) (rnd : BitVec 3) (sat fin : Bool) (s : State) : Host.Outcome State Fault Refusal :=
  runGuarded (.mcvt h g z fmt rnd sat fin) h g (matrixReady z false) (fun s =>
    match s.tileBad z with
    | some e => .error e
    | none =>
      let t := s.seenTile z
      if t.win.isSome then .error (stopOf .windowBad)
      else if t.ty ≠ 0x0C then .error (stopOf .typeBad)
      else if (tileLanes fmt).isNone ∨ fmt = 0x0C then .error (stopOf .typeBad)
      else match s.jb.tileUe z with
        | some e => .error e
        | none =>
          let mode := effMode rnd.toNat fin s.rmode
          let rs := (List.range 1024).map fun k => roundTo fmt (t.value (k / 32) (k % 32)) mode sat
          let row := rowOf (packElems fmt (rs.map (·.1)))
          .ok (s.launchWord h.tks (some (s.now + 32)) (flagEff (rs.foldl (fun a r => a ||| r.2) 0)) (.mcvt z fmt row), .fall)) s

/-- MCHK. -/
def execMchk (h : Hdr) (g : Guard) (d : BitVec 5) (pd : BitVec 3) (z : BitVec 2) (s : State) : Host.Outcome State Fault Refusal :=
  runGuarded (.mchk h g d pd z) h g (matrixReady z false) (fun s =>
    match s.tileBad z with
    | some e => .error e
    | none => match s.jb.tileUe z with
      | some e => .error e
      | none =>
        let t := s.seenTile z
        let s := if t.ue != 0 then s.updJb fun j => j.updTile z fun t => { t with win := t.win.map fun v => { v with err := true } } else s
        if t.armed then
          let n := t.mismatches s.tolSeen
          results h 4 [.x d (BitVec.ofNat 64 n), .p pd (n != 0)] s
        else results h 4 [.x d (1#64 <<< 63), .p pd false] s) s

/-- Landing of MOPEN and MCVT: the tile changes in one step (R437). -/
def State.landTile (s : State) (w : Who) (f : Flight) : State :=
  match f.work with
  | .mopen z zf ty => (s.updJobOf w fun j => j.writeTile z fun t => t.opened zf ty).complete w f
  | .mcvt z ty row =>
    (s.updJobOf w fun j => j.writeTile z fun t => { t.zeroed with ty := ty, armed := false, rows := (Vector.replicate 32 (0 : Row)).set 0 row }).complete w f
  | _ => s

end Sys2Proof.Machine
end

