-- ==== Sys2Proof/Machine/Seed.lean ====
section
/-! DEFINITION. SEEDSCAN and SEEDFIT (spec/07_registers_accumulators.md R164-R167; spec/03_numbers.md R74). -/

namespace Sys2Proof.Machine
open Sys2Proof

/-- The grid targets and projections are held on: below every bit of an SB7 or BF16 value. -/
def seedGrid : Int := -140

/-- The 512 x 32 target values on the grid, row by row; or the place 32k + n of the first that is not finite or is poisoned (R164, R391). -/
def State.seedTarget (s : State) (t : BitVec 256) : Except Nat (List Int) :=
  let ub := (unitOf (tFmt t)).1
  (List.range 16384).foldr (fun p m =>
    let v : Option Int :=
      match edgeIndex (tEdge t) (p / 32) (tRows t), edgeIndex (tEdge t) (p % 32) (tCols t) with
      | some i, some j =>
        let (o, sub) := elemUnit t i j
        let u := (s.localRead s.cur 0 (tBase t + o) ub).getD (List.replicate ub (0, true))
        let x := unitVal (tFmt t) (leNat (u.map (·.1))) sub
        if u.any (·.2) || !x.isFin then none else some (x.onGrid seedGrid)
      | _, _ => some 0
    match v, m with
    | none, _ => .error p
    | some _, .error e => .error e
    | some x, .ok l => .ok (x :: l)) (.ok [])

/-- The checks of R164 at issue, with the target. -/
def State.seedCheck (s : State) (z : BitVec 2) (tt : BitVec 6) (t : BitVec 256) : Except Stop (List Int) :=
  match s.tileBad z with
  | some e => .error e
  | none =>
    if (s.jb.tile z).win.isSome then .error (stopOf .windowBad)
    else match s.useTensor tt t [0] .tensorBad with
      | some e => .error e
      | none =>
        if tFmt t ≠ 0x0B ∧ tFmt t ≠ 7 then .error { cause := .typeBad, info0 := zx64 tt }
        else if tEdge t = 2 ∧ (tRows t < 512 ∨ tCols t < 32) then .error { cause := .tileRange, info0 := zx64 tt }
        else match s.seedTarget t with
          | .ok l => .ok l
          | .error p => .error { cause := .tensorBad, info0 := zx64 tt, info1 := BitVec.ofNat 64 p }

/-- The projections P(j, n) of a seed, on the target's grid: 32 j + n (R164). -/
def projections (seed : BitVec 32) (j : Nat) (target : List Int) : List Int :=
  let bs := (basisBits seed (16384 * j)).toArray
  let ts := target.toArray
  (List.range (32 * j)).map fun p =>
    (List.range 512).foldl (fun a k =>
      let x := ts.getD (32 * k + p % 32) 0
      if bs.getD (16384 * (p / 32) + 512 * (p % 32) + k) false then a + x else a - x) 0

/-- A tile of W1024 with the given elements in row order, all finite. -/
def Tile.filled (t : Tile) (l : List Int) : Tile :=
  let ls := l.toArray
  { t.zeroed with
    ty := 0x0C, armed := false
    rows := Vector.ofFn fun i => rowOfElems ((List.range 32).map fun j => BitVec.ofInt 1024 (ls.getD (32 * i.val + j) 0)) }

/-- Replaces element (31, j) of a tile. -/
def Tile.setLast (t : Tile) (j : Nat) (x : Int) : Tile :=
  { t with rows := updAt t.rows 31 fun r => setBits r (1024 * j) 1024 (BitVec.ofInt 1024 x).toNat }

/-- One candidate of SEEDSCAN scored (R165): the tile after it. -/
def seedCandidate (target : List Int) (first : BitVec 32) (j c : Nat) (t : Tile) : Tile :=
  let seed := first + BitVec.ofNat 32 c
  let p := projections seed j target
  let score : Int := (p.foldl (fun a x => a + x * x) 0) * 2 ^ (512 + 2 * seedGrid).toNat
  let bestScore := (t.elem 31 0).toInt
  let bestSeed := (t.elem 31 1).toNat / 2 ^ 512
  let better := c == 0 || decide (bestScore < score) || (score == bestScore && decide (seed.toNat < bestSeed))
  let t := if better then t.filled (p.map fun x => x * 2 ^ (512 + seedGrid).toNat) else t
  if better then (t.setLast 0 score).setLast 1 ((seed.toNat : Int) * 2 ^ 512) else t

/-- How many candidates a SEEDSCAN has scored by a cycle: candidate c is added 8 J (c + 1) cycles after the 16 that follow issue (R32, R165). -/
def scored (land count j now : Nat) : Nat :=
  if land ≤ now then count else count - min count (cdiv (land - now) (8 * j))

/-- Brings a SEEDSCAN's tile up to the current cycle. -/
def State.seedProgress (s : State) (w : Who) (f : Flight) : State :=
  match f.work, f.land with
  | .seedscan z target grid first count j d done, some land =>
    let n := scored land count.toNat j (s.timeOf w)
    if n ≤ done then s
    else
      let add (t : Tile) : Tile := (List.range (n - done)).foldl (fun t i => seedCandidate target first j (done + i) t) t
      (s.updJobOf w fun j => j.writeTile z add).updStream w fun st =>
        st.updFlight f.id fun y => { y with work := .seedscan z target grid first count j d n }
  | _, _ => s

/-- The array holds no MMA and no seed instruction of either slot (R141). -/
def State.arrayEmpty (s : State) : Bool :=
  match s.cur with
  | .eng d c _ _ => (s.core d c).array == [] && decide ((s.core d c).arrayDone ≤ s.now)
  | .sys _ => true

/-- The array is occupied until a cycle. -/
def State.occupyArray (s : State) (t : Nat) : State :=
  match s.cur with
  | .eng d c _ _ => s.updCore d c fun x => { x with arrayDone := t }
  | .sys _ => s

/-- SEEDSCAN (R165): its tile is zeroed at issue; its candidates follow; its results land, interlocked, with its completion.
SEED_ZERO comes after the checks of R164 (log 124). -/
def execSeedscan (h : Hdr) (g : Guard) (z : BitVec 2) (tt : BitVec 6) (fs cnt : BitVec 5) (j1 : BitVec 4) (d : BitVec 5) (s : State) :
    Host.Outcome State Fault Refusal :=
  runGuarded (.seedscan h g z tt fs cnt j1 d) h g (fun s => matrixReady z false s && s.arrayEmpty && s.readsNow h) (fun s =>
    match s.seedCheck z tt (s.tensor 3 tt) with
    | .error e => .error e
    | .ok l =>
      let first := (s.readX 0 fs).extractLsb' 0 32
      let count := (s.readX 1 cnt).extractLsb' 0 32
      let j := j1.toNat + 1
      -- some S_c is zero
      if (2 ^ 32 - first.toNat) % 2 ^ 32 < count.toNat then .error (stopOf .seedZero)
      else
        let land := s.now + 16 + 8 * j * count.toNat
        let s := s.updJb fun j => j.writeTile z fun t => t.filled []
        .ok ((s.occupyArray land).launchWord h.tks (some land) [] (.seedscan z l seedGrid first count j d 0), .fall)) s

/-! ## SEEDFIT (R166, R167) -/

/-- |round_int(P / (512 x 2^(E - 132)), RNE)| for a projection on the grid. -/
def seedMag (e : Nat) (p : Int) : Nat := (roundMag 0 (decide (p < 0)) p.natAbs (seedGrid - 9 - ((e : Int) - 132))).1

/-- The smallest exponent at which every magnitude fits. -/
def seedExp (p : List Int) : Nat := ((List.range 256).find? fun e => p.all fun x => decide (seedMag e x ≤ 63)).getD 255

/-- The code of a projection: its sign in bit 6, its magnitude below. -/
def seedCode (e : Nat) (p : Int) : Nat :=
  let m := seedMag e p
  if m ≠ 0 ∧ p < 0 then 64 + m else m

/-- The record image (R167). -/
def seedRecord (seed : BitVec 32) (j e : Nat) (p : List Int) : List Byte :=
  let head := leBytes 8 (seed.toNat + 2 ^ 32 * (j - 1) + 2 ^ 40 * e)
  let body := (List.range j).flatMap fun b =>
    leBytes 28 (((p.drop (32 * b)).take 32).foldr (fun x a => seedCode e x + 128 * a) 0)
  head ++ leBytes 8 (crc32c (head ++ body)).toNat ++ body

/-- The exact residual in units of 4^grid, W of R148 from the record. -/
def seedResidual (seed : BitVec 32) (j e : Nat) (p target : List Int) : Int :=
  let bs := (basisBits seed (16384 * j)).toArray
  let codes := (p.map fun x => (if x < 0 then -(seedMag e x : Int) else (seedMag e x : Int))).toArray
  let col (n : Nat) : List Int := (List.range j).map fun b => codes.getD (32 * b + n) 0
  let cols := ((List.range 32).map col).toArray
  (target.zipIdx).foldl (fun a (x, i) =>
    let y := x - seedSum bs (cols.getD (i % 32) []) (i / 32) (i % 32) * 2 ^ ((e : Int) - 132 - seedGrid).toNat
    a + y * y) 0

/-- SEEDFIT: fitted at issue, when nothing can change the target; its effects land together 40 + 8 J cycles later. SEED_ZERO comes after the checks
of R164 and before RT's (log 124). -/
def execSeedfit (h : Hdr) (g : Guard) (z : BitVec 2) (tt : BitVec 6) (seed : BitVec 5) (j1 : BitVec 4) (rt : BitVec 6) (d : BitVec 5) (s : State) :
    Host.Outcome State Fault Refusal :=
  runGuarded (.seedfit h g z tt seed j1 rt d) h g (fun s => matrixReady z false s && s.arrayEmpty && s.readsNow h) (fun s =>
    match s.seedCheck z tt (s.tensor 3 tt) with
    | .error e => .error e
    | .ok l =>
      let sd := (s.readX 0 seed).extractLsb' 0 32
      let j := j1.toNat + 1
      let r := s.tensor (secondSite tt rt) rt
      if sd = 0 then .error (stopOf .seedZero)
      else match s.useTensor rt r [0] .tensorBad with
        | some e => .error e
        | none =>
          if tFmt r ≠ 0 ∨ tCols r < 16 + 28 * j then .error { cause := .tensorBad, info0 := zx64 rt }
          else
            let p := projections sd j l
            let e := seedExp p
            let y := roundTo 8 (Val.ofInt (seedResidual sd j e p l) (2 * seedGrid)) 0 false
            let land := s.now + 40 + 8 * j
            .ok ((s.occupyArray land).launchWord h.tks (some land) (.x d (BitVec.ofNat 64 y.1) :: flagEff y.2) (.seedfit z l seedGrid sd j r d), .fall)) s

/-- The landing of a seed instruction: what is left of its candidates, or the fitted tile and record, and its registers. -/
def State.landSeed (s : State) (w : Who) (f : Flight) : State :=
  match f.work with
  | .seedscan z _ _ _ count _ d _ =>
    let s := s.seedProgress w f
    (match s.jobOf? w with
    | none => s
    | some j =>
      let t := j.tile z
      let y := roundTo 8 (Val.ofInt (t.elem 31 0).toInt (-512)) 0 false
      let effs : List Eff := if count = 0 then [.x d 0, .x (d + 1) 0]
        else .x d (BitVec.ofNat 64 ((t.elem 31 1).toNat / 2 ^ 512)) :: .x (d + 1) (BitVec.ofNat 64 y.1) :: flagEff y.2
      s.completeWith w f effs)
  | .seedfit z target _ sd j r _ =>
    let p := projections sd j target
    let e := seedExp p
    let full (t : Tile) : Tile := (t.filled (p.map fun x => x * 2 ^ (512 + seedGrid).toNat)).setLast 0
      (seedResidual sd j e p target * 2 ^ (512 + 2 * seedGrid).toNat)
    let s := s.updJobOf w fun y => y.writeTile z full
    let s := (s.localWrite w 0 (tBase r + (tElem r 0 0).1) ((seedRecord sd j e p).map fun b => (b, false))).getD s
    s.complete w f
  | _ => s

end Sys2Proof.Machine
end

