-- ==== Sys2Proof/Machine/Special.lean ====
section
/-! DEFINITION. The special functions, correctly rounded, and the one-rounding quotient (spec/03_numbers.md R71, R72; spec/08_registers_vectors.md
R185, R190). A function's exact value is enclosed in fixed point; the enclosure's common leading bits with a sticky bit below them round as the
exact value does (notes/assumptions/12.md). -/

namespace Sys2Proof.Machine
open Sys2Proof

/-- A value that lies at m x 2^e, or strictly between that and (m + 1) x 2^e, as one with a sticky bit: it rounds alike in every mode to any
precision below m's. -/
def sticky (neg : Bool) (m : Nat) (exact : Bool) (e : Int) : Val := .fin neg (2 * m + (if exact then 0 else 1)) (e - 1)

/-- The quotient of two values, and whether it is invalid (IEEE 754). -/
def Val.div : Val → Val → Val × Bool
  | .nan, _ | _, .nan => (.nan, false)
  | .inf _, .inf _ => (.nan, true)
  | .inf a, .fin b _ _ => (.inf (a != b), false)
  | .fin a _ _, .inf b => (.fin (a != b) 0 0, false)
  | .fin na ma ea, .fin nb mb eb =>
    if mb = 0 then (if ma = 0 then (.nan, true) else (.inf (na != nb), false))
    else if ma = 0 then (.fin (na != nb) 0 0, false)
    else
      let k := 200 + Nat.log2 mb
      (sticky (na != nb) (ma * 2 ^ k / mb) (ma * 2 ^ k % mb == 0) (ea - eb - k), false)

/-- The square root of n rounded down, by bits from 2^b on. -/
def isqrtBits : Nat → Nat → Nat → Nat
  | 0, _, r => r
  | b + 1, n, r => isqrtBits b n (if (r + 2 ^ b) * (r + 2 ^ b) ≤ n then r + 2 ^ b else r)
def isqrt (n : Nat) : Nat := isqrtBits (Nat.log2 n / 2 + 1) n 0

/-- The square root of m x 2^e. -/
def sqrtVal (m : Nat) (e : Int) : Val :=
  let (m, e) := if e % 2 = 0 then (m, e) else (2 * m, e - 1)
  let n := m * 2 ^ 128
  let r := isqrt n
  sticky false r (r * r == n) (e / 2 - 64)

/-- 1 / the square root of m x 2^e. -/
def rsqrtVal (m : Nat) (e : Int) : Val :=
  let (m, e) := if e % 2 = 0 then (m, e) else (2 * m, e - 1)
  let k := 100 + Nat.log2 m
  let r := isqrt (2 ^ (2 * k) / m)
  sticky false r (r * r * m == 2 ^ (2 * k)) (-(e / 2) - k)

/-! ## Fixed point with 800 fraction bits -/

def fixBits : Nat := 800
def fixOne : Int := 2 ^ fixBits
def fixMul (a b : Int) : Int := a * b / fixOne

/-- The sum of n terms of z + z^3/3 + z^5/5 + ..., signs alternating or not: t is the power, i its divisor. -/
def atanSum (one zz : Int) (alt : Bool) : Nat → Int → Nat → Int → Int
  | 0, _, _, acc => acc
  | n + 1, t, i, acc =>
    let t' := t * zz / one
    atanSum one zz alt n (if alt then -t' else t') (i + 2) (acc + t / i)

/-- ln m for a fixed-point m from 1 to 2. -/
def fixLn (m : Int) : Int :=
  let z := (m - fixOne) * fixOne / (m + fixOne)
  2 * atanSum fixOne (fixMul z z) false 270 z 1 0
def fixLn2 : Int := fixLn (2 * fixOne)

/-- The sum of n terms of 1 + r + r^2/2! + ... -/
def expSum (r : Int) : Nat → Int → Nat → Int → Int
  | 0, _, _, acc => acc
  | n + 1, t, i, acc => expSum r n (fixMul t r / (i + 1)) (i + 1) (acc + t)

/-- e^y as a fixed-point factor and a power of two. -/
def fixExp (y : Int) : Int × Int :=
  let k := y / fixLn2
  (expSum (y - k * fixLn2) 190 fixOne 0 0, k)

/-- Pi with 960 fraction bits, by Machin's formula. -/
def piOne : Int := 2 ^ 1024
def fixPi : Int :=
  let at_ (n : Int) : Int := atanSum piOne (piOne / (n * n)) true 240 (piOne / n) 1 0
  (16 * at_ 5 - 4 * at_ 239) / 2 ^ 64

/-- The sums of n pairs of terms of the sine and of the cosine of r; t is r^(2i) / (2i)!. -/
def trigSum (r : Int) : Nat → Int → Int → Int → Int → Int × Int
  | 0, _, _, s, c => (s, c)
  | n + 1, t, i, s, c =>
    let u := fixMul t r / (i + 1)
    trigSum r n (-(fixMul u r / (i + 2))) (i + 2) (s + u) (c + t)

/-- The sum of n terms of x + x (2x^2)/3 + x (2x^2)^2/15 + ... -/
def erfSum (xx2 : Int) : Nat → Int → Int → Int → Int
  | 0, _, _, acc => acc
  | n + 1, t, i, acc => erfSum xx2 n (fixMul t xx2 / (i + 2)) (i + 2) (acc + t)

/-- What a computation to within 2^60 units tells of a value that is not exact: its leading bits, where the enclosure agrees on them. -/
def settleFix (neg : Bool) (v : Int) (e : Int) : Option Val :=
  let lo := (v - 2 ^ 60) / 2 ^ 200
  let hi := (v + 2 ^ 60) / 2 ^ 200
  if lo = hi ∧ 0 ≤ lo then some (sticky neg lo.toNat false (e + 200)) else none

/-- A finite value in fixed point. -/
def Val.toFix (v : Val) : Int := v.onGrid (-(fixBits : Int))

/-- 2^x for a finite x. -/
def exp2Val (x : Val) : Option Val :=
  match x with
  | .fin neg m e =>
    if decide (0 ≤ e) || m % 2 ^ (-e).toNat == 0 then
      let n := if 0 ≤ e then m * 2 ^ (min e 20).toNat else m / 2 ^ (-e).toNat
      some (.fin false 1 (if neg then -(min n 4000 : Nat) else (min n 4000 : Nat)))
    else if Val.lt (.fin false 4000 0) (.fin false m e) then some (.fin false 1 (if neg then -4000 else 4000))
    else
      let f := x.toFix
      let k := f / fixOne
      let r := fixExp (fixMul (f - k * fixOne) fixLn2)
      settleFix false r.1 (r.2 + k - fixBits)
  | _ => none

/-- log2 of m x 2^e, m not 0. -/
def log2Val (m : Nat) (e : Int) : Option Val :=
  let l := Nat.log2 m
  if m = 2 ^ l then some (Val.ofInt ((l : Int) + e) 0)
  else
    let x : Int := (m : Int) * 2 ^ (fixBits - l)
    let v := ((l : Int) + e) * fixOne + fixLn x * fixOne / fixLn2
    settleFix (decide (v < 0)) v.natAbs (-(fixBits : Int))

/-- e^x of a fixed-point x between -200 and 200, as a fixed-point number. -/
def fixExpWhole (x : Int) : Int :=
  let r := fixExp x
  if 0 ≤ r.2 then r.1 * 2 ^ r.2.toNat else r.1 / 2 ^ (-r.2).toNat

/-- Is the magnitude so small that a function's second term lies below every bit of its first? -/
def tinyArg (m : Nat) (e : Int) : Bool := Val.lt (.fin false m e) (.fin false 1 (-60))

/-- tanh of a positive finite value. -/
def tanhVal (neg : Bool) (m : Nat) (e : Int) : Option Val :=
  if tinyArg m e then some (sticky neg (m * 2 ^ 100 - 1) false (e - 100))
  else if Val.lt (.fin false 100 0) (.fin false m e) then some (sticky neg (2 ^ 200 - 1) false (-200))
  else
    let y := fixExpWhole (2 * (Val.fin false m e).toFix)
    settleFix neg ((y - fixOne) * fixOne / (y + fixOne)) (-(fixBits : Int))

/-- 1 / (1 + e^(-x)) of a nonzero finite value. -/
def sigmVal (neg : Bool) (m : Nat) (e : Int) : Option Val :=
  if Val.lt (.fin false 200 0) (.fin false m e) then
    some (if neg then sticky false 1 false (-250) else sticky false (2 ^ 200 - 1) false (-200))
  else if tinyArg m e then some (sticky false (if neg then 2 ^ 100 - 1 else 2 ^ 100) false (-101))
  else settleFix false (fixOne * fixOne / (fixOne + fixExpWhole (-(Val.fin neg m e).toFix))) (-(fixBits : Int))

/-- erf of a positive finite value. -/
def erfVal (neg : Bool) (m : Nat) (e : Int) : Option Val :=
  if Val.lt (.fin false 8 0) (.fin false m e) then some (sticky neg (2 ^ 80 - 1) false (-80))
  else
    let x := (Val.fin false m e).toFix
    let s := erfSum (2 * fixMul x x) 640 x 1 0
    let g := fixExpWhole (-(fixMul x x))
    let rootPi : Int := isqrt (fixPi.toNat / 2 ^ 160 * 2 ^ fixBits)
    settleFix neg (2 * fixMul s g * fixOne / rootPi) (-(fixBits : Int))

/-- sin or cos of a nonzero finite value: the argument is reduced by multiples of a quarter turn. -/
def trigVal (cosine neg : Bool) (m : Nat) (e : Int) : Option Val :=
  if tinyArg m e then some (if cosine then sticky false (2 ^ 100 - 1) false (-100) else sticky neg (m * 2 ^ 100 - 1) false (e - 100))
  else
  let x := (Val.fin false m e).onGrid (-960)
  let q := fixPi / 2
  let k := x / q
  let r := trigSum ((x - k * q) / 2 ^ 160) 130 fixOne 0 0 0
  let turn := (k + (if cosine then 1 else 0)) % 4
  let v := if turn % 2 = 0 then r.1 else r.2
  settleFix ((decide (2 ≤ turn)) != (neg && !cosine)) v (-(fixBits : Int))

/-- The special functions by their order from VEXP2 (0) to VCOS (9): the exact result, or its enclosure; whether it is invalid (R71, R72). -/
def specialVal (fn : Nat) (v : Val) : Option (Val × Bool) :=
  let one : Val := .fin false 1 0
  let half : Val := .fin false 1 (-1)
  let ok (o : Option Val) : Option (Val × Bool) := o.map fun x => (x, false)
  match fn, v with
  | _, .nan => some (.nan, false)
  | 0, .inf n => some (if n then .fin false 0 0 else .inf false, false)
  | 0, .fin n m e => if m = 0 then some (one, false) else ok (exp2Val (.fin n m e))
  | 1, .inf n => some (if n then .nan else .inf false, n)
  | 1, .fin n m e => if m = 0 then some (.inf true, false) else if n then some (.nan, true) else ok (log2Val m e)
  | 2, x => some ((Val.div one x).1, false)
  | 3, .inf n => some (if n then .nan else .fin false 0 0, n)
  | 3, .fin n m e => if m = 0 then some (.inf n, false) else if n then some (.nan, true) else some (rsqrtVal m e, false)
  | 4, .inf n => some (if n then .nan else .inf false, n)
  | 4, .fin n m e => if m = 0 then some (.fin n 0 0, false) else if n then some (.nan, true) else some (sqrtVal m e, false)
  | 5, .inf n => some (.fin n 1 0, false)
  | 5, .fin n m e => if m = 0 then some (.fin n 0 0, false) else ok (tanhVal n m e)
  | 6, .inf n => some (if n then .fin false 0 0 else one, false)
  | 6, .fin n m e => if m = 0 then some (half, false) else ok (sigmVal n m e)
  | 7, .inf n => some (.fin n 1 0, false)
  | 7, .fin n m e => if m = 0 then some (.fin n 0 0, false) else ok (erfVal n m e)
  | 8, .inf _ => some (.nan, true)
  | 8, .fin n m e => if m = 0 then some (.fin n 0 0, false) else ok (trigVal false n m e)
  | _, .inf _ => some (.nan, true)
  | _, .fin n m e => if m = 0 then some (one, false) else ok (trigVal true n m e)

/-- A special function of an element: round_to(format, f(x), RNE, 0, 1); an overflow is inexact too (R71, R72). An enclosure that does not
settle the rounding gives a free value (log 12). -/
def special (fn : Nat) (f : BitVec 5) (b : Nat) : Nat × FlagSet :=
  match specialVal fn (fmtValue f b) with
  | none => ((Config.specialFallback fn b).toNat % 2 ^ fmtWidth f, flInx)
  | some (v, inv) =>
    let r := roundTo f v 0 false
    (r.1, r.2 ||| (if inv then flInv else 0) ||| (if v.isFin && r.2 &&& flOvf != 0 then flInx else 0))

end Sys2Proof.Machine
end

