-- ==== Sys2Proof/Machine/Vector.lean ====
section
/-! DEFINITION. Rows as lanes, the checks of V, and what V computes lane by lane (spec/08_registers_vectors.md R168-R185, R188;
spec/07_registers_accumulators.md R151, R152, R437; spec/18_containment.md R388). -/

namespace Sys2Proof.Machine
open Sys2Proof

/-! ## Types and laneCount (R138, R170) -/

/-- Which kind of tile type: 0 W1024, 1 FP, 2 integer, 3 8-bit float. -/
def typeKind (ty : BitVec 5) : Nat := if ty = 0x0C then 0 else if ty = 3 ∨ ty = 0 then 2 else if ty = 4 ∨ ty = 5 then 3 else 1
/-- Lanes of a row of a type. -/
def laneCount (ty : BitVec 5) : Nat := (tileLanes ty).getD 32
/-- The width of a lane. -/
def laneWidth (ty : BitVec 5) : Nat := 32768 / laneCount ty
/-- The type a vector register has (R168). -/
def State.rowType (s : State) (r : BitVec 7) : BitVec 5 := (s.jb.tile (rowTile r)).ty

/-- A row as lanes, and back. -/
def rowLanes (ty : BitVec 5) (r : Row) : List Nat := (List.range (laneCount ty)).map fun j => (r.extractLsb' (laneWidth ty * j) (laneWidth ty)).toNat
def lanesRow (ty : BitVec 5) (l : List Nat) : Row :=
  let m := 2 ^ laneWidth ty
  BitVec.ofNat 32768 (l.foldr (fun x a => x % m + m * a) 0)

/-- The classes of a W1024 row. -/
def rowClasses (c : BitVec 64) : List Cls := (List.range 32).map fun j => clsOf (c.extractLsb' (2 * j) 2)

/-! ## Checks (R168, R169) -/

/-- The words of M in flight that keep a tile busy, oldest first (R151). -/
def State.owners (s : State) (z : BitVec 2) : List Flight :=
  (s.jb.streams[(3 : Fin 5)]).flights.filter fun f => f.work.tile? == some z && s.jb.keepsBusy f

/-- K-steps or candidates a word has added (R152): a TEND's are those of the replay it last began, over all its retained MMA. -/
def Job.added (j : Job) (f : Flight) : Nat :=
  match f.work with
  | .mma _ done _ => done
  | .seedscan _ _ _ _ _ _ _ done => done
  | .tend z i done _ _ => (match (j.tile z).win with
    | some v =>
      let run := v.retained.filter fun m => m.nk != 0
      if v.replays = 0 then 0 else (run.take (i.getD run.length)).foldl (fun a m => a + m.nk) (if i.isSome then done else 0)
    | none => 0)
  | _ => 0

/-- K-steps a tile's owners have added. -/
def State.snapCount (s : State) (z : BitVec 2) : Nat := (s.owners z).foldl (fun n f => n + s.jb.added f) 0

/-- The stop of an access to a busy tile (R152): a write always, a read under BUSYMODE 0. -/
def State.busyStop (s : State) (z : BitVec 2) (write : Bool) : Option Stop :=
  match s.owners z with
  | [] => none
  | f :: _ =>
    if !write && (s.slotCsr 65 0x010 (zx64 (BitVec.ofBool s.jb.accctl))).getLsbD 0 then none
    else some { cause := .accBusy, info0 := BitVec.ofNat 64 (z.toNat + 2 ^ 32 * (f.pc.toNat % 2 ^ 32)), info1 := BitVec.ofNat 64 (s.jb.added f) }

/-- A row's uncorrectable error without a window (R388). -/
def State.rowUe (s : State) (r : BitVec 7) : Option Stop :=
  let t := s.jb.tile (rowTile r)
  if t.win.isNone && t.ue.getLsbD (r.toNat % 32) then
    some { cause := .stateUe, info0 := BitVec.ofNat 64 (s.jb.tileOffset (rowTile r).toNat (r.toNat % 32)) }
  else none

/-- An operand of a V word: its register, whether it is written, whether its old contents are read, whether its type is admitted. -/
structure VOp where
  r : BitVec 7
  write : Bool := false
  read : Bool := true
  ok : Bool := true

/-- The checks of R169 that all V words share, over the operands in order, STATE_UE of R388 behind them (log 127). -/
def State.vCheck (s : State) (ops : List VOp) : Option Stop :=
  match ops.find? fun o => decide (s.jb.kernel.acc ≤ (rowTile o.r).toNat) with
  | some o => some { cause := .tileRange, info0 := zx64 (rowTile o.r), info1 := zx64 o.r }
  | none => match ops.find? fun o => !o.ok with
    | some o => some { cause := .typeBad, info1 := zx64 o.r }
    | none => match ops.findSome? fun o => s.busyStop (rowTile o.r) o.write with
      | some e => some e
      | none => ops.findSome? fun o => if o.read then s.rowUe o.r else none

/-- An open window notes an error in a row V reads (R388). -/
def State.noteRows (s : State) (ops : List VOp) : State :=
  ops.foldl (fun s o =>
    let t := s.jb.tile (rowTile o.r)
    if o.read && t.ue.getLsbD (o.r.toNat % 32) then
      s.updJb fun j => j.updTile (rowTile o.r) fun t => { t with win := t.win.map fun v => { v with err := true } }
    else s) s

/-- Tiles of running SEEDSCANs brought up to this cycle, before V looks at them (R437). -/
def State.seedSync (s : State) : State :=
  match s.cur with
  | .eng d c k _ => ((s.jb.streams[(3 : Fin 5)]).flights).foldl (fun s f => s.seedProgress (.eng d c k .m) f) s
  | .sys _ => s

/-- V is held for 8 cycles (R34, R174). -/
def State.holdV (s : State) : State :=
  match s.cur with
  | .eng d c _ _ => s.updCore d c fun x => { x with vFree := s.now + 8 }
  | .sys _ => s

/-- Runs a V word with the checks of R169: its operands (as the state gives them), its own checks, its body; a row operation holds V. -/
def vRun (i : Instr) (h : Hdr) (g : Guard) (rowOp : Bool) (ops : State → List VOp) (own : State → Option Stop) (body : Body) (s : State) :
    Host.Outcome State Fault Refusal :=
  runGuarded i h g always (fun s =>
    let s := s.seedSync
    match s.vCheck (ops s) with
    | some e => .error e
    | none => match own s with
      | some e => .error e
      | none => (body (s.noteRows (ops s))).map fun r => (if rowOp then r.1.holdV else r.1, r.2)) s

def noCheck (_ : State) : Option Stop := none

/-- Operands of one type: every vector operand has VD's type, and it is admitted (R170). -/
def sameOps (kinds : List Nat) (vd : BitVec 7) (readVd : Bool) (srcs : List (BitVec 7)) (s : State) : List VOp :=
  let ty := s.rowType vd
  { r := vd, write := true, read := readVd, ok := kinds.contains (typeKind ty) } ::
    srcs.map fun r => { r := r, ok := s.rowType r == ty }

/-! ## Lanes (R177, R178, R181, R134) -/

/-- A lane read as an integer. -/
def laneInt (w x : Nat) : Int := if 2 ^ (w - 1) ≤ x % 2 ^ w then ((x % 2 ^ w : Nat) : Int) - 2 ^ w else ((x % 2 ^ w : Nat) : Int)
def intLane (w : Nat) (x : Int) : Nat := (x % (2 : Int) ^ w).toNat

/-- The lane results of R177 by the words' order from VADD (0) to VSAR (13). -/
def laneOp (op : Nat) (ty : BitVec 5) (mode a b c : Nat) : Nat × FlagSet :=
  let w := laneWidth ty
  if op = 8 then (a &&& b, 0)
  else if op = 9 then (a ||| b, 0)
  else if op = 10 then (a ^^^ b, 0)
  else if typeKind ty = 1 then
    let va := fmtValue ty a
    let vb := fmtValue ty b
    if op = 0 then fpAdd ty mode va vb
    else if op = 1 then fpAdd ty mode va vb.neg
    else if op = 2 then fpMul ty mode va vb
    else if op = 3 then fpFma ty mode va vb (fmtValue ty c)
    else if op = 4 then (fpMinMax ty false a b, 0)
    else if op = 5 then (fpMinMax ty true a b, 0)
    else if op = 6 then (a % 2 ^ (w - 1), 0)
    else (a ^^^ 2 ^ (w - 1), 0)
  else
    let x := laneInt w a
    let y := laneInt w b
    let k := b % w
    let r : Int :=
      if op = 0 then x + y
      else if op = 1 then x - y
      else if op = 2 then x * y
      else if op = 3 then x * y + laneInt w c
      else if op = 4 then min x y
      else if op = 5 then max x y
      else if op = 6 then (x.natAbs : Int)
      else if op = 7 then -x
      else if op = 11 then x * 2 ^ k
      else if op = 12 then ((a % 2 ^ w / 2 ^ k : Nat) : Int)
      else x / 2 ^ k
    (intLane w r, 0)

/-- VADD and VSUB on W1024 rows: exact modulo 2^1024, classes by R57. -/
def wideOp (subtract : Bool) (a b : Row × BitVec 64) (m : BitVec 4096) : Row × BitVec 64 × FlagSet :=
  let r := (List.range 32).map fun j =>
    let x := a.1.extractLsb' (1024 * j) 1024
    let y := b.1.extractLsb' (1024 * j) 1024
    let cx := clsOf (a.2.extractLsb' (2 * j) 2)
    let cy := clsOf (b.2.extractLsb' (2 * j) 2)
    if !m.getLsbD j then (x, cx, false)
    else if !subtract then (x + y, Cls.add cx cy)
    else (x - y, Cls.add cx (match cy with
      | .pinf => .ninf
      | .ninf => .pinf
      | k => k))
  (rowOfElems (r.map (·.1)), clsRow (r.map (·.2.1)), if r.any (·.2.2) then flInv else 0)

/-- A lane-wise operation under a mask; a masked-off lane takes operand 1 (R173). -/
def maskedLanes (m : BitVec 4096) (first : List Nat) (f : Nat → Nat × FlagSet) : List Nat × FlagSet :=
  let rs := first.zipIdx.map fun (a, j) => if m.getLsbD j then f j else (a, 0)
  (rs.map (·.1), rs.foldl (fun a r => a ||| r.2) 0)

/-- The comparison of R178 on lanes. -/
def laneCond (ty : BitVec 5) (cond a b : Nat) : Bool :=
  if typeKind ty = 2 then intCond cond (laneInt (laneWidth ty) a) (laneInt (laneWidth ty) b) else fpCond cond (fmtValue ty a) (fmtValue ty b)

/-- VRND of a lane: integral, in its own type (R181). -/
def laneRound (ty : BitVec 5) (mode a : Nat) : Nat × FlagSet :=
  if typeKind ty = 2 then (a, 0)
  else match fmtValue ty a with
    | .nan => (canonicalNan ty, 0)
    | .inf _ => (a, 0)
    | .fin n m e =>
      let r := roundMag mode n m e
      ((roundTo ty (.fin n r.1 0) 0 false).1, if r.2 then flInx else 0)

/-- VRND of a W1024 element; the bits of an element whose class becomes infinite are an open function of it and the mode (R22, log 88). -/
def wideRound (mode : Nat) (sat : Bool) (x : BitVec 1024) (c : Cls) : BitVec 1024 × Cls × FlagSet :=
  if c ≠ .fin then (x, c, 0)
  else
    let y := (roundInt mode (decide (x.toInt < 0)) x.toInt.natAbs (-512)).1
    if y < 2 ^ 511 then (BitVec.ofInt 1024 (y * 2 ^ 512), .fin, 0)
    else if sat then (BitVec.ofInt 1024 ((2 ^ 511 - 1) * 2 ^ 512), .fin, flOvf ||| flSat)
    else (Config.wideInfinite x.toNat mode, .pinf, flOvf)

/-! ## Reductions (R182, R435) -/

/-- What the members of a set have come to so far. -/
structure Red where
  n : Nat := 0
  nan : Bool := false
  pinf : Bool := false
  ninf : Bool := false
  sum : Int := 0
  allNegZero : Bool := true
  bits : Nat := 0

/-- The grid of exact sums of FP lanes. -/
def redGrid : Int := -149

/-- One more member. -/
def Red.step (op : Nat) (ty : BitVec 5) (r : Red) (x : Nat) : Red :=
  let w := laneWidth ty
  let r' := { r with n := r.n + 1 }
  if op = 0 then
    if typeKind ty = 1 then
      match fmtValue ty x with
      | .nan => { r' with nan := true }
      | .inf true => { r' with ninf := true }
      | .inf false => { r' with pinf := true }
      | .fin neg m e => { r' with sum := r.sum + Val.onGrid redGrid (.fin neg m e), allNegZero := r.allNegZero && neg && m == 0 }
    else { r' with sum := r.sum + laneInt w x }
  else if r.n = 0 then { r' with bits := x }
  else if op = 1 ∨ op = 2 then
    { r' with bits := if typeKind ty = 1 then fpMinMax ty (op == 2) r.bits x
        else intLane w (if op = 1 then min (laneInt w r.bits) (laneInt w x) else max (laneInt w r.bits) (laneInt w x)) }
  else { r' with bits := if op = 3 then r.bits &&& x else if op = 4 then r.bits ||| x else r.bits ^^^ x }

/-- The exact sum, and whether it is an invalid operation. -/
def Red.exact (mode : Nat) (r : Red) : Val × Bool :=
  if r.nan then (.nan, false)
  else if r.pinf && r.ninf then (.nan, true)
  else if r.pinf then (.inf false, false)
  else if r.ninf then (.inf true, false)
  else if r.sum = 0 then (.fin (r.allNegZero || mode == 3) 0 0, false)
  else (Val.ofInt r.sum redGrid, false)

/-- The result for the members so far; 0 for none. -/
def Red.result (op : Nat) (ty : BitVec 5) (mode : Nat) (r : Red) : Nat × FlagSet :=
  if r.n = 0 then (0, 0)
  else if op = 0 then
    if typeKind ty = 1 then
      let (v, inv) := r.exact mode
      let y := roundTo ty v mode false
      (y.1, if inv then y.2 ||| flInv else y.2)
    else (intLane (laneWidth ty) r.sum, 0)
  else if op ≤ 2 ∧ typeKind ty = 1 ∧ (fmtValue ty r.bits).isNan then (canonicalNan ty, 0)
  else (r.bits, 0)

/-- VRED or VSCAN of a row: lanes and flags. -/
def reduceRow (scan : Bool) (op : Nat) (ty : BitVec 5) (mode seg : Nat) (a : List Nat) (carry : Option (List Nat)) (m : BitVec 4096) : List Nat × FlagSet :=
  let l := 2 ^ seg
  let n := laneCount ty
  let rows := (List.range (n / l)).map fun g =>
    let start : Red := match carry with
      | some c => Red.step op ty {} (c.getD g 0)
      | none => {}
    ((a.drop (g * l)).take l).zipIdx.foldl (fun (acc : Red × List Nat × FlagSet) (x, i) =>
      if !m.getLsbD (g * l + i) then (acc.1, x :: acc.2.1, acc.2.2)
      else
        let r := acc.1.step op ty x
        if scan then
          let y := r.result op ty mode
          (r, y.1 :: acc.2.1, acc.2.2 ||| y.2)
        else (r, x :: acc.2.1, acc.2.2)) (start, [], 0)
  if scan then (rows.flatMap fun r => r.2.1.reverse, rows.foldl (fun f r => f ||| r.2.2) 0)
  else
    let ys := rows.map fun r => r.1.result op ty mode
    (ys.map (·.1) ++ List.replicate (n - ys.length) 0, ys.foldl (fun f y => f ||| y.2) 0)

/-! ## Permutes (R183, R184) -/

/-- VPERM's source lane for lane j; none: the lane becomes zero. -/
def permSource (w j idx : Nat) : Option Nat := if w = 8 then some (256 * (j / 256) + idx) else if idx < 32768 / w then some idx else none

end Sys2Proof.Machine
end

