-- ==== Sys2Proof/Machine/VectorWords.lean ====
section
/-! DEFINITION. The words of V but those that move rows through queues (spec/08_registers_vectors.md R168-R191). -/

namespace Sys2Proof.Machine
open Sys2Proof

/-- A row result with its flags, at its latency. -/
def rowOut (h : Hdr) (lat : Nat) (vd : BitVec 7) (v : Row) (cls : BitVec 64) (fl : FlagSet) (s : State) : Except Stop (State × Flow) :=
  results h lat (.row vd v cls :: flagEff fl) s

/-- A lane-wise word of up to three sources by its number in laneOp; op 3 reads VD's old row as its third. -/
def laneWord (i : Instr) (op : Nat) (kinds : List Nat) (h : Hdr) (g : Guard) (vd vs1 vs2 : BitVec 7) (m : BitVec 3) (s : State) :
    Host.Outcome State Fault Refusal :=
  vRun i h g true (sameOps kinds vd (op == 3) [vs1, vs2]) noCheck (fun s =>
    let ty := s.rowType vd
    let a := s.readRow 0 vs1
    let b := s.readRow 1 vs2
    let mk := s.mask 3 m
    if typeKind ty = 0 then
      let r := wideOp (op == 1) a b mk
      rowOut h 12 vd r.1 r.2.1 r.2.2 s
    else
      let la := rowLanes ty a.1
      let aa := la.toArray
      let bb := (rowLanes ty b.1).toArray
      let cc := (if op = 3 then rowLanes ty (s.readRow 2 vd).1 else []).toArray
      let r := maskedLanes mk la fun j => laneOp op ty s.rmode.toNat (aa.getD j 0) (bb.getD j 0) (cc.getD j 0)
      rowOut h 12 vd (lanesRow ty r.1) 0 r.2 s) s

/-- VADD (R177). -/
def execVadd (h : Hdr) (g : Guard) (vd vs1 vs2 : BitVec 7) (mask : BitVec 3) (s : State) : Host.Outcome State Fault Refusal :=
  laneWord (.vadd h g vd vs1 vs2 mask) 0 [0, 1, 2] h g vd vs1 vs2 mask s
/-- VSUB (R177). -/
def execVsub (h : Hdr) (g : Guard) (vd vs1 vs2 : BitVec 7) (mask : BitVec 3) (s : State) : Host.Outcome State Fault Refusal :=
  laneWord (.vsub h g vd vs1 vs2 mask) 1 [0, 1, 2] h g vd vs1 vs2 mask s
/-- VMUL (R177). -/
def execVmul (h : Hdr) (g : Guard) (vd vs1 vs2 : BitVec 7) (mask : BitVec 3) (s : State) : Host.Outcome State Fault Refusal :=
  laneWord (.vmul h g vd vs1 vs2 mask) 2 [1, 2] h g vd vs1 vs2 mask s
/-- VFMA (R177). -/
def execVfma (h : Hdr) (g : Guard) (vd vs1 vs2 : BitVec 7) (mask : BitVec 3) (s : State) : Host.Outcome State Fault Refusal :=
  laneWord (.vfma h g vd vs1 vs2 mask) 3 [1, 2] h g vd vs1 vs2 mask s
/-- VMIN (R177). -/
def execVmin (h : Hdr) (g : Guard) (vd vs1 vs2 : BitVec 7) (mask : BitVec 3) (s : State) : Host.Outcome State Fault Refusal :=
  laneWord (.vmin h g vd vs1 vs2 mask) 4 [1, 2] h g vd vs1 vs2 mask s
/-- VMAX (R177). -/
def execVmax (h : Hdr) (g : Guard) (vd vs1 vs2 : BitVec 7) (mask : BitVec 3) (s : State) : Host.Outcome State Fault Refusal :=
  laneWord (.vmax h g vd vs1 vs2 mask) 5 [1, 2] h g vd vs1 vs2 mask s
/-- VAND (R177). -/
def execVand (h : Hdr) (g : Guard) (vd vs1 vs2 : BitVec 7) (mask : BitVec 3) (s : State) : Host.Outcome State Fault Refusal :=
  laneWord (.vand h g vd vs1 vs2 mask) 8 [1, 2, 3] h g vd vs1 vs2 mask s
/-- VOR (R177). -/
def execVor (h : Hdr) (g : Guard) (vd vs1 vs2 : BitVec 7) (mask : BitVec 3) (s : State) : Host.Outcome State Fault Refusal :=
  laneWord (.vor h g vd vs1 vs2 mask) 9 [1, 2, 3] h g vd vs1 vs2 mask s
/-- VXOR (R177). -/
def execVxor (h : Hdr) (g : Guard) (vd vs1 vs2 : BitVec 7) (mask : BitVec 3) (s : State) : Host.Outcome State Fault Refusal :=
  laneWord (.vxor h g vd vs1 vs2 mask) 10 [1, 2, 3] h g vd vs1 vs2 mask s
/-- VSHL (R177). -/
def execVshl (h : Hdr) (g : Guard) (vd vs1 vs2 : BitVec 7) (mask : BitVec 3) (s : State) : Host.Outcome State Fault Refusal :=
  laneWord (.vshl h g vd vs1 vs2 mask) 11 [2] h g vd vs1 vs2 mask s
/-- VSHR (R177). -/
def execVshr (h : Hdr) (g : Guard) (vd vs1 vs2 : BitVec 7) (mask : BitVec 3) (s : State) : Host.Outcome State Fault Refusal :=
  laneWord (.vshr h g vd vs1 vs2 mask) 12 [2] h g vd vs1 vs2 mask s
/-- VSAR (R177). -/
def execVsar (h : Hdr) (g : Guard) (vd vs1 vs2 : BitVec 7) (mask : BitVec 3) (s : State) : Host.Outcome State Fault Refusal :=
  laneWord (.vsar h g vd vs1 vs2 mask) 13 [2] h g vd vs1 vs2 mask s
/-- VABS (R177). -/
def execVabs (h : Hdr) (g : Guard) (vd vs1 : BitVec 7) (mask : BitVec 3) (s : State) : Host.Outcome State Fault Refusal :=
  laneWord (.vabs h g vd vs1 mask) 6 [1, 2] h g vd vs1 vs1 mask s
/-- VNEG (R177). -/
def execVneg (h : Hdr) (g : Guard) (vd vs1 : BitVec 7) (mask : BitVec 3) (s : State) : Host.Outcome State Fault Refusal :=
  laneWord (.vneg h g vd vs1 mask) 7 [1, 2] h g vd vs1 vs1 mask s

/-- VCMP: all 4,096 bits of MD (R178). -/
def execVcmp (h : Hdr) (g : Guard) (md : BitVec 3) (vs1 vs2 : BitVec 7) (mask cond : BitVec 3) (s : State) : Host.Outcome State Fault Refusal :=
  vRun (.vcmp h g md vs1 vs2 mask cond) h g true
    (fun s => [{ r := vs1, ok := typeKind (s.rowType vs1) != 0 }, { r := vs2, ok := s.rowType vs2 == s.rowType vs1 }]) noCheck (fun s =>
      let ty := s.rowType vs1
      let mk := s.mask 3 mask
      let bs := ((rowLanes ty (s.readRow 0 vs1).1).zip (rowLanes ty (s.readRow 1 vs2).1)).zipIdx.map fun (p, j) =>
        mk.getLsbD j && laneCond ty cond.toNat p.1 p.2
      results h 12 [.mask md (BitVec.ofNat 4096 (bs.foldr (fun b n => (if b then 1 else 0) + 2 * n) 0))] s) s

/-- VSEL (R179). -/
def execVsel (h : Hdr) (g : Guard) (vd vs1 vs2 : BitVec 7) (mask : BitVec 3) (s : State) : Host.Outcome State Fault Refusal :=
  vRun (.vsel h g vd vs1 vs2 mask) h g true (sameOps [1, 2, 3] vd false [vs1, vs2]) noCheck (fun s =>
    let ty := s.rowType vd
    let mk := s.mask 3 mask
    let l := ((rowLanes ty (s.readRow 0 vs1).1).zip (rowLanes ty (s.readRow 1 vs2).1)).zipIdx.map fun (p, j) => if mk.getLsbD j then p.1 else p.2
    rowOut h 12 vd (lanesRow ty l) 0 0 s) s

/-- VMOV: masked-off lanes take VS1 too, so the row is VS1 (R173, R179). -/
def execVmov (h : Hdr) (g : Guard) (vd vs1 : BitVec 7) (mask : BitVec 3) (s : State) : Host.Outcome State Fault Refusal :=
  vRun (.vmov h g vd vs1 mask) h g true (sameOps [0, 1, 2] vd false [vs1]) noCheck (fun s =>
    let a := s.readRow 0 vs1
    rowOut h 12 vd a.1 a.2 0 s) s

/-- VBCAST: masked-off lanes keep VD's (R179). -/
def execVbcast (h : Hdr) (g : Guard) (vd : BitVec 7) (val : BitVec 5) (mask : BitVec 3) (s : State) : Host.Outcome State Fault Refusal :=
  vRun (.vbcast h g vd val mask) h g true (sameOps [1, 2, 3] vd true []) noCheck (fun s =>
    let ty := s.rowType vd
    let mk := s.mask 3 mask
    let v := (s.readX 4 val).toNat
    let l := (rowLanes ty (s.readRow 2 vd).1).zipIdx.map fun (x, j) => if mk.getLsbD j then v else x
    rowOut h 12 vd (lanesRow ty l) 0 0 s) s

/-- VCVT (R180): lanes beyond the narrower row keep VD's; so do masked-off lanes across types, while within one type they take VS1's (R173). -/
def execVcvt (h : Hdr) (g : Guard) (vd vs1 : BitVec 7) (mask rnd : BitVec 3) (sat fin : Bool) (s : State) : Host.Outcome State Fault Refusal :=
  vRun (.vcvt h g vd vs1 mask rnd sat fin) h g true
    (fun s => [{ r := vd, write := true, ok := typeKind (s.rowType vd) != 0 }, { r := vs1, ok := typeKind (s.rowType vs1) != 0 }]) noCheck (fun s =>
      let d := s.rowType vd
      let f := s.rowType vs1
      let mk := s.mask 3 mask
      let src := (rowLanes f (s.readRow 0 vs1).1).toArray
      let n := min (laneCount d) (laneCount f)
      let mode := effMode rnd.toNat fin s.rmode
      let rs := (rowLanes d (s.readRow 2 vd).1).zipIdx.map fun (x, j) => if j < n ∧ mk.getLsbD j then convert f d (src.getD j 0) mode sat
        else if f = d then (src.getD j 0, 0) else (x, 0)
      rowOut h 14 vd (lanesRow d (rs.map (·.1))) 0 (rs.foldl (fun a r => a ||| r.2) 0) s) s

/-- VRND (R181). -/
def execVrnd (h : Hdr) (g : Guard) (vd vs1 : BitVec 7) (mask rnd : BitVec 3) (sat fin : Bool) (s : State) : Host.Outcome State Fault Refusal :=
  vRun (.vrnd h g vd vs1 mask rnd sat fin) h g true (sameOps [0, 1, 2] vd false [vs1]) noCheck (fun s =>
    let ty := s.rowType vd
    let a := s.readRow 0 vs1
    let mk := s.mask 3 mask
    let mode := effMode rnd.toNat fin s.rmode
    if typeKind ty = 0 then
      let rs := (List.range 32).map fun j =>
        let x := a.1.extractLsb' (1024 * j) 1024
        let c := clsOf (a.2.extractLsb' (2 * j) 2)
        if mk.getLsbD j then wideRound mode sat x c else (x, c, 0)
      rowOut h 14 vd (rowOfElems (rs.map (·.1))) (clsRow (rs.map (·.2.1))) (rs.foldl (fun f r => f ||| r.2.2) 0) s
    else
      let la := rowLanes ty a.1
      let aa := la.toArray
      let r := maskedLanes mk la fun j => laneRound ty mode (aa.getD j 0)
      rowOut h 14 vd (lanesRow ty r.1) 0 r.2 s) s

/-- VRED and VSCAN (R182). -/
def redWord (i : Instr) (scan : Bool) (h : Hdr) (g : Guard) (vd vs1 vs2 : BitVec 7) (m opr : BitVec 3) (seg : BitVec 5) (s : State) :
    Host.Outcome State Fault Refusal :=
  vRun i h g true (sameOps (if opr.toNat ≤ 2 then [1, 2] else [1, 2, 3]) vd false [vs1, vs2])
    (fun s => if laneCount (s.rowType vd) < 2 ^ seg.toNat then some { cause := .laneRange, info0 := zx64 seg } else none) (fun s =>
      let ty := s.rowType vd
      let carry := if vs2 = vs1 then none else some (rowLanes ty (s.readRow 1 vs2).1)
      let r := reduceRow scan opr.toNat ty s.rmode.toNat seg.toNat (rowLanes ty (s.readRow 0 vs1).1) carry (s.mask 3 m)
      rowOut h 12 vd (lanesRow ty r.1) 0 r.2 s) s
/-- VRED. -/
def execVred (h : Hdr) (g : Guard) (vd vs1 vs2 : BitVec 7) (mask opr : BitVec 3) (seg : BitVec 5) (s : State) : Host.Outcome State Fault Refusal :=
  redWord (.vred h g vd vs1 vs2 mask opr seg) false h g vd vs1 vs2 mask opr seg s
/-- VSCAN. -/
def execVscan (h : Hdr) (g : Guard) (vd vs1 vs2 : BitVec 7) (mask opr : BitVec 3) (seg : BitVec 5) (s : State) : Host.Outcome State Fault Refusal :=
  redWord (.vscan h g vd vs1 vs2 mask opr seg) true h g vd vs1 vs2 mask opr seg s

/-- VPERM (R183). -/
def execVperm (h : Hdr) (g : Guard) (vd vs1 vs2 : BitVec 7) (mask : BitVec 3) (s : State) : Host.Outcome State Fault Refusal :=
  vRun (.vperm h g vd vs1 vs2 mask) h g true
    (fun s => sameOps [1, 2, 3] vd false [vs1] s ++
      [{ r := vs2, ok := typeKind (s.rowType vs2) != 0 && laneWidth (s.rowType vs2) == laneWidth (s.rowType vd) }]) noCheck (fun s =>
      let ty := s.rowType vd
      let la := rowLanes ty (s.readRow 0 vs1).1
      let aa := la.toArray
      let ix := (rowLanes ty (s.readRow 1 vs2).1).toArray
      let mk := s.mask 3 mask
      let r := maskedLanes mk la fun j => match permSource (laneWidth ty) j (ix.getD j 0) with
        | some k => (aa.getD k 0, 0)
        | none => (0, 0)
      rowOut h 12 vd (lanesRow ty r.1) 0 0 s) s

/-- VROT (R184). -/
def execVrot (h : Hdr) (g : Guard) (vd vs1 : BitVec 7) (amt : BitVec 5) (mask : BitVec 3) (s : State) : Host.Outcome State Fault Refusal :=
  vRun (.vrot h g vd vs1 amt mask) h g true (sameOps [1, 2, 3] vd false [vs1]) noCheck (fun s =>
    let ty := s.rowType vd
    let la := rowLanes ty (s.readRow 0 vs1).1
    let aa := la.toArray
    let k := (s.readX 4 amt).toNat % laneCount ty
    let r := maskedLanes (s.mask 3 mask) la fun j => (aa.getD ((j + k) % laneCount ty) 0, 0)
    rowOut h 12 vd (lanesRow ty r.1) 0 0 s) s

/-- A special function by its number (R185). -/
def specialWord (i : Instr) (fn : Nat) (h : Hdr) (g : Guard) (vd vs1 : BitVec 7) (m : BitVec 3) (s : State) : Host.Outcome State Fault Refusal :=
  vRun i h g true (sameOps [1] vd false [vs1]) noCheck (fun s =>
    let ty := s.rowType vd
    let la := rowLanes ty (s.readRow 0 vs1).1
    let aa := la.toArray
    let r := maskedLanes (s.mask 3 m) la fun j => special fn ty (aa.getD j 0)
    rowOut h 20 vd (lanesRow ty r.1) 0 r.2 s) s
/-- VEXP2 (R71, R72, R185). -/
def execVexp2 (h : Hdr) (g : Guard) (vd vs1 : BitVec 7) (mask : BitVec 3) (s : State) : Host.Outcome State Fault Refusal :=
  specialWord (.vexp2 h g vd vs1 mask) 0 h g vd vs1 mask s
/-- VLOG2 (R71, R72, R185). -/
def execVlog2 (h : Hdr) (g : Guard) (vd vs1 : BitVec 7) (mask : BitVec 3) (s : State) : Host.Outcome State Fault Refusal :=
  specialWord (.vlog2 h g vd vs1 mask) 1 h g vd vs1 mask s
/-- VRCP (R71, R72, R185). -/
def execVrcp (h : Hdr) (g : Guard) (vd vs1 : BitVec 7) (mask : BitVec 3) (s : State) : Host.Outcome State Fault Refusal :=
  specialWord (.vrcp h g vd vs1 mask) 2 h g vd vs1 mask s
/-- VRSQ (R71, R72, R185). -/
def execVrsq (h : Hdr) (g : Guard) (vd vs1 : BitVec 7) (mask : BitVec 3) (s : State) : Host.Outcome State Fault Refusal :=
  specialWord (.vrsq h g vd vs1 mask) 3 h g vd vs1 mask s
/-- VSQRT (R71, R72, R185). -/
def execVsqrt (h : Hdr) (g : Guard) (vd vs1 : BitVec 7) (mask : BitVec 3) (s : State) : Host.Outcome State Fault Refusal :=
  specialWord (.vsqrt h g vd vs1 mask) 4 h g vd vs1 mask s
/-- VTANH (R71, R72, R185). -/
def execVtanh (h : Hdr) (g : Guard) (vd vs1 : BitVec 7) (mask : BitVec 3) (s : State) : Host.Outcome State Fault Refusal :=
  specialWord (.vtanh h g vd vs1 mask) 5 h g vd vs1 mask s
/-- VSIGM (R71, R72, R185). -/
def execVsigm (h : Hdr) (g : Guard) (vd vs1 : BitVec 7) (mask : BitVec 3) (s : State) : Host.Outcome State Fault Refusal :=
  specialWord (.vsigm h g vd vs1 mask) 6 h g vd vs1 mask s
/-- VERF (R71, R72, R185). -/
def execVerf (h : Hdr) (g : Guard) (vd vs1 : BitVec 7) (mask : BitVec 3) (s : State) : Host.Outcome State Fault Refusal :=
  specialWord (.verf h g vd vs1 mask) 7 h g vd vs1 mask s
/-- VSIN (R71, R72, R185). -/
def execVsin (h : Hdr) (g : Guard) (vd vs1 : BitVec 7) (mask : BitVec 3) (s : State) : Host.Outcome State Fault Refusal :=
  specialWord (.vsin h g vd vs1 mask) 8 h g vd vs1 mask s
/-- VCOS (R71, R72, R185). -/
def execVcos (h : Hdr) (g : Guard) (vd vs1 : BitVec 7) (mask : BitVec 3) (s : State) : Host.Outcome State Fault Refusal :=
  specialWord (.vcos h g vd vs1 mask) 9 h g vd vs1 mask s

/-! ## Masks (R187) -/

/-- A mask instruction: its result, 2 cycles after issue. -/
def maskWord (i : Instr) (h : Hdr) (g : Guard) (md : BitVec 3) (f : State → BitVec 4096) (s : State) : Host.Outcome State Fault Refusal :=
  runGuarded i h g always (fun s => results h 2 [.mask md (f s)] s) s
/-- MAND. -/
def execMand (h : Hdr) (g : Guard) (md ms1 ms2 : BitVec 3) (s : State) : Host.Outcome State Fault Refusal :=
  maskWord (.mand h g md ms1 ms2) h g md (fun s => s.mask 0 ms1 &&& s.mask 1 ms2) s
/-- MOR. -/
def execMor (h : Hdr) (g : Guard) (md ms1 ms2 : BitVec 3) (s : State) : Host.Outcome State Fault Refusal :=
  maskWord (.mor h g md ms1 ms2) h g md (fun s => s.mask 0 ms1 ||| s.mask 1 ms2) s
/-- MNOT. -/
def execMnot (h : Hdr) (g : Guard) (md ms1 : BitVec 3) (s : State) : Host.Outcome State Fault Refusal :=
  maskWord (.mnot h g md ms1) h g md (fun s => ~~~ s.mask 0 ms1) s
/-- MSETI: bits FIRST to FIRST + COUNT - 1; bits at 4,096 and beyond are not stored. -/
def execMseti (h : Hdr) (g : Guard) (md : BitVec 3) (first count : BitVec 13) (s : State) : Host.Outcome State Fault Refusal :=
  maskWord (.mseti h g md first count) h g md (fun _ => BitVec.ofNat 4096 ((2 ^ count.toNat - 1) * 2 ^ first.toNat)) s

/-! ## Single lanes and snapshots (R188, R189) -/

/-- LANE_RANGE of VGET and VPUT. -/
def laneCheck (r : BitVec 7) (lane : BitVec 5) (s : State) : Option Stop :=
  let k := s.readX 4 lane
  if laneCount (s.rowType r) ≤ k.toNat then some { cause := .laneRange, info0 := k } else none

/-- VGET. -/
def execVget (h : Hdr) (g : Guard) (d : BitVec 5) (vs : BitVec 7) (lane : BitVec 5) (s : State) : Host.Outcome State Fault Refusal :=
  vRun (.vget h g d vs lane) h g false (fun s => [{ r := vs, ok := typeKind (s.rowType vs) != 0 }]) (laneCheck vs lane) (fun s =>
    let ty := s.rowType vs
    let k := (s.readX 4 lane).toNat
    results h 4 [.x d (placeX ty ((s.readRow 0 vs).1.extractLsb' (laneWidth ty * k) (laneWidth ty)).toNat)] s) s

/-- VPUT. -/
def execVput (h : Hdr) (g : Guard) (vd : BitVec 7) (val lane : BitVec 5) (s : State) : Host.Outcome State Fault Refusal :=
  vRun (.vput h g vd val lane) h g false (fun s => [{ r := vd, write := true, read := false, ok := typeKind (s.rowType vd) != 0 }]) (laneCheck vd lane)
    (fun s =>
      let w := laneWidth (s.rowType vd)
      results h 4 [.lane vd w (s.readX 4 lane).toNat ((s.readX 5 val).toNat % 2 ^ w)] s) s

/-- VSNAP: the row, and what of the busy tile's work it includes. -/
def execVsnap (h : Hdr) (g : Guard) (vd vs : BitVec 7) (d : BitVec 5) (s : State) : Host.Outcome State Fault Refusal :=
  vRun (.vsnap h g vd vs d) h g true (sameOps [0, 1, 2, 3] vd false [vs]) noCheck (fun s =>
    let a := s.readRow 0 vs
    let busy := s.owners (rowTile vs) != []
    let x : Word := if busy then 1#64 <<< 63 ||| BitVec.ofNat 64 (s.snapCount (rowTile vs) % 2 ^ 32) else 0
    results h 12 [.row vd a.1 a.2, .x d x] s) s

/-- CSET (R191). -/
def execCset (h : Hdr) (g : Guard) (ct : BitVec 3) (r : BitVec 5) (s : State) : Host.Outcome State Fault Refusal :=
  runGuarded (.cset h g ct r) h g always (fun s => results h 2 [.chain ct (s.readX 1 (r + 1) ++ s.readX 0 r)] s) s

end Sys2Proof.Machine
end

