-- ==== Sys2Proof/Machine/Chain.lean ====
section
/-! DEFINITION. VPOP, VPUSH, CHAIN and CHAIN_ROW (spec/08_registers_vectors.md R172, R186, R190-R194; spec/14_queues_engines.md R307, R310, R313,
R316). -/

namespace Sys2Proof.Machine
open Sys2Proof

/-! ## Queues of rows -/

/-- A tile type a queue may carry (R186): not W1024. -/
def rowFmt (f : BitVec 5) : Bool := f != 0x0C && (tileLanes f).isSome

/-- Source bytes of one row popped from a data queue. -/
def rowSource (c : Word) : Nat :=
  let (ub, pe) := unitOf (qSrc c)
  cdiv (laneCount (qSnk c)) pe * ub

/-- The checks of a queue V pops rows from, but for types. -/
def State.rowQueueIn (s : State) (q6 : BitVec 6) : Option Stop :=
  match qName q6 with
  | .data q =>
    let c := s.jb.qcfg q
    match queueCheck c false 4 with
    | some e => some (stopOf e)
    | none => if !rowFmt (qSnk c) then some (stopOf .queueCfg) else if qCap c < rowSource c then some (stopOf .lenRange) else none
  | n => if s.tqUsable n then none else some (stopOf .queueCfg)

/-- The type of the rows a queue gives, where it is known beforehand. -/
def State.rowTypeIn (s : State) (q6 : BitVec 6) : Option (BitVec 5) :=
  match qName q6 with
  | .data q => some (qSnk (s.jb.qcfg q))
  | _ => none

/-- The checks of a queue V pushes rows to; of a data queue its source format where the rows' type is known. -/
def State.rowQueueOut (s : State) (q6 : BitVec 6) (ty : Option (BitVec 5)) : Option Stop :=
  match qName q6 with
  | .data q =>
    let c := s.jb.qcfg q
    match queueCheck c true 4 with
    | some e => some (stopOf e)
    | none => if ty.any (· != qSrc c) then some (stopOf .queueCfg) else if qCap c < 4096 then some (stopOf .lenRange) else none
  | n => if s.tqUsable n then none else some (stopOf .queueCfg)

/-- Has no earlier word of V rows of the queue to pop? -/
def Stream.rowsClear (st : Stream) (before : Nat) (q6 : BitVec 6) : Bool :=
  st.flights.all fun f => !decide (f.id < before) || (match f.work with
    | .chain iq _ _ _ _ n rows _ row _ => iq != q6 || decide (n ≤ rows + row.toList.length)
    | _ => true)

/-- Does a queue hold a row that can be popped in this cycle? -/
def State.rowHere (s : State) (w : Who) (q6 : BitVec 6) (before : Nat) : Bool :=
  let s := { s with cur := w }
  s.str.rowsClear before q6 && (match qName q6 with
    | .data q => s.str.popsClear before q && decide (laneCount (qSnk (s.jb.qcfg q)) ≤ (s.jb.dq q).ready (s.jb.qcfg q) s.now)
    | n => (s.tqHead n s.now).isSome)

/-- Room for one row. -/
def State.rowRoom (s : State) (w : Who) (q6 : BitVec 6) : Bool :=
  let s := { s with cur := w }
  match qName q6 with
  | .data q => s.jb.dqRoom q 4096
  | n => s.tqRoom n

/-- A row as it leaves a queue: image, type, poison marks of its 16-byte units, conversion flags. -/
structure PoppedRow where
  image : Row
  ty : BitVec 5
  poison : BitVec 256
  fl : FlagSet

/-- Pops one row; `use` asks that it may be consumed (R310, R316): else the stop. -/
def State.popRow (s : State) (w : Who) (q6 : BitVec 6) (use : Bool) (rm : BitVec 3) : Except Stop (PoppedRow × State) :=
  let s0 := { s with cur := w }
  match qName q6 with
  | .data q =>
    let c := s0.jb.qcfg q
    let n := laneCount (qSnk c)
    let x := s0.jb.dq q
    match (if use then x.badPop c n else none) with
    | some e => .error (stopOf e)
    | none =>
      let r := x.deliver c n rm
      let marks := (List.range 256).foldr (fun u a => (if ((r.1.drop (16 * u)).take 16).any (·.2) then 1 else 0) + 2 * a) 0
      .ok ({ image := rowOf (r.1.map (·.1)), ty := qSnk c, poison := BitVec.ofNat 256 marks, fl := r.2 },
        { (s0.updJb fun j => j.updDq q fun y => y.remove c n) with cur := s.cur })
  | n =>
    match s0.tqHead n s0.now with
    | none => .error (stopOf .tqBad)
    | some e =>
      if use && e.ue then .error (stopOf .tqUe)
      else if use && e.poison != 0 then .error (stopOf .poison)
      else
        let marks := if e.ue then 2 ^ 256 - 1 else (List.range 256).foldr (fun u a => (if e.poison.getLsbD (u / 8) then 1 else 0) + 2 * a) 0
        .ok ({ image := e.image, ty := e.tag, poison := BitVec.ofNat 256 marks, fl := 0 },
          { s0.tqPop n with cur := s.cur })

/-- Pushes one row that can be popped from cycle `ready` on. -/
def State.pushRow (s : State) (w : Who) (q6 : BitVec 6) (v : Row) (ty : BitVec 5) (poison : BitVec 256) (ready : Nat) : State :=
  let s0 := { s with cur := w }
  match qName q6 with
  | .data q =>
    { (s0.updJb fun j =>
        let bs := (rowBytes v 0 4096).zipIdx.map fun (b, i) => (b, poison.getLsbD (i / 16))
        (j.dqMake q 4096).updDq q fun y => y.push (ready - 1) bs) with cur := s.cur }
  | n =>
    let marks := (List.range 32).foldr (fun u a => (if poison.extractLsb' (8 * u) 8 != 0 then 1 else 0) + 2 * a) 0
    { ((s0.tqMake n).tqPush n { image := v, tag := ty, poison := BitVec.ofNat 32 marks, ready := ready, taken := s0.now, rank := tqRank w }) with cur := s.cur }

/-! ## VPOP and VPUSH -/

/-- VPOP's checks before its row (R186). -/
def State.vpopCheck (s : State) (g : Bool) (vd : BitVec 7) (q6 : BitVec 6) : Option Stop :=
  let own : Option Stop :=
    match s.rowQueueIn q6 with
    | some e => some e
    | none => if g && (s.rowTypeIn q6).any (· != s.rowType vd) then some (stopOf .queueCfg) else none
  if g then
    match s.seedSync.vCheck [{ r := vd, write := true, read := false, ok := typeKind (s.rowType vd) != 0 }] with
    | some e => some e
    | none => own
  else own

/-- VPOP: with a false guard the row is popped and discarded. -/
def execVpop (h : Hdr) (g : Guard) (vd : BitVec 7) (q6 : BitVec 6) (s : State) : Host.Outcome State Fault Refusal :=
  runWord (.vpop h g vd q6) h (fun s => (s.vpopCheck (s.guard g) vd q6).isSome || s.rowHere s.cur q6 s.str.nextId) (fun s =>
    let use := s.guard g
    match s.vpopCheck use vd q6 with
    | some e => .error e
    | none =>
      let tag := (s.tqHead (qName q6) s.now).map (·.tag)
      if use && tag.any (· != s.rowType vd) then .error { cause := .tqBad, info0 := zx64 (tag.getD 0) }
      else match s.popRow s.cur q6 use s.rmode with
        | .error e => .error e
        | .ok (r, s) => if use then rowOut h 12 vd r.image 0 r.fl s.holdV else asNop h s.holdV) s

/-- VPUSH's checks (R313): with a false guard those of Q alone, which decide whether the row is pushed. -/
def State.vpushCheck (s : State) (use : Bool) (q6 : BitVec 6) (vs : BitVec 7) : Option Stop :=
  match if use then s.seedSync.vCheck [{ r := vs, ok := typeKind (s.rowType vs) != 0 }] else none with
  | some e => some e
  | none => s.rowQueueOut q6 (some (s.rowType vs))

/-- VPUSH: with a false guard it stops on nothing, and pushes where Q passes. -/
def execVpush (h : Hdr) (g : Guard) (q6 : BitVec 6) (vs : BitVec 7) (s : State) : Host.Outcome State Fault Refusal :=
  runWord (.vpush h g q6 vs) h (fun s => (s.vpushCheck (s.guard g) q6 vs).isSome || s.rowRoom s.cur q6) (fun s =>
    let use := s.guard g
    match s.vpushCheck use q6 vs with
    | some e => if use then .error e else asNop h s.holdV
    | none =>
      let s := s.seedSync.noteRows [{ r := vs }]
      let s := (s.pushRow s.cur q6 (s.readRow 0 vs).1 (s.rowType vs) 0 (s.now + 12)).holdV
      if use then .ok (s.launchWord h.tks (some (s.now + 12)) [] .fixed, .fall) else asNop h s) s

/-! ## Chain-table entries (R190, R192) -/

/-- Slot i of an entry: its operation, its register, its segment field. -/
def chainSlot (e : BitVec 128) (i : Nat) : Nat × BitVec 5 × Nat := (bits e (16 * i + 15) (16 * i + 10), e.extractLsb' (16 * i + 5) 5, bits e (16 * i + 4) (16 * i))

/-- How many slots run: those before the first END. -/
def chainLen (e : BitVec 128) : Nat := ((List.range 8).find? fun i => (chainSlot e i).1 == 0).getD 8

/-- Is a slot refused for rows of a type? -/
def slotBad (ty : BitVec 5) (c : Nat × BitVec 5 × Nat) : Bool :=
  let (op, sreg, fl) := c
  let seg := decide (0x13 ≤ op ∧ op ≤ 0x17)
  decide (0x18 ≤ op) || (sreg != 0 && !decide (1 ≤ op ∧ op ≤ 6)) || (fl != 0 && !seg) ||
    (op != 0 && !(if decide (9 ≤ op ∧ op ≤ 0x12) || op == 0x16 || op == 0x17 then [1] else [1, 2]).contains (typeKind ty)) ||
    (seg && decide (laneCount ty < 2 ^ fl))

/-- The stop of a refused entry (R192): slots up to the first END are read, that END too. -/
def chainBad (e : BitVec 128) (ty : BitVec 5) : Option Stop :=
  ((List.range (min 8 (chainLen e + 1))).find? fun i => slotBad ty (chainSlot e i)).map fun i =>
    { cause := .chainBad, info0 := BitVec.ofNat 64 i, info1 := e.extractLsb' (64 * (i / 4)) 64 }

/-- One slot applied to a row of laneCount (R190). -/
def slotApply (c : Nat × BitVec 5 × Nat) (scalar : Word) (ty : BitVec 5) (mode : Nat) (a : List Nat) : List Nat × FlagSet :=
  let (op, _, fl) := c
  let sc := scalar.toNat % 2 ^ laneWidth ty
  let every (f : Nat → Nat × FlagSet) : List Nat × FlagSet :=
    let rs := a.map f
    (rs.map (·.1), rs.foldl (fun x r => x ||| r.2) 0)
  let segs (f : List Nat → List (Nat × FlagSet)) : List Nat × FlagSet :=
    let rs := (List.range (laneCount ty / 2 ^ fl)).flatMap fun g => f ((a.drop (g * 2 ^ fl)).take (2 ^ fl))
    (rs.map (·.1), rs.foldl (fun x r => x ||| r.2) 0)
  let red (k : Nat) (l : List Nat) : Red := l.foldl (Red.step k ty) {}
  if op = 1 then every fun x => laneOp 0 ty mode x sc 0
  else if op = 2 then every fun x => laneOp 1 ty mode x sc 0
  else if op = 3 then every fun x => laneOp 1 ty mode sc x 0
  else if op = 4 then every fun x => laneOp 2 ty mode x sc 0
  else if op = 5 then every fun x => laneOp 4 ty mode x sc 0
  else if op = 6 then every fun x => laneOp 5 ty mode x sc 0
  else if op = 7 then every fun x => laneOp 6 ty mode x 0 0
  else if op = 8 then every fun x => laneOp 7 ty mode x 0 0
  else if op ≤ 0x12 then every fun x => special (op - 9) ty x
  else if op ≤ 0x15 then segs fun l => l.map fun _ => (red (op - 0x13) l).result (op - 0x13) ty mode
  else if op = 0x16 then segs fun l => l.map fun x => laneOp 1 ty mode x ((red 2 l).result 2 ty mode).1 0
  else segs fun l =>
    let d := (red 0 l).exact mode
    l.map fun x =>
      let q := Val.div (fmtValue ty x) d.1
      let y := roundTo ty q.1 mode false
      (y.1, y.2 ||| (if q.2 || d.2 then flInv else 0))

/-! ## CHAIN (R192-R194) -/

/-- CHAIN's checks at issue, in order. -/
def State.chainCheck (s : State) (use : Bool) (iq oq : BitVec 6) (e : BitVec 128) : Option Stop :=
  if iq = oq then some (stopOf .queueCfg)
  else match s.rowQueueIn iq with
    | some x => some x
    | none => match s.rowQueueOut oq (s.rowTypeIn iq) with
      | some x => some x
      | none => if use then (s.rowTypeIn iq).bind (chainBad e) else none

/-- The end of a pass: its slot is applied to the working row. -/
def State.chainEnd (s : State) (w : Who) (f : Flight) : State :=
  match f.work, f.land with
  | .chain iq oq e sc g n rows slots (some (v, ty, po)) fl, some t =>
    if s.timeOf w < t ∨ n ≤ rows then s
    else
      let live := g && decide (0 < chainLen e)
      let r : Row × FlagSet :=
        if live then
          let y := slotApply (chainSlot e slots) (sc.getD slots 0) ty f.rm.toNat (rowLanes ty v)
          (lanesRow ty y.1, y.2)
        else (v, 0)
      s.updStream w fun st => st.updFlight f.id fun y => { y with land := none, work := .chain iq oq e sc g n rows (slots + 1) (some (r.1, ty, po)) (fl ||| r.2) }
  | _, _ => s

/-- A row whose passes are over is pushed once there is room; the last row's push lands, and CHAIN completes, 4 cycles later. -/
def State.chainPush (s : State) (w : Who) (f : Flight) : State :=
  match f.work, f.land with
  | .chain iq oq e sc g n rows slots (some (v, ty, po)) fl, none =>
    if slots < (if g then max 1 (chainLen e) else 1) ∨ !s.rowRoom w oq then s
    else
      let now := s.timeOf w
      (s.pushRow w oq v ty po (now + 5)).updStream w fun st => st.updFlight f.id fun y =>
        { y with land := if rows + 1 = n then some (now + 4) else none, work := .chain iq oq e sc g n (rows + 1) 0 none fl }
  | _, _ => s

/-- The next row is popped, when V is free for its first pass; an entry's own checks come then. -/
def State.chainPop (s : State) (w : Who) (vFree : Bool) (f : Flight) : State :=
  match f.work, f.land with
  | .chain iq oq e sc g n rows _ none fl, none =>
    if n ≤ rows ∨ !vFree ∨ !s.rowHere w iq f.id then s
    else
      let s0 := { s with cur := w }
      let known := s0.rowTypeIn iq
      let ty := known.getD (((s0.tqHead (qName iq) s0.now).map (·.tag)).getD 0)
      if known.isNone && (!rowFmt ty || (s0.rowQueueOut oq (some ty)).isSome) then s.stopFlight w f { cause := .tqBad, info0 := zx64 ty }
      else match (if g && known.isNone then chainBad e ty else none) with
        | some x => s.stopFlight w f x
        | none => match s.popRow w iq g f.rm with
          | .error x => s.stopFlight w f x
          | .ok (r, s) => s.updStream w fun st => st.updFlight f.id fun y => { y with work := .chain iq oq e sc g n rows 0 (some (r.image, r.ty, r.poison)) (fl ||| r.fl) }
  | _, _ => s

/-- Is the stream's job no longer running? -/
def State.stopsNow (s : State) (w : Who) : Bool :=
  match s.jobOf? w with
  | some j => !j.running
  | none => false

/-- The next pass begins and holds V. -/
def State.chainStart (s : State) (w : Who) (d : DieId) (c : CoreId) (f : Flight) : State :=
  match f.work, f.land with
  | .chain _ _ e _ g _ _ slots (some _) _, none =>
    let now := s.timeOf w
    if (if g then max 1 (chainLen e) else 1) ≤ slots ∨ now < (s.core d c).vFree ∨ s.stopsNow w then s
    else (s.updCore d c fun x => { x with vFree := now + 8 }).updStream w fun st => st.updFlight f.id fun y => { y with land := some (now + 8) }
  | _, _ => s

/-- Everything a CHAIN can do in this cycle. -/
def State.chainGo (s : State) (d : DieId) (c : CoreId) (k : SlotId) (id : Nat) : State :=
  let w : Who := .eng d c k .v
  let on (s : State) (g : State → Flight → State) : State :=
    match s.flight? w id with
    | some f => if f.halted then s else g s f
    | none => s
  let s := on s fun s f => s.chainEnd w f
  let s := on s fun s f => s.chainPush w f
  let s := on s fun s f => s.chainPop w (decide ((s.core d c).vFree ≤ s.timeOf w)) f
  on s fun s f => s.chainStart w d c f

/-- CHAIN: the entry and the scalars are read at issue; its rows follow. -/
def execChain (h : Hdr) (g : Guard) (iq6 oq6 : BitVec 6) (ct : BitVec 3) (cnt : BitVec 5) (s : State) : Host.Outcome State Fault Refusal :=
  runWord (.chain h g iq6 oq6 ct cnt) h always (fun s =>
    let use := s.guard g
    let e := s.chainEntry 3 ct
    match s.chainCheck use iq6 oq6 e with
    | some x => .error x
    | none =>
      let n := (s.readX 4 cnt).toNat % 2 ^ 32
      if n = 0 then asNop h s
      else
        let sc := (List.range 8).map fun i => s.readX (10 + i) (chainSlot e i).2.1
        let id := s.str.nextId
        let s := s.launchWord h.tks none [] (.chain iq6 oq6 e sc use n 0 0 none 0)
        match s.cur with
        | .eng d c k _ => .ok (s.chainGo d c k id, .fall)
        | .sys _ => .ok (s, .fall)) s

/-- CHAIN_ROW (R193, R194): the chains of a slot go on: a pass ends, a row is pushed, the next popped, the next pass begins; or one completes. -/
def execChainRow (d : DieId) (c : CoreId) (k : SlotId) (s : State) : Host.Outcome State Fault Refusal :=
  let w : Who := .eng d c k .v
  match s.stream? w with
  | none => .next s
  | some st => .next (st.flights.foldl (fun s f => match f.work with
    | .chain _ _ _ _ _ n rows _ _ fl =>
      if n ≤ rows ∧ f.landed (s.timeOf w) then s.complete w { f with effs := flagEff fl }
      else if s.mayStep w then s.chainGo d c k f.id
      -- a pass under way at a stop ends (R42)
      else if s.live d then s.chainEnd w f else s
    | _ => s) s)

end Sys2Proof.Machine
end

