-- ==== Sys2Proof/Machine/Depend.lean ====
section
/-! DEFINITION. Dependence counters and launch records: DEPDEC, DEPSET, DEPREAD, LAUNCH, and the steps COUNTER_DECREMENT, ON_ZERO_ENQUEUE,
LQ_TAIL_WRITE, HOST_RING_PULL (spec/17_counters.md R369-R375, spec/15_queues_launch.md R337-R344). -/

namespace Sys2Proof.Machine
open Sys2Proof

/-! ## Reads and writes by a distributor -/

/-- A read of n bytes of virtual memory by die d's distributor (R223, R339, R371), which no job makes (R240, R404; log 33): none where it does not translate. Bytes of a REMOTE
buffer are what its package answers, which is not known here: free values (log 33). -/
def State.distRead (s : State) (d : DieId) (asn : BitVec 8) (va n : Nat) : Option (List (Byte × Bool) × State) :=
  (pieces va n).foldl (fun m p =>
    match m with
    | none => none
    | some (acc, s) =>
      match s.translate d none asn p.1 p.2 false with
      | .error _ => none
      | .ok (.remote pkg incarn a pksel adp _, s) =>
        match (if s.targetDead pkg incarn then Except.error EgressFail.unreachable else s.egress d pkg pksel adp false incarn (.load (a / 128 * 128) 128)) with
        | .error .partition => none
        | .error .unreachable => some (acc ++ List.replicate p.2 (0, true), s.goneOf d none pkg incarn false)
        | .ok s =>
          let k := acc.length
          some (acc ++ (List.range p.2).map (fun i => (BitVec.ofNat 8 (Config.freeNat s.free (1000 + k + i)), false)), s)
      | .ok (.dead, s) => some (acc ++ List.replicate p.2 (0, true), s.goneOf d none 0 0 false)
      | .ok (q, s) =>
        if s.isLost q then none
        else
          let r := s.readPlace d q p.2
          some (acc ++ r.1.map fun b => (b, r.2), (s.touchCopy d asn q).touchRow d q)) (some ([], s))

/-- A write of virtual memory by die d's distributor (R348): the cause where it does not translate for a write, or where an UNBACKED line
cannot be allocated for a write made by no job (R233). -/
def State.distWrite (s : State) (d : DieId) (asn : BitVec 8) (va : Nat) (data : List Byte) : Except Cause State :=
  ((pieces va data.length).foldl (fun (m : Except Cause (State × List Byte)) p =>
    match m with
    | .error c => .error c
    | .ok (s, rest) =>
      match s.translate d none asn p.1 p.2 true with
      | .ok (.remote pkg incarn a pksel adp _, s) =>
        if s.targetDead pkg incarn then .ok (s.goneOf d none pkg incarn true, rest.drop p.2)
        else match s.egress d pkg pksel adp false incarn (.store a (rest.take p.2) false) with
          | .error .partition => .error .segBad
          | .error .unreachable => .ok (s.goneOf d none pkg incarn true, rest.drop p.2)
          | .ok s => .ok (s, rest.drop p.2)
      | .ok (.dead, s) => .ok (s.goneOf d none 0 0 true, rest.drop p.2)
      | .ok _ => match s.storePiece d none none asn p.1 (rest.take p.2) false with
        | .ok (s, q) => .ok (s.touchRow d q, rest.drop p.2)
        | .error e => .error e.cause
      | .error _ => .error .segBad) (Except.ok (s, data))).map (·.1)

/-! ## Launch records (R337, R338) -/

/-- A record's field of 8 bytes. -/
def recWord (img : List Byte) (off : Nat) : Word := BitVec.ofNat 64 (leNat ((img.drop off).take 8))

/-- Is the record malformed (R337)? -/
def launchBad (img : List Byte) : Bool :=
  let c := recWord img 0x18
  bits c 63 56 != 0 || bits c 31 22 != 0 || c.getLsbD 3 || recWord img 0x28 != 0 || recWord img 0x30 != 0 || recWord img 0x38 != 0 ||
    bits c 7 4 == 0 || (recWord img 0).toNat % 64 != 0 || (recWord img 0x10).toNat % 16 != 0

/-- The record's fields; its requested priority stands as its base until it enters a queue. -/
def launchOf (img : List Byte) : LaunchRec :=
  let c := recWord img 0x18
  { desc := recWord img 0, arg := recWord img 8, status := recWord img 0x10, donedc := c.extractLsb' 44 12, waitdc := c.extractLsb' 32 12,
    den := c.getLsbD 21, wen := c.getLsbD 20, asn := c.extractLsb' 8 8, dies := c.extractLsb' 4 4, tag := recWord img 0x20, base := bits c 2 0 }

/-- The queue a record asks for when a counter enqueues it. -/
def launchQsel (img : List Byte) : Fin 16 := Fin.ofNat 16 (bits (recWord img 0x18) 19 16)

/-- A launch queue's records. -/
def State.lq (s : State) (d : DieId) (q : Fin 16) : Lq := (s.die d).lqs[q]
/-- Changes a launch queue. -/
def State.updLq (s : State) (d : DieId) (q : Fin 16) (f : Lq → Lq) : State :=
  s.updDie d fun x => { x with lqs := x.lqs.set q (f (x.lqs[q])) }

/-- Does the queue accept a record (R340, R341)? -/
def Lq.accepts (q : Lq) : Bool := q.enable && decide (q.recs.length < 64)

/-- The order of the sources within one cycle (R341): LAUNCH by package core number, the system core, the ring, on-zero actions by counter. -/
def launchRank : Who → Nat
  | .eng d c _ _ => pkgCore d c
  | .sys _ => 256

/-- A record enters a queue at base priority min(PRIO, CEIL) (R340): behind every record of an earlier cycle, and among those of its own cycle by
the order of their sources (R341); a head already in the launch table stays the head. -/
def Lq.enter (q : Lq) (r : LaunchRec) (now rank : Nat) : Lq :=
  let later := (q.recs.reverse.takeWhile fun (y : LaunchRec) => y.since == now && decide (rank < y.rank)).length
  let k := max (if q.entry.isSome then 1 else 0) (q.recs.length - later)
  { q with recs := q.recs.take k ++ { r with base := min r.base q.ceil.toNat, since := now, rank := rank } :: q.recs.drop k }

/-- A refused record of a host ring or of a counter (R338): an ERRDONE event with HANDLE 0. -/
def State.refuseRecord (s : State) (d : DieId) : State := s.queueEvent d (eventRecord 4 true Cause.launchRec.code 0xFF 0)

/-- The same of a host ring: MSI-X vector 4 (R399). -/
def State.refuseRing (s : State) (d : DieId) : State :=
  let s := s.refuseRecord d
  { s with msix := s.msix ||| 0x10#6 }

/-! ## Counters (R369-R371) -/

/-- A dependence counter. -/
def State.dc (s : State) (d : DieId) (n : Nat) : Dc := (s.die d).dcs.getD n {}
/-- Replaces a dependence counter. -/
def State.putDc (s : State) (d : DieId) (n : Nat) (c : Dc) : State := s.updDie d fun x => { x with dcs := x.dcs.put n c }

/-- A counter as DEPREAD returns it (R369). -/
def Dc.word (c : Dc) : Word :=
  BitVec.ofBool c.under ++ (0 : BitVec 15) ++ c.asn ++ BitVec.ofBool c.sysrec ++ (0 : BitVec 2) ++ BitVec.ofBool c.scope ++ (0 : BitVec 1) ++ (0 : BitVec 1) ++
    c.act ++ (0 : BitVec 8) ++ c.value

/-- A decrement's new counter: saturation and UNDER (R370). -/
def Dc.less (c : Dc) (a : Nat) : Dc :=
  { c with value := BitVec.ofNat 24 (c.value.toNat - a), under := c.under || decide (c.value.toNat < a) }

/-- Does a decrement fire the on-zero action: from non-zero to zero (R370)? -/
def Dc.fires (c : Dc) (a : Nat) : Bool := decide (c.value ≠ 0 ∧ c.value.toNat ≤ a)

/-- The on-zero action (R371). -/
def State.onZeroAction (s : State) (d : DieId) (n : Nat) (c : Dc) : State :=
  if c.act = 1 then
    let r : Option (List (Byte × Bool) × State) :=
      if c.sysrec then
        let g := s.sysGet d c.lrec.toNat 64
        some (g.1.map fun b => (b, g.2), s)
      else s.distRead d c.asn c.lrec.toNat 64
    match r with
    | none => s.refuseRecord d
    | some (l, s) =>
      let img := l.map (·.1)
      if l.any (·.2) || launchBad img || (!c.sysrec && (launchOf img).asn != c.asn) then s.refuseRecord d
      else s.updDie d fun x => { x with onZero := x.onZero ++ [(BitVec.ofNat 12 n, launchOf img, launchQsel img)] }
  else if c.act = 2 then s.capture d n 0 true 0 (0x140 + d.val)
  else s

/-- A decrement of counter n of die d by a, with its action (R370). -/
def State.decrement (s : State) (d : DieId) (n a : Nat) : State :=
  let c := s.dc d n
  let s := s.putDc d n (c.less a)
  if c.fires a then s.onZeroAction d n (c.less a) else s

/-- The range check of R372: xr(CTR) names a counter of a live die that this die may name. -/
def State.depBad (s : State) (d : DieId) (ctr : Word) : Bool :=
  let t : DieId := Fin.ofNat 4 (bits ctr 13 12)
  bits ctr 63 14 != 0 || !s.live t || (t != d && !(s.dc t (bits ctr 11 0)).scope)

/-- DEPDEC (R373). -/
def execDepdec (h : Hdr) (g : Guard) (ctr amt : BitVec 5) (s : State) : Host.Outcome State Fault Refusal :=
  runGuarded (.depdec h g ctr amt) h g always (fun s =>
    let c := s.readX 0 ctr
    let a := s.readX 1 amt
    if s.depBad (whoDie s.cur) c then .error { cause := .depRange, info0 := c }
    else if bits a 63 24 ≠ 0 then .error { cause := .depRange, info0 := c, info1 := a }
    else .ok (s.launchWord h.tks none [] (.depdec (c.extractLsb' 12 2) (c.extractLsb' 0 12) (a.extractLsb' 0 24) s.str.cov), .fall)) s

/-- The cause of a record's place that is refused: a job's, or the system core's (R344, R374). -/
def recordCause : Who → Cause
  | .eng .. => .launchRec
  | .sys _ => .badTarget
/-- The bits a DEPSET value may set: VALUE, ACT, SCOPE (R374). -/
def depsetMask : Word := 0x1300FFFFFF

/-- DEPSET (R374): its write is performed at issue + 2 or later, when what it releases is acknowledged (R371). -/
def execDepset (h : Hdr) (g : Guard) (ctr val lrec : BitVec 5) (s : State) : Host.Outcome State Fault Refusal :=
  runGuarded (.depset h g ctr val lrec) h g always (fun s =>
    let c := s.readX 0 ctr
    let w := s.readX 1 val
    let l := s.readX 2 lrec
    let d := whoDie s.cur
    if s.depBad d c then .error { cause := .depRange, info0 := c }
    else if w &&& ~~~depsetMask ≠ 0 ∨ bits w 33 32 = 3 then .error { cause := .depRange, info0 := c, info1 := w }
    else
      let bad : Bool := match s.cur with
        | .eng .. => l.toNat % 64 != 0
        | .sys d => l.toNat % 64 != 0 || (sysFrame d l.toNat 64).isNone
      if bits w 33 32 = 1 ∧ bad then
        .error { cause := recordCause s.cur, info0 := l }
      else .ok (s.launchWord h.tks (some (s.now + 2)) [] (.depset (c.extractLsb' 12 2) (c.extractLsb' 0 12) w l), .fall)) s

/-- The counter a DEPSET leaves (R374). -/
def depsetDc (w lrec : Word) (asn : BitVec 8) (sys : Bool) : Dc :=
  { value := w.extractLsb' 0 24, act := w.extractLsb' 32 2, scope := w.getLsbD 36, under := false, asn := asn, sysrec := sys, lrec := lrec }

/-- DEPREAD (R375). -/
def execDepread (h : Hdr) (g : Guard) (d ctr : BitVec 5) (s : State) : Host.Outcome State Fault Refusal :=
  runGuarded (.depread h g d ctr) h g always (fun s =>
    let c := s.readX 0 ctr
    if s.depBad (whoDie s.cur) c then .error { cause := .depRange, info0 := c }
    else results h 6 [.x d (s.dc (Fin.ofNat 4 (bits c 13 12)) (bits c 11 0)).word] s) s

/-- A DEPDEC in flight whose counter is on die d and whose release has taken effect (R373). -/
def State.depdec? (s : State) (d : DieId) : Option (Who × Flight × Nat × Nat) :=
  let ws : List Who := ((List.finRange 4).flatMap fun x =>
    ((List.finRange 64).flatMap fun c => if (s.core x c).slots.any Option.isSome then [Who.eng x c 0 .c, .eng x c 1 .c] else []) ++ [Who.sys x])
  ws.findSome? fun w => (s.stream? w).bind fun st => st.flights.findSome? fun f =>
    match f.work with
    | .depdec t n a _ => if !f.halted && t.toNat == d.val && s.released w f 3 then some (w, f, n.toNat, a.toNat) else none
    | _ => none

/-- COUNTER_DECREMENT (R370, R373): the next decrement of a counter of die d: of a job's end or a transfer record, or of a DEPDEC, which
completes in that cycle. -/
def execCounterDecrement (d : DieId) (s : State) : Host.Outcome State Fault Refusal :=
  match (s.die d).decs with
  | r :: rest => .next ((s.updDie d fun x => { x with decs := rest }).decrement d r.ctr.toNat r.amt.toNat)
  | [] =>
    match s.depdec? d with
    | some (w, f, n, a) => .next ((s.decrement d n a).complete w f)
    | none => .next s

/-- ON_ZERO_ENQUEUE (R341): the first pending on-zero record whose queue accepts it enters. -/
def execOnZeroEnqueue (d : DieId) (s : State) : Host.Outcome State Fault Refusal :=
  match (s.die d).onZero.findIdx? fun r => (s.lq d r.2.2).accepts with
  | none => .next s
  | some i =>
    match (s.die d).onZero[i]? with
    | none => .next s
    | some r => .next ((s.updLq d r.2.2 fun q => q.enter r.2.1 s.time (258 + r.1.toNat)).updDie d fun x => { x with onZero := x.onZero.eraseIdx i })

/-! ## LAUNCH (R343, R344) -/

/-- Is the record's place one LAUNCH refuses? -/
def State.launchPlaceBad (s : State) (a : Nat) : Bool :=
  match s.cur with
  | .eng .. => a % 64 != 0 || decide (s.jb.spBytes < a + 64)
  | .sys d => a % 64 != 0 || (sysFrame d a 64).isNone

/-- LAUNCH waits at issue while its queue holds 64 records. -/
def launchRoom (r : BitVec 5) (q : Fin 16) (s : State) : Bool :=
  s.launchPlaceBad (s.readX 0 r).toNat || decide ((s.lq (whoDie s.cur) q).recs.length < 64)

/-- LAUNCH (R344). -/
def execLaunch (h : Hdr) (g : Guard) (r : BitVec 5) (lq : BitVec 4) (d : BitVec 5) (s : State) : Host.Outcome State Fault Refusal :=
  let q : Fin 16 := Fin.ofNat 16 lq.toNat
  runGuarded (.launch h g r lq d) h g (fun s => launchRoom r q s && s.readsNow h) (fun s =>
    let a := s.readX 0 r
    let dd := whoDie s.cur
    if s.launchPlaceBad a.toNat then .error { cause := recordCause s.cur, info0 := a }
    else
      let l : List (Byte × Bool) := match s.cur with
        | .eng .. => s.jb.spRead a.toNat 64
        | .sys d => (s.sysGet d a.toNat 64).1.map fun b => (b, (s.sysGet d a.toNat 64).2)
      let img := l.map (·.1)
      let x := launchOf img
      let other : Bool := match s.cur with
        | .eng .. => x.asn != s.jb.asn
        | .sys _ => false
      if l.any (·.2) || launchBad img || other then .error { cause := .launchRec, info0 := a }
      else if !((List.finRange 4).any fun i => x.dies.getLsbD i.val && s.live i) then results h 4 [.x d 1] s
      else if !(s.lq dd q).enable then results h 4 [.x d 2] s
      else
        let n := s.str.nextId
        let me := s.recOf s.cur
        let cov := (s.covers s.cur n).map fun i => (me, i)
        let x : LaunchRec := { x with cov := cov }
        results h 4 [.x d 0] (s.updLq dd q fun y => y.enter x s.time (launchRank s.cur))) s

/-! ## Host rings (R340, R341) -/

/-- Records a host ring holds that have not been pulled. -/
def Lq.ringFill (q : Lq) : Nat := (q.tail - q.head).toNat

/-- Does the ring claim more records than it has entries? -/
def Lq.ringOver (q : Lq) : Bool := q.ringSize != 0 && decide (q.ringSize.toNat < q.ringFill)

/-- Once a ring claims too much, nothing is pulled until TAIL is rewritten, and one event says so (R341). -/
def State.ringCheck (s : State) (d : DieId) (q : Fin 16) : State :=
  let l := s.lq d q
  if l.ringOver && !l.overNoted then (s.updLq d q fun l => { l with overNoted := true }).refuseRing d else s

/-- A write of TAIL. -/
def State.putTail (s : State) (d : DieId) (q : Fin 16) (v : BitVec 32) : State :=
  (s.updLq d q fun l => { l with tail := v, overNoted := false }).ringCheck d q

/-- Does the host reach the package's registers and memory: the CXL port has trained, and firmware is not in recovery (R398, R410)? -/
def State.hostOpen (s : State) : Bool := !s.cxlDown && s.boot != 7

/-- LQ_TAIL_WRITE (R340): the host writes TAIL. -/
def execLqTailWrite (d : DieId) (q : Fin 16) (v : BitVec 32) (s : State) : Host.Outcome State Fault Refusal :=
  .next (if s.live d && s.hostOpen then s.putTail d q v else s)

/-- HOST_RING_PULL (R341): the distributor takes the ring's next record. -/
def execHostRingPull (d : DieId) (q : Fin 16) (s : State) : Host.Outcome State Fault Refusal :=
  let l := s.lq d q
  if !s.live d || !l.accepts || l.overNoted || l.ringSize == 0 || l.ringFill == 0 || l.ringOver then .next s
  else
    let g := s.sysGet d (l.ringBase.toNat + 64 * (l.head.toNat % l.ringSize.toNat)) 64
    let s := s.updLq d q fun l => { l with head := l.head + 1 }
    let r : LaunchRec := { launchOf g.1 with host := true }
    .next (if g.2 || launchBad g.1 then s.refuseRing d else s.updLq d q fun l => l.enter r s.time 257)

end Sys2Proof.Machine
end

