-- ==== Sys2Proof/Machine/Monitors.lean ====
section
/-! DEFINITION. Monitors and the droop detector: samples, MONITOR_SAMPLE, MONITOR_CLEAR, DROOP_ALARM, THROTTLE_END
(spec/17_counters.md R384-R386). -/

namespace Sys2Proof.Machine
open Sys2Proof

/-- Data-queue bytes the two slots of a core hold (R384, kind 2). -/
def State.heldBytes (s : State) (d : DieId) (c : CoreId) : Nat :=
  ((List.finRange 2).map fun k => match s.slotJob? d c k with
    | some j => (j.dqs.toList.map fun q => q.bytes.length).foldl (· + ·) 0
    | none => 0).foldl (· + ·) 0

/-- A monitor of data-queue bytes takes one sample for every core it selects, in the order of their numbers. -/
def State.sampleHeld (s : State) (d : DieId) (n : Fin 16) : State :=
  let m := (s.die d).mons[n]
  let cs := (List.finRange 64).filter fun c => m.wants 2 c.val
  s.updDie d fun y => { y with mons := y.mons.set n { (cs.foldl (fun (m : Monitor) c => m.take (BitVec.ofNat 64 (s.heldBytes d c))) m) with last := s.time / usUnits } }

/-- MONITOR_SAMPLE (R384): a monitor of kind 2 takes its samples of a microsecond, from the state. Samples of the other kinds are taken in the steps
that give them, so the event's unit and value go unused (log 51). -/
def execMonitorSample (d : DieId) (n : Fin 16) (_unit : Nat) (_x : BitVec 64) (s : State) : Host.Outcome State Fault Refusal :=
  let m := (s.die d).mons[n]
  .next (if s.live d ∧ m.wantsHeld ∧ m.last < s.time / usUnits then s.sampleHeld d n else s)

/-- A write of CLR (R384). -/
def Monitor.clear (m : Monitor) : Monitor :=
  { m with count := 0, max := 0, min := BitVec.allOnes 64, bins := Vector.replicate 32 0 }

/-- MONITOR_CLEAR (R384). -/
def execMonitorClear (d : DieId) (n : Fin 16) (s : State) : Host.Outcome State Fault Refusal :=
  .next (s.updDie d fun y => { y with mons := y.mons.set n (y.mons[n].clear) })

/-- The notice key of a grove's droop. -/
def droopKey (g : GroveId) : Nat := 0x100 + g.val

/-- DROOP_ALARM (R386): the supply under a grove fell mv below nominal; at DRPTHR or more the alarm is raised. -/
def execDroopAlarm (d : DieId) (g : GroveId) (mv : Nat) (s : State) : Host.Outcome State Fault Refusal :=
  let x := s.die d
  if !s.live d || x.drpthr == 0 || decide (mv < x.drpthr.toNat) then .next s
  else
    let s := ((s.count d (8 * g.val) 1).sample d 4 g.val mv).noticeMs d (droopKey g) .droop 0xFF
    .next (s.updGrove d g fun y => { y with reload := some (x.drpstr.toNat, x.drpthrot.toNat), throttling := true })

/-- THROTTLE_END (R386): both counts have run out. -/
def execThrottleEnd (d : DieId) (g : GroveId) (s : State) : Host.Outcome State Fault Refusal :=
  let y := s.grove d g
  .next (if y.throttling && y.reload.isNone && y.stretch == 0 && y.throttle == 0 then s.updGrove d g fun y => { y with throttling := false } else s)

end Sys2Proof.Machine
end

