-- ==== Sys2Proof/Machine/Program.lean ====
section
/-! DEFINITION. Programming the canopy: PGMROW, PGMTILE, PGMSTAT, PGMRET, and the steps PGM_ACCEPT, PGM_REQUEST_START, PGM_ITERATION,
GOV_WINDOW, PGM_RATE (spec/13_memories_canopy.md R279-R300). -/

namespace Sys2Proof.Machine
open Sys2Proof

/-! ## At issue (R290, R293-R298) -/

/-- May the current job program its grove's columns (R290)? -/
def State.mayProgram (s : State) : Bool :=
  match s.cur with
  | .eng d c _ _ =>
    let a := s.jb.asn.toNat
    ((s.grove d (groveOf c)).pgmperm[a / 64]?.getD 0).getLsbD (a % 64)
  | .sys _ => false

/-- A seventeenth outstanding request is held at issue (R290). -/
def pgmRoom (s : State) : Bool := decide (s.jb.pgmOut < 16)

/-- The source check of R294: a run of bytes in scratchpad. -/
def State.pgmSource (s : State) (num : BitVec 6) (t : BitVec 256) : Option Stop :=
  match s.useTensor num t [0] .tensorBad with
  | some e => some e
  | none => if tFmt t != 0 || tPitch t != tCols t then some { cause := .tensorBad, info0 := zx64 num } else none

/-- The counter a request names: x0 names none; its check (R293). -/
def State.pgmCounter (s : State) (k : Nat) (r : BitVec 5) : Except Stop (Option (BitVec 12)) :=
  if r = 0 then .ok none
  else
    let v := s.readX k r
    if bits v 63 12 ≠ 0 then .error { cause := .depRange, info0 := v } else .ok (some (v.extractLsb' 0 12))

/-- A request to be: its job, no tag yet. -/
def State.pgmNew (s : State) (kind : PgmKind) (dc : Option (BitVec 12)) : PgmReq :=
  let col := match s.cur with
    | .eng _ c _ _ => c
    | .sys _ => 0
  { jrec := s.recOf s.cur, gen := s.jb.gen, tag := 0, kind := kind, dc := dc, col := col }

/-- PGMROW (R295). -/
def execPgmrow (h : Hdr) (g : Guard) (row : BitVec 5) (tensor : BitVec 6) (off dc : BitVec 5) (s : State) : Host.Outcome State Fault Refusal :=
  runGuarded (.pgmrow h g row tensor off dc) h g pgmRoom (fun s =>
    let t := s.tensor 4 tensor
    if !s.mayProgram then .error { cause := .pgmPriv }
    else match s.pgmSource tensor t with
      | some e => .error e
      | none => match s.pgmCounter 2 dc with
        | .error e => .error e
        | .ok n =>
          let l := s.readX 0 row
          let o := s.readX 1 off
          if l.toNat < 0x10000 ∨ 0x3FFFFF < l.toNat then .error { cause := .pgmRange, info0 := l }
          else if tRows t * tCols t < o.toNat + 64 then .error { cause := .pgmRange, info0 := o }
          else .ok (s.launchWord h.tks none [] (.pgm (s.pgmNew (.row l.toNat 0) n) (tBase t + o.toNat) 64), .fall)) s

/-- PGMTILE (R296). -/
def execPgmtile (h : Hdr) (g : Guard) (idx : BitVec 5) (tensor : BitVec 6) (kl dc : BitVec 5) (s : State) : Host.Outcome State Fault Refusal :=
  runGuarded (.pgmtile h g idx tensor kl dc) h g pgmRoom (fun s =>
    let t := s.tensor 4 tensor
    if !s.mayProgram then .error { cause := .pgmPriv }
    else match s.pgmSource tensor t with
      | some e => .error e
      | none => match s.pgmCounter 2 dc with
        | .error e => .error e
        | .ok n =>
          let i := s.readX 0 idx
          let k := s.readX 1 kl
          let len := bits k 31 0
          let image : Bool := bits k 63 62 == 1 || bits k 63 62 == 2
          if 262143 < i.toNat ∨ k.getLsbD 61 = true then .error { cause := .pgmRange, info0 := i }
          else if image && decide (tRows t * tCols t < len) then .error { cause := .pgmRange, info0 := BitVec.ofNat 64 len }
          else .ok (s.launchWord h.tks none [] (.pgm (s.pgmNew (.tile i.toNat k []) n) (tBase t) (if image then len else 0)), .fall)) s

/-- PGMRET (R298). -/
def execPgmret (h : Hdr) (g : Guard) (prow : BitVec 5) (s : State) : Host.Outcome State Fault Refusal :=
  runGuarded (.pgmret h g prow) h g pgmRoom (fun s =>
    let p := s.readX 0 prow
    if !s.mayProgram then .error { cause := .pgmPriv }
    else if 0x43FFFF < p.toNat then .error { cause := .pgmRange, info0 := p }
    else .ok (s.launchWord h.tks none [] (.pgm (s.pgmNew (.ret p.toNat) none) 0 0), .fall)) s

/-- What PGMSTAT reports of a pending request of this job and tag, should one be in a column (R297): what its rows came to so far. -/
def Die.pgmPending (x : Die) (r : Nat) (gen : BitVec 24) (tag : BitVec 32) : Option Word :=
  let mine (q : PgmReq) : Bool := q.jrec == r && q.gen == gen && q.tag == tag
  x.columns.toList.findSome? fun (c : Column) => match c.run with
    | some p => if mine p.req then some ((0 : BitVec 32) ++ BitVec.ofNat 8 p.lastIter ++ BitVec.ofNat 8 p.retired ++ (1 : BitVec 16)) else if c.queue.any mine then some 1 else none
    | none => if c.queue.any mine then some 1 else none

/-- A finished request's state word (R297). -/
def PgmDone.word (p : PgmDone) : Word :=
  BitVec.ofNat 24 p.prow ++ (0 : BitVec 8) ++ BitVec.ofNat 8 p.iter ++ BitVec.ofNat 8 p.retired ++ p.cause ++ (0 : BitVec 6) ++ (if p.ok then (2 : BitVec 2) else 3)

/-- PGMSTAT's value (R297). -/
def State.pgmStatus (s : State) (tag : BitVec 32) : Word :=
  let j := s.jb
  if tag = 0 then zx64 j.pgmNext
  else match j.pgmDone.find? fun p => p.tag == tag with
    | some p => p.word
    | none => match (s.die (whoDie s.cur)).pgmPending (s.recOf s.cur) j.gen tag with
      | some v => v
      | none => if tag < j.pgmNext then 2 else 0

/-- PGMSTAT (R297): valid whether or not the job may program. -/
def execPgmstat (h : Hdr) (g : Guard) (d tag : BitVec 5) (s : State) : Host.Outcome State Fault Refusal :=
  runGuarded (.pgmstat h g d tag) h g always (fun s =>
    results h 4 [.x d (s.pgmStatus ((s.readX 0 tag).extractLsb' 0 32))] s) s

/-- PGM_ACCEPT (R290): the waiting request of T is accepted, its source bytes copied; it takes the job's next tag, and acts on the column of the
core that issued it. -/
def execPgmAccept (d : DieId) (c : CoreId) (k : SlotId) (s : State) : Host.Outcome State Fault Refusal :=
  match s.tStream d c k with
  | none => .next s
  | some (w, j) =>
    match (j.streams[(2 : Fin 5)]).flights.find? fun f => !f.halted && (match f.work with
      | .pgm .. => true
      | _ => false) with
    | none => .next s
    | some f => match f.work with
      | .pgm r src len =>
        let tile : Bool := match r.kind with
          | .tile .. => true
          | _ => false
        if s.timeOf w < f.issued + 4 + (if tile then cdiv len 512 else 0) || !s.acquired w f then .next s
        else
          let l := j.spRead src len
          let b := l.map (·.1)
          let kind : PgmKind := match r.kind with
            | .row n _ => .row n (BitVec.ofNat 512 (leNat b))
            | .tile i kl _ => .tile i kl b
            | x => x
          let q : PgmReq := { r with tag := j.pgmNext, kind := kind, poisoned := l.any (·.2) }
          let s := s.updColumn d q.col fun x => { x with queue := x.queue ++ [q] }
          let s := s.updJobOf w fun j => { j with pgmNext := j.pgmNext + 1, pgmOut := j.pgmOut + 1 }
          .next ((s.complete w f).openGate w)
      | _ => .next s

/-! ## The pool (R279, R292) -/

/-- Physical rows that shipped in the pool. -/
def shippedPool : Nat := 0x40000

/-- POOLCNT. -/
def Column.poolCount (x : Column) : Nat := shippedPool - x.taken.length + x.returned.length

/-- The pool's head: shipped rows first, in an order not architected (free value, log 7), then the returned ones. -/
def Column.poolHead (x : Column) (free : Nat) : Option Nat :=
  if x.taken.length < shippedPool then
    ((List.range (x.taken.length + 1)).find? fun i => !x.taken.contains (0x400000 + (free + i) % shippedPool)).map fun i => 0x400000 + (free + i) % shippedPool
  else x.returned.head?

/-- Removes the pool's head. -/
def Column.takeHead (x : Column) (p : Nat) : Column :=
  if x.taken.length < shippedPool then { x with taken := p :: x.taken } else { x with returned := x.returned.drop 1 }

/-- The wear of a physical row, one higher (R279). -/
def Column.wearUp (x : Column) (p : Nat) : Column := { x with wear := x.wear.put p (min (x.wear.getD p 0 + 1) (2 ^ 24 - 1)) }

/-- The POOL_LOW notice as POOLCNT moves (R292). -/
def State.poolNotice (s : State) (d : DieId) (col : CoreId) : State :=
  let x := s.column d col
  let low := decide (x.poolCount ≤ (s.grove d (groveOf col)).poollow.toNat)
  if low && !x.low then (s.updColumn d col fun y => { y with low := true }).notice d .poolLow col.val 0
  else if !low && x.low then s.updColumn d col fun y => { y with low := false } else s

/-- The handle a request's notices carry: its job's, none for the engine's own rewrites. -/
def PgmReq.handle (q : PgmReq) : BitVec 32 :=
  match q.kind with
  | .rewrite .. => 0
  | _ => handleOf q.gen q.jrec

/-- Changes the request under way. -/
def State.updRun (s : State) (d : DieId) (col : CoreId) (f : PgmRun → PgmRun) : State :=
  s.updColumn d col fun x => { x with run := x.run.map f }

/-! ## The end of a request (R290, R291) -/

/-- Records a finished request with its job, should that still exist; one that failed leaves its stop for T. -/
def State.pgmRecord (s : State) (d : DieId) (q : PgmReq) (done : PgmDone) (stop : Option Stop) : State :=
  match q.kind with
  | .rewrite .. => s
  | _ => s.updJob d q.jrec fun j =>
    if j.gen != q.gen then j
    else { j with pgmOut := j.pgmOut - 1, pgmDone := (j.pgmDone ++ [done]).drop (j.pgmDone.length + 1 - 64), pgmStop := j.pgmStop ++ stop.toList }

/-- PGM_REQUEST_FAIL (R291): the request ends without its swing; rows it programmed return to the pool. -/
def State.pgmFail (s : State) (d : DieId) (col : CoreId) (r : PgmRun) (cause : Cause) (at_ : Nat) : State :=
  let s := s.updColumn d col fun x => { x with run := none, returned := x.returned ++ r.made.map (·.2) ++ r.prow.toList }
  let s := if cause = .poison then s.count d 0x068 1 else s
  let done : PgmDone := { tag := r.req.tag, ok := false, prow := 0, iter := r.lastIter, retired := r.retired, cause := zx64 cause.code |>.extractLsb' 0 8 }
  (s.pgmRecord d r.req done (some { cause := cause, info0 := zx64 r.req.tag, info1 := BitVec.ofNat 64 at_ })).poolNotice d col

/-- What the request concerns: its logical row or its index; a PGMRET of a row that none is mapped to names that row. -/
def PgmReq.about (q : PgmReq) (x : Column) : Nat :=
  match q.kind with
  | .row l _ => l
  | .tile i _ _ => i
  | .ret p => (x.mappedFrom p).getD p
  | .rewrite l => l

/-- A swing is written to both copies of the system area, that in use last, over whatever error stood there (R280, log 102). -/
def Column.areasWritten (x : Column) : Column :=
  let n := max x.areas[(0 : Fin 2)].seq x.areas[(1 : Fin 2)].seq
  { x with areas := Vector.ofFn fun i => { seq := n + (if i = x.area then 2 else 1) } }

/-- The row map takes a new entry; what the row read as until then is kept while a read may be under way (R287). -/
def Column.remap (x : Column) (l p now : Nat) : Column :=
  let old : PastRow := { row := l, bytes := x.row l, ue := x.hard.contains (x.prow l), cyc := now }
  { x.areasWritten with
    map := x.map.put l (mapEntry p)
    past := (x.past.filter fun r => decide (now < r.cyc + 64)) ++ [old] }

/-- One swing of a row (R292), within the request's last step: retire answers whether the old row is retired whatever its wear (PGMRET). -/
def State.swing (s : State) (d : DieId) (col : CoreId) (q : PgmReq) (l p : Nat) (retire : Bool) : State × Nat :=
  let x := s.column d col
  let old := x.prow l
  let holds (i : Nat) : Bool :=
    let e := x.entry i
    (dKind e == 1 || dKind e == 2) && decide (dFirst e ≤ l ∧ l < dFirst e + dRows e)
  let s := s.updCore d col fun y => { y with tcache := y.tcache.filter fun t => !holds t.1 }
  let now := (s.grove d (groveOf col)).cyc
  let s := s.updColumn d col fun y => y.remap l p now
  if retire then ((s.updColumn d col fun y => { y with retired := y.retired ++ [old] }).notice d .rowRetired col.val q.handle, 1)
  else if (s.grove d (groveOf col)).wearlim.toNat ≤ x.wear.getD old 0 then
    ((s.updColumn d col fun y => { y with retired := y.retired ++ [old] }).notice d .wearLimit col.val q.handle, 1)
  else (s.updColumn d col fun y => { y with returned := y.returned ++ [old] }, 0)

/-- PGM_SWING (R292, R296): every swing of the request and its counter's decrement in one step; the request is done. -/
def State.pgmFinish (s : State) (d : DieId) (col : CoreId) (r : PgmRun) : State :=
  let retire : Bool := match r.req.kind with
    | .ret _ => true
    | _ => false
  let (s, n) := r.made.foldl (fun (m : State × Nat) e =>
    let (s, k) := m.1.swing d col r.req e.1 e.2 retire
    (s, m.2 + k)) (s, r.retired)
  -- a slot whose index is swung is invalidated too (R286)
  let s := match r.req.kind with
    | .tile i _ _ => s.updCore d col fun y => { y with tcache := y.tcache.filter fun t => t.1 != i }
    | _ => s
  let s := s.updColumn d col fun x => { x with run := none }
  let last := (r.made.getLast?.map (·.2)).getD 0
  let s := s.pgmRecord d r.req { tag := r.req.tag, ok := true, prow := last, iter := r.lastIter, retired := n, cause := 0 } none
  let s := match r.req.dc with
    | some c => s.decrement d c.toNat 1
    | none => s
  s.poolNotice d col

/-! ## Rows (R292, R299) -/

/-- The governor's count in the window that now runs: windows of 1 ms of global time. -/
def Grove.governed (g : Grove) (time : Nat) : Grove :=
  if time / msUnits = g.govStart / msUnits then g else { g with govCount := 0, govStart := time / msUnits * msUnits }

/-- Takes the pool's head for the run's first row, under the governor; or every row is written and the request swings; or it waits. -/
def State.pgmNextRow (s : State) (d : DieId) (col : CoreId) (r : PgmRun) : State :=
  match r.rows with
  | [] => s.pgmFinish d col r
  | (l, _) :: _ =>
    let g := groveOf col
    let s := s.updGrove d g fun y => y.governed s.time
    let x := s.column d col
    match x.poolHead (Config.freeNat s.free 102) with
    | none => s.pgmFail d col r .poolEmpty l
    | some p =>
      if x.poolCount = 0 then s.pgmFail d col r .poolEmpty l
      else if (s.grove d g).govctl.toNat ≤ (s.grove d g).govCount then
        let since := match r.req.deferred with
          | some t => t
          | none => (s.grove d g).cyc
        let req : PgmReq := { r.req with deferred := some since }
        s.updColumn d col fun y => { y with run := some { r with req := req } }
      else
        let s := s.updGrove d g fun y => { y with govCount := y.govCount + 1 }
        let req : PgmReq := { r.req with deferred := none }
        let run : PgmRun := { r with req := req, prow := some p, iter := 0, tries := r.tries + 1, since := s.time }
        let s := s.updColumn d col fun y => { ((y.takeHead p).wearUp p) with run := some run }
        { (s.poolNotice d col) with free := s.free + 1 }

/-! ## The checks of a request's start (R291, R296, R298) -/

/-- Directory rows that may hold an entry that is not EMPTY: rows whose map entry or shipped row was ever written. -/
def Column.dirRows (x : Column) : List Nat :=
  (x.map.filterMap fun e => if e.1 < 0x10000 then some e.1 else none) ++
    x.rows.filterMap fun e => if e.1 < 0x10000 ∧ (x.map.get? e.1).isNone then some e.1 else none

/-- Every entry of the column that is not EMPTY, with its index. -/
def Column.entries (x : Column) : List (Nat × BitVec 128) :=
  x.dirRows.flatMap fun l => (List.range 4).filterMap fun k =>
    let e := x.entry (4 * l + k)
    if dKind e = 0 then none else some (4 * l + k, e)

/-- A directory row that cannot be read; the check fails there with CANOPY_UE (R289). -/
def Column.dirUe (x : Column) : Option Nat :=
  let bad := (x.hard.filterMap x.mappedFrom).filter (· < 0x10000)
  (bad.head?).map fun a => bad.foldl min a

/-- The directory rows with corrected bits: a request that reads the whole directory notices them (R289). -/
def Column.dirCe (x : Column) : List Nat := (x.soft.filterMap fun e => x.mappedFrom e.1).filter (· < 0x10000)

/-- Can the directory row of entry i not be read (R289)? -/
def Column.rowUe (x : Column) (i : Nat) : Bool := x.hard.contains (x.prow (i / 4))

/-- Is some entry an ALIAS of index i? -/
def Column.named (x : Column) (i : Nat) : Bool := x.entries.any fun e => dKind e.2 == 3 && dLen e.2 == i

/-- PGMTILE's checks in the engine, in order (R285, R296): the failure's cause. -/
def Column.tileBad (x : Column) (i : Nat) (kl : Word) (img : List Byte) : Option Cause :=
  let kind := bits kl 63 62
  let fmt : BitVec 5 := kl.extractLsb' 56 5
  let first := bits kl 55 32
  let len := bits kl 31 0
  let rows := cdiv len 64
  if kind = 1 ∧ (!matrixFmt fmt || len != 32 * stepBytes fmt) = true then some .dirBad
  else if kind = 2 ∧ (fmt != 0x0D || len != 16 + 28 * recBases img || recReserved img || recFlags img != 0 || recCheck img != recCrc img) = true then
    some .recordCheck
  else if kind = 2 ∧ recSeed img = 0 then some .seedZero
  else if kind = 1 ∨ kind = 2 then
    if first < 0x10000 ∨ logicalRows < first + rows ∨ (x.entries.any fun e =>
        (dKind e.2 == 1 || dKind e.2 == 2) && decide (first < dFirst e.2 + dRows e.2 ∧ dFirst e.2 < first + rows)) = true then some .pgmRange
    else none
  else if first ≠ 0 ∨ fmt ≠ 0 then some .dirBad
  else if kind = 3 ∧ (decide (i ≤ len) || !(dKind (x.entry len) == 1 || dKind (x.entry len) == 2)) = true then some .dirBad
  else if x.named i then some .dirBad
  else none

/-- The 64-byte rows of an image, its last row padded with zeros (R282). -/
def imageRows (first : Nat) (img : List Byte) : List (Nat × BitVec 512) :=
  (List.range (cdiv img.length 64)).map fun r => (first + r, BitVec.ofNat 512 (leNat ((img.drop (64 * r)).take 64)))

/-- The directory row of entry i with the entry replaced and its GEN counted (R296); an EMPTY entry's LENIDX is 0 whatever KL holds (R282; log 86). -/
def Column.dirRow (x : Column) (i : Nat) (kl : Word) : BitVec 512 :=
  let len : BitVec 32 := if kl.extractLsb' 62 2 = 0 then 0 else kl.extractLsb' 0 32
  let e : BitVec 128 := (0 : BitVec 16) ++ (dGen (x.entry i) + 1) ++ len ++ (0 : BitVec 8) ++ kl.extractLsb' 32 24 ++ (0 : BitVec 19) ++
    kl.extractLsb' 56 5 ++ (0 : BitVec 6) ++ kl.extractLsb' 62 2
  setBits (x.row (i / 4)) (128 * (i % 4)) 128 e.toNat

/-- PGMRET of a row in the pool, or of one already retired (R298). -/
def State.retireFree (s : State) (d : DieId) (col : CoreId) (r : PgmRun) (p : Nat) : State :=
  let x := s.column d col
  let shipped := decide (0x400000 ≤ p) && !x.taken.contains p
  if shipped || x.returned.contains p then
    let s := s.updColumn d col fun y => { y with
      taken := if shipped then p :: y.taken else y.taken, returned := y.returned.filter (· != p), retired := y.retired ++ [p] }
    (s.notice d .rowRetired col.val r.req.handle).pgmFinish d col { r with retired := r.retired + 1 }
  else s.pgmFinish d col r

/-- The engine's own reads of some logical rows, with what a read notices (R289). -/
def State.engineReads (s : State) (d : DieId) (col : CoreId) (ls : List Nat) : State := ls.foldl (fun s l => (s.canopyRow d col l).2.2) s

/-- PGM_REQUEST_START (R291): the column's next accepted request starts and makes its checks. -/
def execPgmRequestStart (d : DieId) (col : CoreId) (s : State) : Host.Outcome State Fault Refusal :=
  let x := s.column d col
  match x.queue, x.run with
  | q :: rest, none =>
    if !s.live d then .next s
    else
      let r : PgmRun := { req := q, rows := [] }
      let s := s.updColumn d col fun y => { y with queue := rest, run := some r }
      let go (s : State) (rows : List (Nat × BitVec 512)) : State := s.pgmNextRow d col { r with rows := rows }
      if q.poisoned then .next (s.pgmFail d col r .poison (q.about x))
      else if x.treeUe then .next (s.pgmFail d col r .treeUe (q.about x))
      else match q.kind with
        | .row l v => .next (go s [(l, v)])
        | .rewrite l => if x.hard.contains (x.prow l) then .next (s.pgmFail d col r .canopyUe l) else .next (go (s.engineReads d col [l]) [(l, x.row l)])
        | .tile i kl img =>
          let s := s.engineReads d col x.dirCe
          match (if x.rowUe i then some i else x.dirUe.map (4 * ·)) with
          | some e => .next (s.pgmFail d col r .canopyUe e)
          | none => match x.tileBad i kl img with
            | some c => .next (s.pgmFail d col r c i)
            | none => .next (go s (imageRows (bits kl 55 32) img ++ [(i / 4, x.dirRow i kl)]))
        | .ret p =>
          match x.mappedFrom p with
          | none => .next (s.retireFree d col r p)
          | some l => if x.hard.contains p then .next (s.pgmFail d col r .canopyUe l) else .next (go (s.engineReads d col [l]) [(l, x.phys p)])
  | _, _ => .next s

/-- One iteration of a row programmed: 500 ns (R292). -/
def iterUnits : Nat := 8500

/-- PGM_ITERATION (R292): the row is programmed and read back; ok: no bit differs. -/
def execPgmIteration (d : DieId) (col : CoreId) (ok : Bool) (s : State) : Host.Outcome State Fault Refusal :=
  let x := s.column d col
  match x.run with
  | none => .next s
  | some r =>
    match r.prow, r.rows with
    | some p, (l, v) :: rest =>
      if !s.live d || decide (s.time < r.since + iterUnits) then .next s
      else
        let it := r.iter + 1
        -- errors that stood in the row are gone with what it held; later ones stay (R289)
        let s := s.updColumn d col fun y => { y with rows := y.rows.put p v, soft := y.soft.del p, hard := y.hard.filter (· != p) }
        if x.treeUe then .next (s.pgmFail d col r .treeUe l)
        else if ok then
          let s := s.sample d 6 (groveOf col).val it
          .next (s.pgmNextRow d col { r with rows := rest, prow := none, iter := 0, tries := 0, lastIter := it, made := r.made ++ [(l, p)] })
        else if it < 8 then .next (s.updRun d col fun r => { r with iter := it, lastIter := it, since := s.time })
        else
          let s := (s.updColumn d col fun y => { y with retired := y.retired ++ [p] }).notice d .rowRetired col.val r.req.handle
          let r : PgmRun := { r with prow := none, iter := 0, lastIter := it, retired := r.retired + 1 }
          if 3 ≤ r.tries then .next (s.pgmFail d col r .pgmVerify l)
          else .next (s.pgmNextRow d col r)
    | _, _ => .next s

/-- GOV_WINDOW (R299): in a new window the grove's deferred requests go on, while its count allows it. -/
def execGovWindow (d : DieId) (g : GroveId) (s : State) : Host.Outcome State Fault Refusal :=
  if !s.live d then .next s
  else
    let s := s.updGrove d g fun y => y.governed s.time
    .next ((List.finRange 64).foldl (fun s col =>
      if groveOf col != g || (s.grove d g).govctl.toNat ≤ (s.grove d g).govCount then s
      else match (s.column d col).run with
        | some r => if r.req.deferred.isSome then s.pgmNextRow d col r else s
        | none => s) s)

/-- PGM_RATE (R299): a request deferred for 2^20 cycles stops its job; it stays queued, and its count begins anew. -/
def execPgmRate (d : DieId) (col : CoreId) (s : State) : Host.Outcome State Fault Refusal :=
  match (s.column d col).run with
  | none => .next s
  | some r =>
    match r.req.deferred with
    | none => .next s
    | some t =>
      let now := (s.grove d (groveOf col)).cyc
      if now < t + 2 ^ 20 then .next s
      else
        let req : PgmReq := { r.req with deferred := some now }
        let s := s.updRun d col fun r => { r with req := req }
        .next (match r.req.kind with
          | .rewrite .. => s
          | _ => s.updJob d r.req.jrec fun j =>
            if j.gen != r.req.gen then j else { j with pgmStop := j.pgmStop ++ [{ cause := .pgmRate, info0 := zx64 r.req.tag }] })

end Sys2Proof.Machine
end

