-- ==== Sys2Proof/Machine/Ends.lean ====
section
/-! DEFINITION. The end of a job and of a launch: profile record, completion status, counters, JOB_RETIRE, ABORT, ABORT_COMPLETE, KILL_COMPLETE
(spec/02_jobs.md R36-R38, spec/15_queues_launch.md R348, spec/17_counters.md R382, spec/10_memories_spaces.md R230, R233). -/

namespace Sys2Proof.Machine
open Sys2Proof

/-! ## Launches -/

/-- A launch's table entry at its owning die. -/
def State.launchAt (s : State) (d : DieId) (n : Nat) : Option Launch := (s.die d).launches.get? n

/-- An ERRDONE event (R206). -/
def State.errDone (s : State) (d : DieId) (cause : BitVec 7) (core : Nat) (handle : BitVec 32) : State :=
  s.queueEvent d (eventRecord 4 true cause core handle)

/-- The 16 bytes of a completion status (R348). -/
def statusBytes (err : Option (BitVec 7 × BitVec 16)) (nerr : Nat) (tag : Word) : List Byte :=
  let e := err.getD (0, 0)
  let w : Word := BitVec.ofBool true ++ BitVec.ofBool (err.isSome || nerr != 0) ++ e.1 ++ (0 : BitVec 7) ++ e.2 ++ BitVec.ofNat 32 nerr
  leBytes 8 w.toNat ++ leBytes 8 tag.toNat

/-- Writes a launch's completion status; a write that cannot be made is skipped and an ERRDONE event says why (R233, R348). -/
def State.putStatusRecord (s : State) (d : DieId) (r : LaunchRec) (err : Option (BitVec 7 × BitVec 16)) (nerr : Nat) : State :=
  if r.status = 0 then s
  else match s.distWrite d r.asn r.status.toNat (statusBytes err nerr r.tag) with
    | .ok s => s
    | .error c =>
      let home := segHome (s.seg d r.asn (bufOf r.status.toNat))
      s.errDone (if c = .ubOverflow ∨ c = .ubNoframe ∨ c = .ubLost then home else d)
        (if c = .ubOverflow ∨ c = .ubNoframe ∨ c = .ubLost then c else Cause.segBad).code 0xFF 0

/-- n decrements by 1 of a launch's DONEDC, as amounts of at most 24 bits: n single decrements and these leave the same counter (R348, R370);
err: of jobs that ended otherwise than by retirement. -/
def State.decDone (s : State) (d : DieId) (r : LaunchRec) (n : Nat) (err : Bool) : State :=
  if !r.den || n = 0 then s
  else
    let l : List DecReq := if n < 2 ^ 24 then [{ ctr := r.donedc, amt := BitVec.ofNat 24 n, err := err }]
      else [{ ctr := r.donedc, amt := BitVec.allOnes 24, err := err }, { ctr := r.donedc, amt := 1, err := err }]
    s.updDie d fun x => { x with decs := x.decs ++ l }

/-- One more job of a launch has ended (R348, R350): with its last, the completion status is written before the decrement. -/
def State.launchEnded (s : State) (d : DieId) (n : Nat) (err : Option (BitVec 7 × BitVec 16)) : State :=
  match s.launchAt d n with
  | none => s
  | some l =>
    let l := { l with
      ended := l.ended + 1
      nerr := l.nerr + (if err.isSome then 1 else 0)
      -- a job lost with its die decides the launch's cause (R350)
      err := if l.err.isSome ∧ err ≠ some (Cause.dieLost.code, 0) then l.err else err }
    if l.ended = l.total then
      let s := s.putStatusRecord d l.record l.err l.nerr
      (s.updDie d fun x => { x with launches := x.launches.del n }).decDone d l.record 1 err.isSome
    else (s.updDie d fun x => { x with launches := x.launches.put n l }).decDone d l.record 1 err.isSome

/-! ## Jobs -/

/-- The profile record of a job (R382). -/
def Job.profile (j : Job) (cause : BitVec 7) : List Byte :=
  let zeros (n : Nat) : List Byte := List.replicate n 0
  let entry (e : BufCount) : List Byte :=
    leBytes 8 (e.bytes % 2 ^ 48 + 2 ^ 48 * e.buf.toNat) ++ leBytes 4 (min e.stall (2 ^ 32 - 1)) ++ zeros 4
  let head := leBytes 8 j.tag.toNat ++ leBytes 4 j.number ++ leBytes 4 (handleOf j.gen j.idx).toNat ++ leBytes 8 j.cyc.toNat ++
    leBytes 4 j.lodev ++ leBytes 4 j.lodcyc ++ leBytes 4 j.oor ++ leBytes 4 j.inval ++ leBytes 4 j.zsub ++ leBytes 4 j.ubused ++
    leBytes 8 cause.toNat ++ leBytes 8 j.bufs.length ++ zeros 64
  let l := head ++ j.bufs.flatMap entry
  l ++ zeros (2048 - l.length)

/-- Writes the profile record into the die's ring (R382). -/
def State.putProfile (s : State) (d : DieId) (l : List Byte) : State :=
  let x := s.die d
  if x.profsize = 0 then s
  else if (x.profhead - x.proftail).toNat = x.profsize.toNat then s.updDie d fun x => { x with profdrop := x.profdrop + 1 }
  else
    let s := s.sysPut d (x.profbase.toNat + 2048 * (x.profhead.toNat % x.profsize.toNat)) l
    s.updDie d fun x => { x with profhead := x.profhead + 1 }

/-- A job's locks end, and the charge of its unbacked lines passes to the standing counts (R230, R233). -/
def State.freeLines (s : State) (d : DieId) (r : Nat) : State :=
  let mine (l : Line) : Bool := l.ub && l.charge == some (d.val, r)
  let s := s.masters.foldl (fun s e =>
    if mine e.2 then
      let asn := e.1 / 3 / 2 ^ 45 / 4096
      s.updDie e.2.home fun x => { x with standing := x.standing.put asn (x.standing.getD asn 0 + 1) }
    else s) s
  let s := { s with masters := s.masters.map fun (e : Nat × Line) => (e.1, { e.2 with
      locks := e.2.locks.filter (· != (d.val, r)), charge := if mine e.2 then none else e.2.charge }) }
  s.updDie d fun x => { x with copies := x.copies.map fun (e : Nat × Copy) => (e.1, { e.2 with locks := e.2.locks.filter (· != (d.val, r)) }) }

/-- A slot's work leaves the core's array, which a SEEDSCAN of it then occupies no longer (R141). -/
def State.leaveCore (s : State) (d : DieId) (c : CoreId) (k : SlotId) : State :=
  let seeds := (s.slotJob? d c k).any fun j => j.seedUntil != 0
  s.updCore d c fun x => { x with
    array := x.array.filter fun e => e.slot != k, arrayDone := if seeds then min x.arrayDone (s.grove d (groveOf c)).cyc else x.arrayDone }

/-- Takes a job out of its slot: its MMA leave the array, the slot is free. -/
def State.vacate (s : State) (d : DieId) (c : CoreId) (k : SlotId) : State :=
  (s.leaveCore d c k).updCore d c fun x => { x with slots := x.slots.set k none, fills := x.fills.filter fun p => p.slot != k }

/-- No slot stays reserved for a job that has ended (R347). -/
def State.unreserve (s : State) (o : DieId) (launch number : Nat) : State :=
  { s with dies := s.dies.map fun x => { x with cores := x.cores.map fun (c : Core) =>
    { c with reserved := c.reserved.map fun k => if k = some (o, launch, number) then none else k } } }

/-- Of what a resident job's windows retain in queues, what `part` picks of each MMA is freed (R318). -/
def State.freeWindows (s : State) (d : DieId) (j : Job) (part : Mma → Mma) : State :=
  match j.home with
  | some (c, k) => s.freeRetained (.eng d c k .m) (j.tiles.toList.flatMap fun t => match t.win with
      | some v => v.retained.map part
      | none => [])
  | none => s

/-- The remote writes of a job that ends are still on their way: releases that come after its end cover them (R268). -/
def State.orphan (s : State) (d : DieId) (r : Nat) : State :=
  let mine (o : RemoteOut) : Bool := o.die == d && o.jrec == r && o.wid.1 != 5
  { s with remoteOut := (s.remoteOut.filter fun o => !mine o || o.write).map fun o =>
    if mine o then { o with jrec := 0, wid := (5, orphanWrite o.n), app := none } else o }

/-- The end of a job (R348): its profile record, what it held, its record, its launch. -/
def State.endJob (s : State) (d : DieId) (r : Nat) (err : Option (BitVec 7 × BitVec 16)) : State :=
  match s.job? d r with
  | none => s
  | some j =>
    let s := s.putProfile d (j.profile ((err.map (·.1)).getD 0))
    let s := s.freeWindows d j id
    let s := j.mqcred.foldl (fun s c => s.returnCredits d c) (s.freeLines d r)
    let s := match j.home with
      | some (c, k) => s.vacate d c k
      | none => s
    let s := s.updDie d fun x => { x with recs := updAt x.recs r fun y => { y with job := none } }
    let s := s.orphan d r
    (s.unreserve j.owner j.launch j.number).launchEnded j.owner j.launch err

/-- The core a job's events name. -/
def Job.eventCore (j : Job) : Nat :=
  match j.home with
  | some (c, _) => c.val
  | none => 0xFF

/-- Has the target acknowledged every remote write of a host launch's job (R273, R348)? -/
def State.hostAcked (s : State) (d : DieId) (r : Nat) (j : Job) : Bool := !j.host || !s.remoteOut.any fun o => o.write && o.die == d && o.jrec == r && o.wid.1 != 5

/-- May the job retire (R36)? -/
def State.mayRetire (s : State) (d : DieId) (r : Nat) : Bool :=
  match s.job? d r with
  | none => false
  | some j =>
    (match j.home with
      | some (c, _) => j.issuing (s.grove d (groveOf c)).cyc
      | none => false) &&
    j.streams.all (fun (st : Stream) => st.atEnd && st.flights == []) &&
    j.chans.all (fun (c : Channel) => c.xfers == [] && c.st != .busy) && j.pending == [] && j.pgmOut == 0 &&
    s.hostAcked d r j

/-- Is anything left in the job's queues (R336)? -/
def Job.leftovers (j : Job) : Bool :=
  j.dqs.any (fun (q : DataQ) => q.bytes != []) || j.tqs.any (fun (q : TileQ) => q.entries != []) || j.tokens.any fun (l : List Tok) => l != []

/-- A job's retirement (R36). -/
def State.retire (s : State) (d : DieId) (r : Nat) : State :=
  match s.job? d r with
  | none => s
  | some j =>
    let s := if j.leftovers then s.notice d .queueLeft j.eventCore (handleOf j.gen j.idx) else s
    s.endJob d r none

/-- JOB_RETIRE (R36). -/
def execJobRetire (d : DieId) (r : RecId) (s : State) : Host.Outcome State Fault Refusal :=
  .next (if s.live d && s.mayRetire d r.val then s.retire d r.val else s)

/-! ## ABORT (R37, R204) -/

/-- ABORT: the job's streams stop, its channels are cancelled. -/
def execAbort (h : Hdr) (g : Guard) (code16 : BitVec 16) (s : State) : Host.Outcome State Fault Refusal :=
  runGuarded (.abort h g code16) h g always (fun s =>
    -- a stop recorded in an earlier cycle wins: C does not issue then; one of this cycle is discarded (R203)
    let now := s.now
    let t : Who := match s.cur with
      | .eng d c k _ => .eng d c k .t
      | w => w
    let s := (List.range 4).foldl (fun (s : State) k => if (s.jb.chan k).isIdle then s else s.cancelChannel t k 0) s
    let s := s.launchWord h.tks (some (now + 1)) [] .fixed
    .ok (s.updJb fun j => { (j.untrap now) with phase := .stopping .abort now, abortCode := code16, pgmStop := [] }, .fall)) s

/-- Must a word in flight end before its aborted or killed job does: a store to acknowledge, a tile-queue transfer in progress? Words that stop
at their step boundary leave nothing outstanding (R37, R42). -/
def Work.mustEnd : Work → Bool
  | .store .. | .index .. | .msend .. | .mrd .. => false
  | .tqin _ _ _ m => m.isSome
  | .tqout _ _ _ l => l
  | .xcancel .. => true
  | wk => wk.isWrite

/-- Words that stop at their next step boundary, or wait for acceptance having changed nothing (R42). -/
def Work.pausable : Work → Bool
  | .mma m _ _ => m.nk != 0
  | .index .. | .chain .. | .seedscan .. | .hold | .load .. | .store .. | .mrd .. | .msend .. | .xcopy .. | .pgm .. => true
  | .tqin _ _ _ m => m.isNone
  | .tqout _ _ _ l => !l
  | _ => false

/-- The first cycle after the step boundary at which a word stopped in cycle t rests: a SEEDSCAN's candidate or an MMA's K-step under way then
is still scored or added (R42). -/
def Flight.rest (f : Flight) (t : Nat) : Nat :=
  match f.work, f.land with
  | .seedscan _ _ _ _ count j _ _, some land =>
    let left := count.toNat - scored land count.toNat j t
    if t ≤ land - 8 * j * left then t else land - 8 * j * (left - 1)
  | .mma m done (some a), _ =>
    let due : Int := a + (m.due done : Int)
    if m.begun done a < t ∧ (t : Int) < due then (due + 1).toNat else t
  | _, _ => t

/-- Is a CHAIN in the middle of a pass, or of its last push (R194)? -/
def Flight.midPass (f : Flight) : Bool :=
  match f.work with
  | .chain .. => f.land.isSome
  | _ => false

/-- Does the earlier word g of its stream, while it rests at a stop of the job, keep word f from ending: in its way as mayAccess sees it, a write
that f releases, an access that f waits for (R250, R251, R268, R275, R277)? -/
def State.keeps (s : State) (w : Who) (g f : Flight) : Bool :=
  decide (g.id < f.id) && (
    g.inWay f f.work.access.1 f.work.access.2 ||
    ((s.ordOf w f.work).isSome && s.ordOf w g.work == s.ordOf w f.work) ||
    (f.work.releases && (g.work.isWrite || g.work.isBack)) ||
    (f.work.acquires && g.work.isOut))

/-- The words of a job stopped in cycle t that rest at cycle now (R42, R248): those at their step boundary, and those that such a word of their
stream keeps from ending, or whose acquired writes rest (R268, R271). They are saved as they stand and go on after the resume (log 116). -/
def State.restSet (s : State) (d : DieId) (c : CoreId) (k : SlotId) (j : Job) (t now : Nat) : List WriteId :=
  let rests (l : List WriteId) (e : Engine) (fs : List Flight) (f : Flight) : Bool :=
    f.halted || (f.work.pausable && !f.midPass && decide (f.rest t ≤ now)) ||
      (fs.any fun g => l.contains (e.idx.val, g.id) && s.keeps (.eng d c k e) g f) ||
      ((f.work.access.2 || f.work.releases) && f.cov.any l.contains)
  let stream (l : List WriteId) (e : Engine) : List WriteId :=
    let fs := (j.streams[e.idx]).flights
    fs.foldl (fun l f => if !l.contains (e.idx.val, f.id) && rests l e fs f then (e.idx.val, f.id) :: l else l) l
  (List.range 5).foldl (fun l _ => [Engine.c, .a, .t, .m, .v].foldl stream l) []

/-- Is every word of a resident job stopped in cycle t over, resting, or one that need not end? -/
def State.wordsOver (s : State) (d : DieId) (j : Job) (t : Nat) (need : Work → Bool) : Bool :=
  match j.home with
  | none => true
  | some (c, k) =>
    let l := s.restSet d c k j t (s.grove d (groveOf c)).cyc
    [Engine.c, .a, .t, .m, .v].all fun e => (j.streams[e.idx]).flights.all fun f => !need f.work || l.contains (e.idx.val, f.id)

/-- Are the outstanding stores of a job stopped in cycle t acknowledged, and its tile-queue transfers over (R37)? -/
def State.storesDone (s : State) (d : DieId) (j : Job) (t : Nat) : Bool := s.wordsOver d j t Work.mustEnd

/-- Has everything the job issued ended, or come to rest (R41, R201)? -/
def State.drained (s : State) (d : DieId) (j : Job) (t : Nat) : Bool := s.wordsOver d j t fun _ => true

/-- ABORT_COMPLETE (R37). -/
def execAbortComplete (d : DieId) (r : RecId) (s : State) : Host.Outcome State Fault Refusal :=
  match s.job? d r.val with
  | none => .next s
  | some j => match j.phase with
    | .stopping .abort t =>
      if !s.live d || !s.storesDone d j t || !s.hostAcked d r.val j then .next s
      else
        let s := s.endJob d r.val (some (Cause.aborted.code, j.abortCode))
        .next (s.errDone d Cause.aborted.code j.eventCore (handleOf j.gen j.idx))
    | _ => .next s

/-! ## KILL's end (R214) -/

/-- A killed job completes (R206, R214): with the fatal cause its trap registers hold, or with KILLED, which an ERRDONE event reports too. -/
def State.killEnd (s : State) (d : DieId) (r : Nat) : State :=
  match s.job? d r with
  | none => s
  | some j =>
    let cause : BitVec 7 := if j.trapCause.getLsbD 7 then j.trapCause.extractLsb' 0 7 else Cause.killed.code
    let t := (s.endJob d r (some (cause, 0))).queueEvent d (eventRecord 3 true cause j.eventCore (handleOf j.gen j.idx))
    if j.trapCause.getLsbD 7 then t else t.errDone d cause j.eventCore (handleOf j.gen j.idx)

/-- KILL_COMPLETE (R214). -/
def execKillComplete (d : DieId) (r : RecId) (s : State) : Host.Outcome State Fault Refusal :=
  match s.job? d r.val with
  | none => .next s
  | some j => match j.phase with
    | .stopping .kill t => .next (if s.live d && s.storesDone d j t && s.hostAcked d r.val j then s.killEnd d r.val else s)
    | _ => .next s

end Sys2Proof.Machine
end

