-- ==== Sys2Proof/Machine/Saves.lean ====
section
/-! DEFINITION. Stopping, saving and restoring jobs: JOB_STALL, JOB_SAVE, JOB_RESTORE, the saved record's layout and its checks
(spec/02_jobs.md R40-R45, spec/09_registers_control.md R201-R203, R206-R209, spec/07_registers_accumulators.md R147, R163). -/

namespace Sys2Proof.Machine
open Sys2Proof

/-- Bytes of a job's saved state (R43). -/
def Kernel.saveBytes (k : Kernel) : Nat := 4096 * (k.sp.foldl (· + ·) 0) + 131072 * k.acc + 64 * k.dq + 65536
/-- Cycles its save and its restore take (R43, R209). -/
def Kernel.saveCycles (k : Kernel) : Nat := cdiv k.saveBytes 1024

/-- A stop of the whole job (R202): stream 7, pc 0; the spec gives it no info. -/
def Job.stopWhole (j : Job) (why : StopKind) (c : Cause) (bare : Word × Word) (now : Nat) : Job :=
  { j with
    undo := if j.running then j.trapRegs else j.undo
    trapCause := BitVec.ofBool c.fatal ++ c.code, trapStream := 7, trapPc := 0, trapInfo0 := bare.1, trapInfo1 := bare.2
    phase := .stopping why now }

/-- A SUSPEND or a pre-emption that came before the job ran stops it as it starts (R214, R347). -/
def Job.stopAtStart (j : Job) (bare : Word × Word) (now : Nat) : Job :=
  let j' := { j with suspendAsked := false, preemptAsked := false }
  if j.suspendAsked then j'.stopWhole .suspend .suspendReq bare now
  else if j.preemptAsked then j'.stopWhole .preempt .preempt bare now
  else j

/-- JOB_STALL (R40): the watchdog. A cycle without progress is known to be one when it is over: the stop is recorded in it, and wins over a
pre-emption of that cycle (R38). -/
def execJobStall (d : DieId) (r : RecId) (s : State) : Host.Outcome State Fault Refusal :=
  let limit := (s.die d).wdog.toNat
  match s.job? d r.val with
  | none => .next s
  | some j => match j.home with
    | none => .next s
    | some (c, k) =>
      let past := (s.grove d (groveOf c)).cyc - 1
      if !s.live d || !(j.running || j.preemptedNow past) || limit == 0 || decide (j.stall ≤ limit) then .next s
      else
        let halt (j : Job) : Job := { (j.trap 7 0 { cause := .jobStall } (s.bare (jobSite d r.val)) past) with stall := 0 }
        .next ((s.dropPreempt (.eng d c k .c) past).updJob d r.val halt)

/-! ## Saving -/

/-- Brings the SEEDSCANs of a stopped job to their boundary. -/
def State.restSeeds (s : State) (d : DieId) (c : CoreId) (k : SlotId) (t : Nat) : State :=
  let w : Who := .eng d c k .m
  let g := groveOf c
  let now := (s.grove d g).cyc
  match s.stream? w with
  | none => s
  | some st => st.flights.foldl (fun s f => match f.work with
    | .seedscan .. =>
      let at_ (n : Nat) (s : State) : State := s.updGrove d g fun y => { y with cyc := n }
      at_ now ((at_ (f.rest t) s).seedProgress w f)
    | _ => s) s

/-- The armed tiles are checked at a save; a mismatch notes an error in the window (R163). A window loses its sample (R393). -/
def Job.checkTiles (j : Job) : Job :=
  { j with tiles := j.tiles.map fun (t : Tile) =>
      let bad := t.armed && decide (0 < t.mismatches j.abfttol)
      { t with win := t.win.map fun v => { v with err := v.err || bad, sampled := false, log := [], steps := [] } } }

/-- Does the saved state hold an MMA that read its core's column (R147)? -/
def Job.readsColumn (j : Job) : Bool :=
  ((j.streams[(3 : Fin 5)]).flights.any fun f => match f.work with
    | .mma m .. => m.dirs != []
    | _ => false) ||
  j.tiles.any fun (t : Tile) => match t.win with
    | some v => v.retained.any fun m => m.dirs != []
    | none => false

/-- Has a port of core c accepted appends for the job that it has still to write (R218, R322)? -/
def State.appendsDue (s : State) (d : DieId) (c : CoreId) (r : Nat) : Bool :=
  (s.core d c).mqs.any fun (m : Mq) => s.mqOwner d c m == some r && m.appends.any fun a => a.tag.isSome

/-- Is an append with the owner tag of a record's residency still on its way (R218)? -/
def State.tagFlies (s : State) (d : DieId) (r : Nat) : Bool :=
  match (s.die d).recs[r]? with
  | some y => (s.die d).cores.any fun (x : Core) => x.mqs.any fun (m : Mq) => m.appends.any fun a => a.tag == some (BitVec.ofNat 7 r ++ y.resid)
  | none => false

/-- The event a finished save queues (R201, R206, R214). -/
def saveEvent (why : StopKind) (j : Job) : Option Word :=
  let ev (kind : Nat) : Word := eventRecord kind (j.trapCause.getLsbD 7) (j.trapCause.extractLsb' 0 7) j.eventCore (handleOf j.gen j.idx)
  match why with
  | .trap => some (ev 1)
  | .suspend => some (ev 2)
  | _ => none

/-- JOB_SAVE (R43, R201): a stopped job's words come to rest and its save begins; when its cycles have passed the slot is free and the
event is queued (log 55). -/
def execJobSave (d : DieId) (r : RecId) (s : State) : Host.Outcome State Fault Refusal :=
  match s.job? d r.val with
  | none => .next s
  | some j => match j.home with
    | none => .next s
    | some (c, k) =>
      let now := (s.grove d (groveOf c)).cyc
      if !s.live d then .next s
      else match j.phase with
        | .stopping why t =>
          -- the streams may still issue in the cycle of the stop (R201): the save begins after it
          if why == .kill || why == .abort || now ≤ t || !s.drained d j t || s.appendsDue d c r.val then .next s
          else
            let s := (s.restSeeds d c k t).leaveCore d c k
            -- the save's cycles begin after the one in which the last word came to rest (R201)
            let first := max now (j.ended + 1)
            .next (s.updJob d r.val fun j => { j.checkTiles with phase := .saving why (first + j.kernel.saveCycles - 1), stopped := t })
        | .saving why done =>
          if now < done + 1 || s.appendsDue d c r.val then .next s
          else
            let s := (s.freeWindows d j Mma.inGrove).vacate d c k
            let time := s.time
            let put (j : Job) : Job := { j with
              phase := .saved, home := none, banks := [], since := time, column := if j.readsColumn then some c else none
              tiles := j.tiles.map fun t => { t with win := t.win.map Window.moved } }
            let s := (s.updJob d r.val put).touchArea d r.val
            .next (match saveEvent why j with
              | some ev => s.queueEvent d ev
              | none => s)
        | _ => .next s

/-! ## The saved record (R208) -/

/-- The resume count of a stopped long word, with its mark (R42, R208). -/
def Work.resumeCount (wk : Work) (f : Flight) (stopped : Nat) : Option Nat :=
  match wk with
  | .mma _ done _ => some done
  | .index _ _ _ _ _ _ _ done _ => some done
  | .chain _ _ _ _ _ _ rows slots _ _ => some (rows + 2 ^ 32 * slots)
  | .seedscan _ _ _ _ _ _ _ done => some done
  | .hold => some (f.land.getD 0 - stopped)
  | .load _ _ _ _ _ _ done => some done
  | .store _ _ _ _ _ _ done => some done
  | .mrd _ _ _ _ _ _ done => some done
  | .msend _ _ _ _ popped => some popped.length
  | .xcopy .. | .pgm .. | .tqin .. | .tqout .. => some 0
  | _ => none

/-- The 8 bytes at an offset of a stream's block (R208). -/
def Stream.ctxWord (st : Stream) (stopped off : Nat) : Word :=
  if off < 0x100 then st.x[off / 8]?.getD 0
  else if off = 0x100 then BitVec.ofNat 64 ((List.range 8).foldl (fun n i => if st.p[i]?.getD false then n + 2 ^ i else n) 0)
  else if off < 0x128 then st.b[(off - 0x108) / 8]?.getD 0
  else if off < 0x168 then
    let l := st.l[(off - 0x128) / 16]?.getD {}
    if off % 16 = 0x8 then l.last ++ l.first ++ l.count else zx64 (BitVec.ofBool l.active)
  else if off = 0x168 then st.pc
  else if off = 0x170 then BitVec.ofNat 64 (min 1023 ((stopped : Int) - st.last).toNat)
  else if off = 0x178 then
    match st.flights.findSome? fun f => f.work.resumeCount f stopped with
    | some n => BitVec.ofNat 64 (2 ^ 63 + n % 2 ^ 63)
    | none => 0
  else if off = 0x180 then zx64 st.fstat
  else if off = 0x188 then zx64 st.rmode
  else 0

/-- The bits of a word of a stream's block that stand for something; the others are reserved. -/
def streamMask (off : Nat) : Nat :=
  if off < 0x100 then 2 ^ 64 - 1
  else if off = 0x100 then 0xFF
  else if off < 0x128 then 2 ^ 64 - 1
  else if off < 0x168 then (if off % 16 = 0x8 then 2 ^ 64 - 1 else 1)
  else if off = 0x168 then 2 ^ 64 - 1
  else if off = 0x170 then 0x3FF
  else if off = 0x178 then 2 ^ 64 - 1
  else if off = 0x180 then 0x1F
  else if off = 0x188 then 7
  else 0

/-- Changes a stream by a write of 8 bytes in its block (R209). The resume count is not one the supervisor may move: it stays (log 15);
a stream that waits at END still waits behind an edited pc (log 129). -/
def Stream.putCtx (st : Stream) (stopped off : Nat) (v : Word) : Stream :=
  if off = 0 then st
  else if off < 0x100 then { st with x := st.x.setIfInBounds (off / 8) v }
  else if off = 0x100 then { st with p := Vector.ofFn fun i => i.val == 0 || v.getLsbD i.val }
  else if off < 0x128 then { st with b := st.b.setIfInBounds ((off - 0x108) / 8) v }
  else if off < 0x168 then
    { st with l := updAt st.l ((off - 0x128) / 16) fun l =>
        if off % 16 = 0x8 then { l with count := v.extractLsb' 0 32, first := v.extractLsb' 32 16, last := v.extractLsb' 48 16 }
        else { l with active := v.getLsbD 0 } }
  else if off = 0x168 then { st with pc := v }
  else if off = 0x170 then { st with last := (stopped : Int) - bits v 9 0 }
  else if off = 0x180 then { st with fstat := v.extractLsb' 0 5 }
  else if off = 0x188 then { st with rmode := v.extractLsb' 0 3 }
  else st

/-- The bits of a slot register that are not reserved (R198, R200). -/
def slotRegMask (n : Nat) : Nat :=
  if n = 0x010 then 1 else if n = 0x011 then 2 ^ 32 - 1 else if n = 0x012 ∨ n = 0x013 then 2 ^ 24 - 1
  else if n = 0x014 then 2 ^ 64 - 1 else if n = 0x015 then 0xFF070000FFFFFFFF
  else if n = 0x018 then 0xFF else if n = 0x019 then 7 else if 0x01A ≤ n ∧ n ≤ 0x01C then 2 ^ 64 - 1 else 0

/-- A slot register written through a slot window or a saved record: what is read-only there is left (R213). -/
def Job.putSlotReg (j : Job) (n : Nat) (v : Word) : Job :=
  if n = 0x010 then { j with accctl := v.getLsbD 0 }
  else if n = 0x011 then { j with abfttol := if v.extractLsb' 0 32 = 0x80000000 then 0 else v.extractLsb' 0 32 }
  else if n = 0x012 then { j with llcq := v.extractLsb' 0 24 }
  else if n = 0x013 then { j with ubres := v.extractLsb' 0 24 }
  else if n = 0x018 then { j with trapCause := v.extractLsb' 0 8 }
  else if n = 0x019 then { j with trapStream := v.extractLsb' 0 3 }
  else if n = 0x01A then { j with trapPc := v }
  else if n = 0x01B then { j with trapInfo0 := v }
  else if n = 0x01C then { j with trapInfo1 := v }
  else j

/-- The area whose layout is not architected, and the place of its CRC (R208). -/
def ctxOpen (off : Nat) : Bool := decide (0x2000 ≤ off ∧ off < 0xFFF8)

/-- What the save wrote at a place of the area that is not architected: a free value, one per save (log 15). -/
def Job.openWord (j : Job) (off : Nat) : Word := BitVec.ofNat 64 (Config.freeNat j.since (2 ^ 20 + 2 ^ 16 * j.idx + off))

/-- The non-architected area's bytes as the save wrote them, or as they now stand. -/
def Job.openBytes (j : Job) (edited : Bool) : List Byte :=
  (List.range ((0xFFF8 - 0x2000) / 8)).flatMap fun i =>
    let off := 0x2000 + 8 * i
    leBytes 8 (if edited then j.edits.getD off (j.openWord off) else j.openWord off).toNat

/-- The CRC word at 0xFFF8 as the save wrote it. -/
def Job.ctxCrc (j : Job) : Word := zx64 (crc32c (j.openBytes false))

/-- The architected bits of the 8 bytes at an offset of the state area. -/
def ctxMask (off : Nat) : Nat :=
  if off < 0x1400 then streamMask (off % 0x400)
  else if off < 0x1468 then slotRegMask (0x010 + (off - 0x1400) / 8)
  else if off < 0x2000 then 0
  else 2 ^ 64 - 1

/-- The bytes of a saved tile: its rows in order. -/
def Tile.saveWord (t : Tile) (off : Nat) : Word := ((t.rows[off / 4096]?.getD 0)).extractLsb' (8 * (off % 4096)) 64

/-- The queue and the byte, counted from its oldest, at a place of the declared data-queue bytes: the queues in the order of their numbers, each with
its capacity (R208; log 15). -/
def dqPlace : List Word → Nat → Nat → Option (Nat × Nat)
  | [], _, _ => none
  | c :: cs, q, o =>
    let n := if qValid c then qCap c else 0
    if o < n then some (q, o) else dqPlace cs (q + 1) (o - n)

/-- Eight of the declared data-queue bytes: what a queue holds there, else what a SYSWR left, else a free value (log 15). -/
def Job.dqWord (j : Job) (o off : Nat) : Word :=
  let rest := leBytes 8 (j.edits.getD off (j.openWord off)).toNat
  match dqPlace j.kernel.qcfg 0 o with
  | none => j.edits.getD off (j.openWord off)
  | some (q, i) => BitVec.ofNat 64 (leNat (rest.zipIdx.map fun p => match (j.dq q).bytes[i + p.2]? with
      | some b => b.b
      | none => p.1))

/-- The same bytes written (R209). -/
def Job.putDqWord (j : Job) (o off : Nat) (v : Word) : Job :=
  let j := { j with edits := j.edits.put off v }
  match dqPlace j.kernel.qcfg 0 o with
  | none => j
  | some (q, i) =>
    let put (p : QByte × Nat) : QByte := if i ≤ p.2 ∧ p.2 < i + 8 then { p.1 with b := (leBytes 8 v.toNat).getD (p.2 - i) 0 } else p.1
    j.updDq q fun x => { x with bytes := x.bytes.zipIdx.map put }

/-- The 8 bytes at an offset of a job's saved record (R208). -/
def Job.saveWord (j : Job) (d : DieId) (off : Nat) : Word :=
  let arch (v : Word) : Word := v ||| (j.edits.getD off 0)
  let sp := j.spBytes
  let tiles := 131072 * j.kernel.acc
  if off < 0x1400 then arch ((j.streams[off / 0x400]?.getD {}).ctxWord j.stopped (off % 0x400))
  else if off < 0x1468 then arch (j.slotReg d (0x010 + (off - 0x1400) / 8))
  else if off < 0x2000 then arch 0
  else if off < 0xFFF8 then j.edits.getD off (j.openWord off)
  else if off < 0x10000 then j.edits.getD off j.ctxCrc
  else if off < 0x10000 + sp then BitVec.ofNat 64 (leNat ((j.spRead (off - 0x10000) 8).map (·.1)))
  else if off < 0x10000 + sp + tiles then
    let o := off - 0x10000 - sp
    (j.tiles[o / 131072]?.getD {}).saveWord (o % 131072)
  else if off < j.kernel.saveBytes then j.dqWord (off - 0x10000 - sp - tiles) off
  else 0

/-- A write of 8 bytes in a saved record (R209): the fields change; what is written into reserved bits or into the area that is not
architected is kept for the check. -/
def Job.putSave (j : Job) (off : Nat) (v : Word) : Job :=
  let keep (j : Job) : Job :=
    let r := v &&& BitVec.ofNat 64 (2 ^ 64 - 1 - ctxMask off)
    { j with edits := if r = 0 then j.edits.del off else j.edits.put off r }
  let sp := j.spBytes
  let tiles := 131072 * j.kernel.acc
  if off < 0x1400 then keep { j with streams := updAt j.streams (off / 0x400) fun st => st.putCtx j.stopped (off % 0x400) v }
  else if off < 0x1468 then keep (if off = 0x1420 then { j with cyc := v } else j.putSlotReg (0x010 + (off - 0x1400) / 8) v)
  else if off < 0x2000 then keep j
  else if off < 0x10000 then { j with edits := j.edits.put off v }
  else if off < 0x10000 + sp then j.spWrite (off - 0x10000) ((leBytes 8 v.toNat).map fun b => (b, false))
  else if off < 0x10000 + sp + tiles then
    let o := off - 0x10000 - sp
    { j with tiles := updAt j.tiles (o / 131072) fun t =>
        { t with rows := updAt t.rows (o % 131072 / 4096) fun b => setBits b (8 * (o % 4096)) 64 v.toNat } }
  else if off < j.kernel.saveBytes then j.putDqWord (off - 0x10000 - sp - tiles) off v
  else j

/-- The checks of R209: the first failing offset. -/
def Job.ctxBad (j : Job) : Option Nat :=
  let block (e : Nat) : Option Nat :=
    match j.streams[e]? with
    | none => none
    | some st =>
      if (j.kernel.progs[e]?.getD []).length ≤ st.pc.toNat then some (0x400 * e + 0x168)
      else match (List.range 4).find? fun i => match st.l[i]? with
          | some l => l.active && decide (l.last < l.first)
          | none => false with
        | some i => some (0x400 * e + 0x128 + 16 * i)
        | none => if 6 ≤ st.rmode.toNat then some (0x400 * e + 0x188) else none
  match (List.range 5).findSome? block with
  | some o => some o
  | none =>
    if !tolOk j.abfttol then some 0x1408
    else match j.edits.find? fun e => decide (e.1 < 0x2000) with
      | some e => some e.1
      | none =>
        if (j.edits.any fun e => decide (0x2000 ≤ e.1 ∧ e.1 < 0x10000)) && zx64 (crc32c (j.openBytes true)) != j.edits.getD 0xFFF8 j.ctxCrc then some 0xFFF8
        else none

/-! ## Restoring (R45, R209) -/

/-- A cycle of the saved times, as it stands after a resume. -/
def movedBy (delta : Int) (t : Nat) : Nat := ((t : Int) + delta).toNat

/-- A word in flight after a resume at cycle q: it goes on or starts again (R202); an MMA goes through the array's start again. -/
def Flight.resume (delta : Int) (q : Nat) (f : Flight) : Flight :=
  let g := { f with halted := false, issued := movedBy delta f.issued, land := f.land.map (movedBy delta) }
  match f.work with
  | .mma m done _ => { g with issued := q, work := .mma m done none }
  | .tend z r done _ res => { g with work := .tend z r done none (movedBy delta res) }
  | _ => { g with page := none }

/-- A stream after a resume (R45): its elapsed count goes on from at most 1,023 (R41); one at END still waits (log 129). -/
def Stream.resume (delta : Int) (stopped q : Nat) (st : Stream) : Stream :=
  { st with
    last := (q : Int) - min 1023 ((stopped : Int) - st.last)
    flagged := []
    flights := st.flights.map (Flight.resume delta q)
    waits := none
    gate := movedBy delta st.gate }

/-- A job running again from cycle q (R45): tokens, queue contents and results stand as they were saved; a channel stopped by an error it
has delivered restarts from its write pointer (R330). -/
def Job.resume (j : Job) (q time : Nat) : Job :=
  let delta : Int := (q : Int) - j.stopped
  let before (t : Nat) : Nat := min (movedBy delta t) (q - 1)
  { j with
    phase := .running, placed := time, trapCause := 0, ended := 0, column := none, asked := false
    streams := j.streams.map (Stream.resume delta j.stopped q)
    tokens := j.tokens.map fun (l : List Tok) => l.map fun t => { t with sent := before t.sent }
    dqs := j.dqs.map fun (x : DataQ) => { x with bytes := x.bytes.map fun b => { b with land := b.land.map before } }
    tqs := j.tqs.map fun (x : TileQ) => { x with entries := x.entries.map fun e => { e with ready := min (movedBy delta e.ready) q, taken := 0, rank := 0 } }
    tiles := j.tiles.map fun (t : Tile) => if t.armed then t.rebuild else t
    -- bytes past WP are fetched and written again (R44)
    chans := j.chans.map fun (x : Channel) => { (if x.st = .error ∧ x.stop.isNone then { x with st := .busy, cause := 0 } else x) with flying := 0 } }

/-- A resumed job's MMA and replays take their places in the core's array again. -/
def Job.arrayWork (j : Job) (k : SlotId) : List ArrayEntry :=
  (j.streams[(3 : Fin 5)]).flights.filterMap fun f => match f.work with
    | .mma .. => some { slot := k, id := f.id }
    | .tend _ (some _) .. => some { slot := k, id := f.id }
    | _ => none

/-- The array's first entry, where it has started and its next K-step has not begun, begins that no sooner than a cycle: a SEEDSCAN that the other
slot resumes occupies the array until then (R141). -/
def State.holdArray (s : State) (d : DieId) (c : CoreId) (t : Nat) : State :=
  match (s.core d c).array with
  | [] => s
  | e :: _ =>
    let w : Who := .eng d c e.slot .m
    let later (m : Mma) (done : Nat) (a : Int) : Option Int := some (if (s.timeOf w : Int) ≤ m.begun done a then m.heldTo done a t else a)
    let put (wk : Work) : State := s.updStream w fun st => st.updFlight e.id fun y => { y with work := wk }
    match s.flight? w e.id with
    | none => s
    | some f => match f.work with
      | .mma m done (some a) => put (.mma m done (later m done a))
      | .tend z (some i) done (some a) result =>
        (match (s.jobOf? w).bind fun j => (j.tile z).win.bind fun v => (v.retained.filter fun m => m.nk != 0)[i]? with
        | some m => put (.tend z (some i) done (later m done a) result)
        | none => s)
      | _ => s

/-- A restore that cannot go on (R209, R387): the job is saved again with the cause, and an event says so. -/
def State.restoreFails (s : State) (d : DieId) (r : Nat) (j : Job) (c : CoreId) (k : SlotId) (cause : Cause) (off : Nat) : State :=
  let bad (j : Job) : Job := { j with
    phase := .saved, home := none, banks := [], trapInfo0 := BitVec.ofNat 64 off, asked := false, suspendAsked := false, preemptAsked := false
    trapCause := BitVec.ofBool true ++ cause.code }
  ((s.vacate d c k).updJob d r bad).queueEvent d (eventRecord 1 true cause.code 0xFF (handleOf j.gen j.idx))

/-- A job that was to resume on a core that is quarantined now: it stays saved, with PREEMPT, and resumes elsewhere (R397). -/
def State.unseat (s : State) (d : DieId) (r : Nat) (c : CoreId) (k : SlotId) : State :=
  (s.vacate d c k).updJob d r fun j => { j with phase := .saved, home := none, banks := [], preemptAsked := false, trapCause := BitVec.ofBool false ++ Cause.preempt.code }

/-- JOB_RESTORE (R45, R209): the state area is checked and its restore begins; when its cycles have passed the streams start together. -/
def execJobRestore (d : DieId) (r : RecId) (s : State) : Host.Outcome State Fault Refusal :=
  match s.job? d r.val with
  | none => .next s
  | some j => match j.home with
    | none => .next s
    | some (c, k) =>
      let now := (s.grove d (groveOf c)).cyc
      if !s.live d then .next s
      else if (s.core d c).quarantined && !j.running && !j.suspendAsked && (match j.phase with
          | .resuming | .restoring _ => true
          | _ => false) then .next (s.unseat d r.val c k)
      else match j.phase with
        | .resuming =>
          (match j.ctxBad with
          | some off => .next (s.restoreFails d r.val j c k .ctxBad off)
          | none =>
            let start := now + j.kernel.saveCycles
            .next ((s.touchArea d r.val).updJob d r.val fun j => { j with phase := .restoring start, edits := [] }))
        | .restoring done =>
          if now < done || s.tagFlies d r.val then .next s
          else
            let time := s.time
            let bare := s.bare (jobSite d r.val)
            let from_ := s.foreign
            let s := s.updJob d r.val fun j => ((j.resume now time).acquireAll from_).stopAtStart bare now
            -- the resume is an acquire at DIE (R273); the array takes up its work
            let until_ := match s.job? d r.val with
              | some j => j.seedUntil
              | none => 0
            .next ((s.holdArray d c until_).updCore d c fun x => { x.dropL1s with array := x.array ++ j.arrayWork k, arrayDone := max x.arrayDone until_ })
        | _ => .next s

end Sys2Proof.Machine
end

