-- ==== Sys2Proof/Machine/Distribute.lean ====
section
/-! DEFINITION. The distributor: descriptors, LAUNCH_CHECK, LAUNCH_READY, candidates, DISPATCH, PREEMPT, PRIORITY_AGE, JOB_START, DIE_LOSS
(spec/02_jobs.md R23-R29, spec/15_queues_launch.md R339-R350). -/

namespace Sys2Proof.Machine
open Sys2Proof

/-! ## Descriptors (R24, R339) -/

/-- The bits of the 8 bytes at an offset below 0x100 of a descriptor that are not reserved. -/
def descMask (off : Nat) : Nat :=
  if off = 0 then 1
  else if off = 8 then 0x1FFF
  else if off < 0x60 then (if off % 16 = 0 then 2 ^ 64 - 1 else 0x1FFF)
  else if off < 0xA0 then 0xE0000007FFFFFFFF
  else if off = 0xA0 then 0x1FFC777F7F7F7F
  else if off = 0xA8 then 0xFFFFFFFF
  else if off = 0xB0 then 0x00FFFFFF00FFFFFF
  else 0

/-- Level i of a descriptor. -/
def descLevel (img : List Byte) (i : Nat) : Option Level :=
  let v := recWord img (0x60 + 8 * i)
  if v.getLsbD 63 then some { kind := v.extractLsb' 61 2, rank := v.extractLsb' 32 3, extent := v.extractLsb' 0 32 } else none

/-- A descriptor's fields, without its programs and argument block. -/
def descOf (img : List Byte) : Kernel :=
  let a := recWord img 0xA0
  { reissue := (recWord img 0).getLsbD 0
    levels := (List.range 8).map (descLevel img)
    sp := [bits a 6 0, bits a 14 8, bits a 22 16, bits a 30 24]
    acc := bits a 34 32, chan := bits a 38 36, dq := bits a 52 42
    tqmask := (recWord img 0xA8).extractLsb' 0 32
    ubres := bits (recWord img 0xB0) 23 0, llcq := bits (recWord img 0xB0) 55 32
    qcfg := (List.range 16).map fun n => recWord img (0x100 + 8 * n)
    xspec := (List.range 16).map fun n => BitVec.ofNat 128 (leNat ((img.drop (0x180 + 16 * n)).take 16))
    tensors := (List.range 64).map fun n => BitVec.ofNat 256 (leNat ((img.drop (0x280 + 32 * n)).take 32)) }

/-- The levels the distributor enumerates, the fastest first: CORES by rank, then DIES by rank; with their places in the table (R25). -/
def Kernel.spatial (k : Kernel) : List (Nat × Level) :=
  let at_ (kind rank : Nat) : List (Nat × Level) := (k.levels.zipIdx).filterMap fun (l, i) => match l with
    | some l => if l.kind.toNat = kind ∧ l.rank.toNat = rank then some (i, l) else none
    | none => none
  (List.range 8).flatMap (at_ 1) ++ (List.range 8).flatMap (at_ 2)

/-- The number of jobs of a launch (R25). -/
def Kernel.jobs (k : Kernel) : Nat := k.spatial.foldl (fun n l => n * l.2.extent.toNat) 1

/-- Can the job count be formed: kinds defined, extents not 0, ranks distinct, at most 2^32 jobs (R24)? -/
def Kernel.countable (k : Kernel) : Bool :=
  let ls := k.levels.filterMap id
  ls.all (fun l => l.kind != 3 && l.extent != 0) && decide ((ls.map (·.rank)).Nodup) && decide (k.jobs ≤ 2 ^ 32)

/-- The lowest bank group the kernel declares, and its bytes. -/
def Kernel.argBytes (k : Kernel) : Nat := 4096 * ((k.sp.find? fun n => n != 0).getD 0)

/-- The checks of R24, R306 and R339 on a descriptor's own fields. -/
def descBad (img : List Byte) : Bool :=
  let k := descOf img
  let arglen := (recWord img 8).toNat
  let plen (e : Nat) : Nat := bits (recWord img (0x18 + 16 * e)) 12 0
  ((List.range 32).any fun i => recWord img (8 * i) &&& BitVec.ofNat 64 (2 ^ 64 - 1 - descMask (8 * i)) != 0) ||
    !k.countable ||
    ((List.range 5).any fun e => plen e == 0 || decide (4096 < plen e) || (recWord img (0x10 + 16 * e)).toNat % 8 != 0) ||
    decide (4096 < arglen) || decide (k.argBytes < arglen) || (k.sp.any fun n => decide (64 < n)) || decide (4 < k.acc) || decide (4 < k.chan) ||
    decide (1024 < k.dq) || decide (k.dq < (k.qcfg.map fun c => if qValid c then bits c 52 42 else 0).foldl (· + ·) 0)

/-- What reading a launch's kernel gives: the kernel; or its job count where that can be formed. -/
def State.readKernel (s : State) (d : DieId) (r : LaunchRec) : Except (Option Nat) Kernel × State :=
  let whole (m : Option (List (Byte × Bool) × State)) : Option (List Byte × State) :=
    m.bind fun x => if x.1.any (·.2) then none else some (x.1.map (·.1), x.2)
  match whole (s.distRead d r.asn r.desc.toNat 2688) with
  | none => (.error none, s)
  | some (img, s) =>
    let k := descOf img
    let count := if k.countable then some k.jobs else none
    if descBad img then (.error count, s)
    else
      let progs := (List.range 5).foldl (fun (m : Option (List (List Word) × State)) e =>
        m.bind fun (ps, s) =>
          (whole (s.distRead d r.asn (recWord img (0x10 + 16 * e)).toNat (8 * bits (recWord img (0x18 + 16 * e)) 12 0))).map fun (l, s) =>
            (ps ++ [(List.range (l.length / 8)).map fun i => recWord l (8 * i)], s)) (some ([], s))
      match progs with
      | none => (.error count, s)
      | some (ps, s) =>
        let n := (recWord img 8).toNat
        match (if n = 0 then some ([], s) else whole (s.distRead d r.asn r.arg.toNat n)) with
        | none => (.error count, s)
        | some (args, s) => (.ok { k with progs := ps, args := args }, s)

/-! ## LAUNCH_CHECK and LAUNCH_READY (R342) -/

/-- A launch that completes without running a job, with DESC_BAD (R24, R348). -/
def State.launchRefused (s : State) (d : DieId) (r : LaunchRec) (count : Option Nat) : State :=
  let n := count.getD 1
  let s := s.putStatusRecord d r (some (Cause.descBad.code, 0)) n
  (s.decDone d r n true).errDone d Cause.descBad.code 0xFF 0

/-- LAUNCH_CHECK: the head of a queue takes a table entry and has its descriptor, programs and arguments read and checked. -/
def execLaunchCheck (d : DieId) (q : Fin 16) (s : State) : Host.Outcome State Fault Refusal :=
  let l := s.lq d q
  match l.recs, l.entry with
  | r :: rest, none =>
    let table := (s.die d).launches
    if !s.live d || !l.enable || decide (256 ≤ table.length) then .next s
    else match (List.range 256).find? fun n => (table.get? n).isNone with
      | none => .next s
      | some n =>
        (match s.readKernel d r with
        | (.error count, s) => .next ((s.updLq d q fun l => { l with recs := rest }).launchRefused d r count)
        | (.ok k, s) =>
          let e : Launch := { record := r, kernel := k, lq := q, ready := if r.wen then none else some s.time, eff := r.base, total := k.jobs }
          let s := s.updDie d fun x => { x with launches := x.launches.put n e }
          .next (s.updLq d q fun l => { l with entry := some n }))
  | _, _ => .next s

/-- LAUNCH_READY: a checked head whose WAITDC reads zero becomes ready. -/
def execLaunchReady (d : DieId) (q : Fin 16) (s : State) : Host.Outcome State Fault Refusal :=
  match (s.lq d q).entry with
  | none => .next s
  | some n => match s.launchAt d n with
    | none => .next s
    | some l =>
      if !s.live d || l.ready.isSome || (l.record.wen && (s.dc d l.record.waitdc.toNat).value != 0) then .next s
      else .next (s.updDie d fun x => { x with launches := x.launches.put n { l with ready := some s.time } })

/-! ## Candidates (R345) -/

/-- What a candidate is: the head of a queue with its table entry, a forwarded job, a saved job. -/
inductive CandKind where
  | head (q : Fin 16) (n : Nat)
  | fwd (f : Forward)
  | saved (r : Nat)
  deriving DecidableEq, Repr

/-- A candidate: its effective priority, when its wait began, its numbers, what it needs. -/
structure Cand where
  kind : CandKind
  eff : Nat
  since : Nat
  /-- its queue's number, and a saved job's record -/
  num : Nat
  record : Nat := 0
  /-- the launch and job it stands for -/
  key : DieId × Nat × Nat
  kernel : Kernel
  /-- the dies it may be placed on, lowest first -/
  dies : List DieId
  /-- the core it is bound to (R147) -/
  column : Option CoreId := none
  deriving DecidableEq, Repr

/-- Effective priority: the base, one higher for each whole 1 ms waited, up to 7 (R345). -/
def aged (base since now : Nat) : Nat := min 7 (base + (now - since) / msUnits)

/-- The dies of a mask. -/
def maskDies (m : BitVec 4) : List DieId := (List.finRange 4).filter fun d => m.getLsbD d.val

/-- Has the loop table a DIES level? -/
def Kernel.byDie (k : Kernel) : Bool := k.spatial.any fun l => l.2.kind == 2

/-- A job's combined DIES index (R26). -/
def Kernel.dieIndex (k : Kernel) (n : Nat) : Nat :=
  n / (k.spatial.foldl (fun m l => if l.2.kind = 1 then m * l.2.extent.toNat else m) 1)

/-- The dies a job may be placed on (R26); where its die is lost, those R350 gives it. -/
def State.jobDies (s : State) (r : LaunchRec) (k : Kernel) (n : Nat) : List DieId :=
  let all := maskDies r.dies
  let alive := all.filter s.live
  if !k.byDie then alive
  else
    let i := k.dieIndex n
    match all[i % max 1 all.length]? with
    | none => []
    | some t => if s.live t then [t] else if k.reissue then (alive[i % max 1 alive.length]?).toList else []

/-- The candidates of a die (R345). -/
def State.candidates (s : State) (d : DieId) : List Cand :=
  let x := s.die d
  let heads := (List.finRange 16).filterMap fun q =>
    let l := x.lqs[q]
    match l.entry with
    | none => none
    | some n => match x.launches.get? n with
      | none => none
      | some e => match e.ready with
        | none => none
        | some t => if !l.enable || decide (e.total ≤ e.next) then none else
          some { kind := .head q n, eff := aged e.record.base t s.time, since := t, num := q.val, key := (d, n, e.next), kernel := e.kernel,
                 dies := s.jobDies e.record e.kernel e.next : Cand }
  let fwds := x.forwards.filterMap fun f =>
    match s.launchAt f.owner f.launch with
    | none => none
    | some e => some { kind := .fwd f, eff := aged e.record.base f.since s.time, since := f.since, num := e.lq.val, key := (f.owner, f.launch, f.job),
                       kernel := e.kernel
                       -- a job sent here by its DIES index runs here, unless no die is left for it (R26, R350)
                       dies := if e.kernel.byDie && s.jobDies e.record e.kernel f.job != [] then [d] else s.jobDies e.record e.kernel f.job : Cand }
  let saved := (List.range 128).filterMap fun r =>
    match s.job? d r with
    | none => none
    | some j =>
      let waits : Bool := j.home.isNone && (match j.phase with
        | .saved => j.trapCause == BitVec.ofBool false ++ Cause.preempt.code
        | .resuming => true
        | _ => false)
      if waits then some { kind := .saved r, eff := aged j.base j.since s.time, since := j.since
                           num := ((s.launchAt j.owner j.launch).map fun l => l.lq.val).getD 0, record := r, key := (j.owner, j.launch, j.number),
                           kernel := j.kernel, dies := [d], column := j.column : Cand } else none
  heads ++ fwds ++ saved

/-- Is the candidate a saved job? -/
def Cand.isSaved (c : Cand) : Bool :=
  match c.kind with
  | .saved _ => true
  | _ => false

/-- The order in which candidates are taken (R345). -/
def Cand.before (a b : Cand) : Bool :=
  if a.eff ≠ b.eff then decide (b.eff < a.eff)
  else if a.isSaved != b.isSaved then a.isSaved
  else if a.since ≠ b.since then decide (a.since < b.since)
  else if a.num ≠ b.num then decide (a.num < b.num)
  else decide (a.record < b.record)

/-- Puts a candidate in its place among ordered ones. -/
def insertCand (c : Cand) : List Cand → List Cand
  | [] => [c]
  | b :: r => if c.before b then c :: b :: r else b :: insertCand c r

/-! ## Places (R27, R346) -/

/-- Capacity of a core: scratchpad units per group, tiles, data-queue units (R15, R27). The copy channels are each slot's own. -/
def fits (a b : Kernel) : Bool :=
  ((List.range 4).all fun g => decide (a.sp.getD g 0 + b.sp.getD g 0 ≤ 64)) && decide (a.acc + b.acc ≤ 4) && decide (a.dq + b.dq ≤ 1024)

/-- The kernel of the job in a slot, or of the one it is kept for; an empty one where the slot is free for the candidate. -/
def State.slotKernel (s : State) (d : DieId) (c : CoreId) (k : SlotId) (key : DieId × Nat × Nat) : Kernel :=
  match s.slotJob? d c k with
  | some j => j.kernel
  | none => match (s.core d c).reserved[k] with
    | some r => if r = key then {} else ((s.launchAt r.1 r.2.1).map (·.kernel)).getD {}
    | none => {}

/-- Occupied slots of a core; a slot kept for another candidate counts (R346, R347). -/
def State.occupied (s : State) (d : DieId) (c : CoreId) (key : DieId × Nat × Nat) : Nat :=
  let x := s.core d c
  ((List.finRange 2).filter fun k => (x.slots[k]).isSome || (match x.reserved[k] with
    | some r => r != key
    | none => false)).length

/-- Is a slot of a core in service kept for this candidate? -/
def State.reservedFor (s : State) (key : DieId × Nat × Nat) : Bool :=
  (List.finRange 4).any fun d => s.live d && (s.die d).cores.any fun (c : Core) => !c.quarantined && c.reserved.any fun r => r == some key

/-- The slot of a core that a candidate would take: the one kept for it, else the first that is free and not kept. -/
def State.slotFor (s : State) (d : DieId) (c : CoreId) (key : DieId × Nat × Nat) : Option SlotId :=
  let x := s.core d c
  (List.finRange 2).find? fun k => (x.slots[k]).isNone && (if s.reservedFor key then x.reserved[k] == some key else (x.reserved[k]).isNone)

/-- Is the core eligible for a candidate (R346)? -/
def State.eligible (s : State) (d : DieId) (c : CoreId) (a : Cand) : Bool :=
  let x := s.core d c
  !x.quarantined && decide (s.occupied d c a.key < (s.die d).dispthr.toNat) &&
    (match s.slotFor d c a.key with
      | some k => fits a.kernel (s.slotKernel d c (1 - k) a.key)
      | none => false) &&
    (a.isSaved || (s.die d).recs.any fun (r : Rec) => r.job.isNone) &&
    (match a.column with
      | some b => b == c
      | none => true)

/-- The core a candidate is placed on (R26, R346). -/
def State.placeFor (s : State) (a : Cand) : Option (DieId × CoreId) :=
  a.dies.findSome? fun d =>
    if (s.die d).noDispatch then none
    else
      let cs := (List.finRange 64).filter fun c => s.eligible d c a
      (match cs.find? fun c => decide (s.occupied d c a.key = 0) with
        | some c => some (d, c)
        | none => cs.head?.map fun c => (d, c))

/-! ## Pre-emption (R347) -/

/-- Is the job resident and neither stopping nor being saved, nor about to be (R347)? -/
def Job.resident (j : Job) : Bool :=
  !j.preemptAsked && (match j.phase with
    | .starting | .running | .resuming | .restoring _ => true
    | _ => false)

/-- A victim a candidate may pre-empt: its record, its core and slot. -/
def State.victims (s : State) (a : Cand) : List (DieId × Nat × CoreId × SlotId × Job) :=
  a.dies.flatMap fun d =>
    let x := s.die d
    (List.finRange 64).flatMap fun c => (List.finRange 2).filterMap fun k =>
      match s.slotRec? d c k with
      | none => none
      | some r => match s.job? d r with
        | none => none
        | some j =>
          if j.resident && decide (j.prio + x.preemptd.toNat ≤ a.eff) && x.preemptd != 8 && (j.owner, j.launch) != (a.key.1, a.key.2.1) &&
              ((s.core d c).reserved[k]).isNone && !(s.core d c).quarantined && fits a.kernel (s.slotKernel d c (1 - k) a.key) &&
              (a.isSaved || x.recs.any fun (r : Rec) => r.job.isNone) &&
              (match a.column with
                | some b => b == c
                | none => true) then some (d, r, c, k, j) else none

/-- Is one victim chosen before another: lowest priority, latest dispatch or resume, lowest core number (R347)? -/
def victimBefore (a b : DieId × Nat × CoreId × SlotId × Job) : Bool :=
  let x := a.2.2.2.2
  let y := b.2.2.2.2
  if x.prio ≠ y.prio then decide (x.prio < y.prio)
  else if x.placed ≠ y.placed then decide (y.placed < x.placed)
  else decide (pkgCore a.1 a.2.2.1 < pkgCore b.1 b.2.2.1)

/-- The victim a candidate picks, when the thresholds allow it (R347). -/
def State.victimFor (s : State) (a : Cand) : Option (DieId × Nat × CoreId × SlotId × Job) :=
  let full (d : DieId) : Bool := (s.die d).dispthr != 0 && !(s.die d).noDispatch &&
    (List.finRange 64).all fun c => decide ((s.die d).dispthr.toNat ≤ s.occupied d c a.key)
  if s.reservedFor a.key || !a.dies.all full then none
  else (s.victims a).foldl (fun m v => match m with
    | none => some v
    | some b => if victimBefore v b then some v else some b) none

/-- The victim stops, to be saved with PREEMPT, as soon as it runs; its slot is kept for the candidate. One that can retire retires (R38, R41). -/
def State.preemptJob (s : State) (d : DieId) (r : Nat) (c : CoreId) (keep : Option (SlotId × DieId × Nat × Nat)) : State :=
  let s := match keep with
    | some (k, key) => s.updCore d c fun x => { x with reserved := x.reserved.set k (some key) }
    | none => s
  if s.mayRetire d r then s.retire d r
  else
    let now := (s.grove d (groveOf c)).cyc
    s.updJob d r fun j =>
      if j.running then j.stopWhole .preempt .preempt (s.bare (jobSite d r)) now
      else if j.resident then { j with preemptAsked := true } else j

/-! ## DISPATCH (R346) -/

/-- The lowest banks of each group that are free, as many as a kernel declares (log 17). -/
def freeBanks (k : Kernel) (taken : List Nat) : List Nat :=
  (List.range 4).flatMap fun g => ((List.range 64).map fun b => 64 * g + b).filter (fun b => !taken.contains b) |>.take (k.sp.getD g 0)

/-- A job takes a slot of a core: its record's residency count, its banks and their owner tags (R218, R346). -/
def State.seat (s : State) (d : DieId) (r : Nat) (c : CoreId) (key : DieId × Nat × Nat) (eff : Nat) (f : Job → Job) : State :=
  match s.slotFor d c key with
  | none => s
  | some k =>
    let taken := match s.slotJob? d c (1 - k) with
      | some j => j.banks
      | none => []
    let resid := match (s.die d).recs[r]? with
      | some y => y.resid + 1
      | none => 1
    let time := s.time
    let put (y : Rec) : Rec := { y with resid := resid, job := y.job.map fun j => f { j with
      home := some (c, k), prio := eff, placed := time, banks := freeBanks j.kernel taken } }
    let s := s.updDie d fun y => { y with recs := updAt y.recs r put }
    let banks := match s.job? d r with
      | some j => j.banks
      | none => []
    let tag : BitVec 12 := BitVec.ofNat 7 r ++ resid
    s.updCore d c fun y => { y with
      slots := y.slots.set k (some r), reserved := y.reserved.set k none, tags := banks.foldl (fun t b => t.setIfInBounds b tag) y.tags }

/-- A new job: a free record is assigned, its GEN counted (R207), and the job takes its slot. -/
def State.seatNew (s : State) (d : DieId) (c : CoreId) (a : Cand) (record : LaunchRec) : State :=
  match (List.range 128).find? fun r => match (s.die d).recs[r]? with
      | some y => y.job.isNone
      | none => false with
  | none => s
  | some r =>
    let gen := match (s.die d).recs[r]? with
      | some y => y.gen + 1
      | none => 1
    let j : Job := {
      idx := r, gen := gen, owner := a.key.1, launch := a.key.2.1, number := a.key.2.2, asn := record.asn, host := record.host
      base := record.base, tag := record.tag, kernel := a.kernel }
    let s := s.updDie d fun y => { y with recs := updAt y.recs r fun z => { z with gen := gen, job := some j, area := [] } }
    s.seat d r c a.key a.eff id

/-- A launch's next job is on its way to a core: dispatched, forwarded to its die, or lost (R345). -/
def State.headNext (s : State) (d : DieId) (n : Nat) : State :=
  match s.launchAt d n with
  | none => s
  | some l => s.updDie d fun x => { x with launches := x.launches.put n { l with next := l.next + 1 } }

/-- One more job of a launch has been dispatched, or lost; after its last the launch leaves its queue (R342). -/
def State.wasPlaced (s : State) (d : DieId) (n : Nat) : State :=
  match s.launchAt d n with
  | none => s
  | some l =>
    let s := s.updDie d fun x => { x with launches := x.launches.put n { l with placed := l.placed + 1 } }
    if l.placed + 1 < l.total then s
    else s.updLq d l.lq fun y => if y.entry = some n then { y with recs := y.recs.drop 1, entry := none } else y

/-- Takes a candidate off the list it waits in. -/
def State.taken (s : State) (d : DieId) (a : Cand) : State :=
  match a.kind with
  | .head _ n => s.headNext d n
  | .fwd f => s.updDie d fun x => { x with forwards := x.forwards.erase f }
  | .saved _ => s

/-- The candidate's job is dispatched or lost: its launch counts it, once. -/
def State.counted (s : State) (a : Cand) : State :=
  match a.kind with
  | .fwd f => if f.again then s else s.wasPlaced a.key.1 a.key.2.1
  | _ => s.wasPlaced a.key.1 a.key.2.1

/-- A candidate's job that no die can run any more ends with DIE_LOST (R350). -/
def State.loseJob (s : State) (d : DieId) (a : Cand) : State :=
  let s := ((s.taken d a).counted a).unreserve a.key.1 a.key.2.1 a.key.2.2
  ((s.launchEnded a.key.1 a.key.2.1 (some (Cause.dieLost.code, 0))).errDone a.key.1 Cause.dieLost.code 0xFF 0)

/-- Places a candidate on a core. -/
def State.placeCand (s : State) (d : DieId) (a : Cand) (e : DieId) (c : CoreId) : State :=
  match a.kind with
  | .saved r => s.seat e r c a.key a.eff fun j => { j with phase := .resuming }
  | _ => match s.launchAt a.key.1 a.key.2.1 with
    | none => s
    | some l => ((s.seatNew e c a l.record).taken d a).counted a

/-- Is a saved job bound to a column no core holds any more (R147)? -/
def State.columnGone (s : State) (d : DieId) (a : Cand) : Bool :=
  match a.column with
  | some c => (s.core d c).quarantined && (s.grove d (groveOf c)).spareUsed
  | none => false

/-- A job bound to a lost column is not resumed (R147). -/
def State.loseColumn (s : State) (d : DieId) (r : Nat) : State :=
  match s.job? d r with
  | none => s
  | some j =>
    let bad (j : Job) : Job := { j with phase := .saved, trapCause := BitVec.ofBool true ++ Cause.canopyCol.code, asked := false, suspendAsked := false, preemptAsked := false }
    (s.updJob d r bad).queueEvent d (eventRecord 1 true Cause.canopyCol.code 0xFF (handleOf j.gen j.idx))

/-- One act of the distributor: it takes its candidates in order. The first for which something can be done is placed, forwarded to its die,
ended when no die can run it, or pre-empts a victim. -/
def State.distribute (s : State) (d : DieId) (place : Bool) : State :=
  let cs := (s.candidates d).foldr insertCand []
  let act (a : Cand) : Option State :=
    match a.kind with
    | .saved r => if s.columnGone d a then some (s.loseColumn d r) else none
    | .head _ n =>
      if a.dies = [] then some (s.loseJob d a)
      else if a.kernel.byDie ∧ a.dies ≠ [d] then
        let dest := a.dies.headD d
        let f : Forward := { owner := d, launch := n, job := a.key.2.2, since := s.time, eff := a.eff }
        some ((s.taken d a).updDie dest fun x => { x with forwards := x.forwards ++ [f] })
      else none
    | .fwd _ => if a.dies = [] then some (s.loseJob d a) else none
  let try_ (a : Cand) : Option State :=
    match act a with
    | some t => some (if place then t else s)
    | none => match s.placeFor a with
      | some (e, c) => some (if place then s.placeCand d a e c else s)
      | none => match s.victimFor a with
        | some (e, r, c, k, _) => some (s.preemptJob e r c (some (k, a.key)))
        | none => none
  (cs.findSome? try_).getD s

/-- DISPATCH (R346). -/
def execDispatch (d : DieId) (s : State) : Host.Outcome State Fault Refusal :=
  .next (if s.live d && !(s.die d).noDispatch then s.distribute d true else s)

/-- Quarantined cores' resident jobs are pre-empted (R397). -/
def State.clearQuarantined (s : State) (d : DieId) : State :=
  (List.finRange 64).foldl (fun s c =>
    if !(s.core d c).quarantined then s
    else (List.finRange 2).foldl (fun s k => match s.slotRec? d c k with
      | some r => (match s.job? d r with
        | some j => if j.resident then s.preemptJob d r c none else s
        | none => s)
      | none => s) s) s

/-- PREEMPT (R41, R347, R397): the jobs of quarantined cores stop; and the first candidate that can only be placed by pre-emption picks its
victim, which stops. -/
def execPreempt (d : DieId) (s : State) : Host.Outcome State Fault Refusal :=
  .next (if s.live d then
    let s := s.clearQuarantined d
    if (s.die d).noDispatch then s else s.distribute d false
  else s)

/-- PRIORITY_AGE (R345): the effective priorities of the waiting heads and forwarded jobs as they now stand. -/
def execPriorityAge (d : DieId) (s : State) : Host.Outcome State Fault Refusal :=
  let age (l : Launch) : Launch := match l.ready with
    | some t => { l with eff := aged l.record.base t s.time }
    | none => l
  let older (f : Forward) : Forward := match s.launchAt f.owner f.launch with
    | some l => { f with eff := aged l.record.base f.since s.time }
    | none => f
  .next (if s.live d then s.updDie d fun x => { x with
    launches := x.launches.map fun e => (e.1, age e.2), forwards := x.forwards.map older } else s)

/-! ## JOB_START (R28, R29) -/

/-- The values of x1-x8 for a job: spatial indices and temporal extents (R28). -/
def Kernel.indices (k : Kernel) (n : Nat) : List Nat :=
  let sp := (k.spatial.foldl (fun (m : Nat × List (Nat × Nat)) l => (m.1 / l.2.extent.toNat, m.2 ++ [(l.1, m.1 % l.2.extent.toNat)])) (n, [])).2
  (k.levels.zipIdx).map fun (l, i) => match l with
    | none => 0
    | some l => if l.kind = 0 then l.extent.toNat else ((sp.find? fun p => p.1 == i).map (·.2)).getD 0

/-- A stream at cycle 0 (R28): the cycle before now counts as its last issue (R29). -/
def Kernel.stream (k : Kernel) (n now : Nat) : Stream :=
  let ix := k.indices n
  { freshStream with
    x := Vector.ofFn fun i => if 1 ≤ i.val ∧ i.val ≤ 8 then BitVec.ofNat 64 (ix.getD (i.val - 1) 0)
      else if i.val = 9 then BitVec.ofNat 64 n else 0
    last := (now : Int) - 1 }

/-- A job at cycle 0 (R28, R198). -/
def Job.begin (j : Job) (now : Nat) : Job :=
  let k := j.kernel
  let sp : Memory := Memory.writes [] 0 k.args
  { j with
    phase := .running, start := now, cyc := 0, stall := 1
    streams := Vector.replicate 5 (k.stream j.number now)
    llcq := BitVec.ofNat 24 k.llcq, ubres := BitVec.ofNat 24 k.ubres
    sp := sp, spPoison := []
    masks := Vector.ofFn fun i => if i.val = 0 then BitVec.allOnes 4096 else 0
    xspecs := Vector.ofFn fun i => k.xspec.getD i.val 0
    tensors := Vector.ofFn fun i => k.tensors.getD i.val 0 }

/-- The writes a launch's release still covers (R344). -/
def State.launchCovered (s : State) (o : DieId) (n : Nat) : Bool :=
  match s.launchAt o n with
  | some l => l.record.cov.any fun p =>
      if p.2.1 = sysWrites then s.pendingWrite o 0 p.2 else match s.job? o p.1 with
        | some j => j.outstanding p.2
        | none => false
  | none => false

/-- JOB_START: once the launch's release has taken effect, the five streams start together; an acquire (R273). -/
def execJobStart (d : DieId) (r : RecId) (s : State) : Host.Outcome State Fault Refusal :=
  match s.job? d r.val with
  | none => .next s
  | some j => match j.home, j.phase with
    | some (c, _), .starting =>
      if !s.live d || s.launchCovered j.owner j.launch then .next s
      else
        let now := (s.grove d (groveOf c)).cyc
        let bare := s.bare (jobSite d r.val)
        let start (j : Job) : Job :=
          let b := (j.begin now).acquireAll s.foreign
          -- a quarantined core runs no new job: it is saved at its cycle 0, with PREEMPT (R397)
          if (s.core d c).quarantined && !j.suspendAsked then
            { (b.stopWhole .preempt .preempt bare now) with phase := .saving .preempt (now + j.kernel.saveCycles - 1), stopped := now, preemptAsked := false }
          else b.stopAtStart bare now
        .next ((s.updJob d r.val start).updCore d c Core.dropL1s)
    | _, _ => .next s

/-! ## Die loss (R349, R350) -/

/-- One job of a fenced die (R350): it is run again on the dies still live, or ends with DIE_LOST, its profile record written by the launch's
owner (R382, log 92). -/
def State.jobLost (s : State) (lost : DieId) (r : Nat) : State :=
  match s.job? lost r with
  | none => s
  | some j =>
    let s := s.updDie lost fun x => { x with recs := updAt x.recs r fun y => { y with job := none } }
    let s := (s.freeLines lost r).orphan lost r
    match s.launchAt j.owner j.launch with
    | none => s
    | some l =>
      let dests := s.jobDies l.record l.kernel j.number
      match (if l.kernel.reissue then dests else []) with
      | e :: _ =>
        let f : Forward := { owner := j.owner, launch := j.launch, job := j.number, since := s.time, eff := l.record.base, again := true }
        s.updDie (if l.kernel.byDie then e else j.owner) fun x => { x with forwards := x.forwards ++ [f] }
      | [] => ((s.putProfile j.owner (j.profile Cause.dieLost.code)).launchEnded j.owner j.launch (some (Cause.dieLost.code, 0))).errDone j.owner Cause.dieLost.code 0xFF 0

/-- A launch of the lost die passes to the master (R349), under a number that is free there; its jobs everywhere follow, and what is kept for
them. Jobs it had not dispatched are forwarded or ended by the master, once WAITDC, as the lost die left it, reads zero (log 93). -/
def State.passLaunch (s : State) (lost m : DieId) (n : Nat) (l : Launch) : State :=
  let table := (s.die m).launches
  let k := ((List.range (table.length + 1)).find? fun i => (table.get? i).isNone).getD 0
  let move (j : Job) : Job := if j.owner = lost ∧ j.launch = n then { j with owner := m, launch := k } else j
  let shift (f : Forward) : Forward := if f.owner = lost ∧ f.launch = n then { f with owner := m, launch := k } else f
  let keep (r : Option (DieId × Nat × Nat)) : Option (DieId × Nat × Nat) := r.map fun p => if p.1 = lost ∧ p.2.1 = n then (m, k, p.2.2) else p
  let s := { s with dies := s.dies.map fun (x : Die) => { x with
    recs := x.recs.map fun (y : Rec) => { y with job := y.job.map move }, forwards := x.forwards.map shift
    cores := x.cores.map fun (c : Core) => { c with reserved := c.reserved.map keep } } }
  let open_ : Bool := l.ready.isSome || !l.record.wen || (s.dc lost l.record.waitdc.toNat).value == 0
  let s := s.updDie lost fun x => { x with launches := x.launches.del n }
  let s := s.updDie m fun x => { x with launches := x.launches.put k (if open_ then { l with next := l.total } else l) }
  if !open_ then s
  else (List.range (l.total - l.next)).foldl (fun s i =>
    let f : Forward := { owner := m, launch := k, job := l.next + i, since := s.time, eff := l.record.base }
    let dest := match (if l.kernel.byDie then s.jobDies l.record l.kernel (l.next + i) else []) with
      | e :: _ => e
      | [] => m
    s.updDie dest fun x => { x with forwards := x.forwards ++ [f] }) s

/-- The cause a DIE event carries (R415); of a die fenced for another reason the spec gives it no cause: a free value (log 38). -/
def State.lossCause (s : State) (d lost : DieId) : BitVec 7 :=
  if s.trip.getLsbD lost.val then Cause.thermalTrip.code else (s.bare (2 ^ 13 + 2048 + 4 * d.val + lost.val)).1.extractLsb' 0 7

/-- DIE_LOSS (R349, R350): die d learns that a die was fenced. Its system core gets a DIE event; the master takes over the lost die's
launches and settles the jobs that were on it. -/
def execDieLoss (d : DieId) (lost : DieId) (s : State) : Host.Outcome State Fault Refusal :=
  let key := 0x200 + lost.val
  if !s.live d || s.live lost || ((s.die d).notices.get? key).isSome then .next s
  else
    let s := s.updDie d fun x => { x with notices := x.notices.put key s.time }
    let cause := s.lossCause d lost
    let s := s.queueEvent d (eventRecord 6 (fatalCode cause) cause lost.val 0)
    if d ≠ s.master then .next s
    else
      let x := s.die lost
      let s := s.updDie lost fun y => { y with lqs := y.lqs.map fun (q : Lq) => { q with recs := [], entry := none } }
      let s := x.launches.foldl (fun s e => s.passLaunch lost d e.1 e.2) s
      let s := (List.range 128).foldl (fun s r => s.jobLost lost r) s
      -- jobs that had been forwarded to the lost die and not placed are placed anew
      let fs := (s.die lost).forwards
      let s := s.updDie lost fun y => { y with forwards := [] }
      .next (fs.foldl (fun s f => match s.launchAt f.owner f.launch with
        | none => s
        | some l => match s.jobDies l.record l.kernel f.job with
          | e :: _ => s.updDie (if l.kernel.byDie then e else f.owner) fun y => { y with forwards := y.forwards ++ [f] }
          | [] => ((if f.again then s else s.wasPlaced f.owner f.launch).launchEnded f.owner f.launch (some (Cause.dieLost.code, 0))).errDone f.owner Cause.dieLost.code 0xFF 0) s)

end Sys2Proof.Machine
end

