-- ==== Sys2Proof/Machine/SysMap.lean ====
section
/-! DEFINITION. A die's system address space: what SYSRD reads and SYSWR writes at each address (spec/09_registers_control.md R213, R215;
spec/16_tables.md R359, R361, R363, R366; spec/17_counters.md R369, R380-R384; spec/13_memories_canopy.md R281; spec/14_queues_engines.md R315,
R320; spec/15_queues_launch.md R340; spec/19_links.md R401, R404, R408, R413, R414). -/

namespace Sys2Proof.Machine
open Sys2Proof

/-- How an access of the system address space ends: it lies in no region, it is locked, it is refused (JOBSTAT 2), or it is done. -/
inductive SysAns where
  | unmapped
  | locked
  | refused
  | done (v : Word) (s : State)

/-- The extent of a save record (R208). -/
def saveExtent : Nat := 0x1A0000

/-- Is the address in a region of R213? -/
def sysMapped (d : DieId) (a : Nat) : Bool :=
  decide (a < 128 * saveExtent) || decide (0x100000000 ≤ a ∧ a < 0x100080000) || decide (0x200000000 ≤ a ∧ a < 0x200001000) ||
    decide (0x300000000 ≤ a ∧ a < 0x500000000) || (sysFrame d a 8).isSome

/-! ## Save records and slot windows -/

/-- A save record that no job holds: what SYSWR left there; else what its last save left, a free value; zero before the first (log 15). -/
def Rec.areaWord (y : Rec) (i off : Nat) : Word :=
  y.area.getD off (if y.gen = 0 then 0 else BitVec.ofNat 64 (Config.freeNat y.gen.toNat (2 ^ 24 + 2 ^ 21 * i + off)))

/-- Lines a job locks or has reserved as its quota counts them: LLCQ holds them (R229). -/
def State.quotaOk (s : State) (d : DieId) (r : Nat) (llcq ubres : Nat) : Bool := decide (s.lockedBy d r + ubres ≤ llcq)

/-- Does a CSRX of the job's register n stand between its read and its write? No write of another stream falls there (R199). -/
def Job.csrxOpen (j : Job) (n : Nat) : Bool :=
  j.streams.any fun (st : Stream) => st.flights.any fun f =>
    (f.effs.any fun e => match e with
      | .csr m _ => m.toNat == n
      | _ => false) && (f.effs.any fun e => match e with
      | .x .. => true
      | _ => false)

/-- CSRWs of register n that land in this cycle give way to a slot window's write (R197). -/
def Job.csrwYield (j : Job) (n now : Nat) : Job :=
  let other (e : Eff) : Bool := match e with
    | .csr m _ => m.toNat != n
    | _ => true
  let give (f : Flight) : Flight := if f.land = some now then { f with effs := f.effs.filter other } else f
  { j with streams := j.streams.map fun (st : Stream) => { st with flights := st.flights.map give } }

/-- A write of register n of a slot window (R213): refused values leave it as it is. -/
def State.putSlotWindow (s : State) (d : DieId) (r n : Nat) (v : Word) : Option State :=
  match s.job? d r with
  | none => none
  | some j =>
    let q := bits v 23 0
    if csrRefuses n v then none
    else if n = 0x012 ∧ s.quotaOk d r q j.ubres.toNat = false then none
    else if n = 0x013 ∧ (q < j.ubused ∨ s.quotaOk d r j.llcq.toNat q = false) then none
    else
      let now := match j.home with
        | some (c, _) => (s.grove d (groveOf c)).cyc
        | none => 0
      some (s.updJob d r fun j => (j.csrwYield n now).putSlotReg n v)

/-! ## Queue, counter and monitor registers -/

/-- Offsets of the die counts of R383. -/
def countOffset (o : Nat) : Bool :=
  decide (o < 0x78) || (decide (0x100 ≤ o ∧ o < 0x200) && decide (o % 0x40 < 0x28))

/-- A monitor's register at an offset (R384). -/
def Monitor.read (m : Monitor) (o : Nat) : Word :=
  if o = 0 then
    BitVec.ofBool m.en ++ (0 : BitVec 2) ++ BitVec.ofBool m.mode ++ (0 : BitVec 8) ++ m.kind ++ (0 : BitVec 4) ++ m.filter ++ (0 : BitVec 26) ++ m.shift
  else if o = 8 then m.base
  else if o = 0x10 then m.count
  else if o = 0x18 then m.min
  else if o = 0x20 then m.max
  else if 0x80 ≤ o ∧ o < 0x180 then m.bins[(o - 0x80) / 8]?.getD 0
  else 0

/-- Does a monitor's control word name a source and a unit that exist (R384)? -/
def monitorOk (v : Word) : Bool :=
  let k := bits v 51 48
  let f := bits v 43 32
  let units := if k ≤ 3 then 64 else if k = 5 then 256 else 8
  decide (k < 7) && (f == 0xFFF || decide (f < units))

/-- A write of a monitor's register (R384). -/
def Monitor.write (m : Monitor) (o : Nat) (v : Word) : Monitor :=
  if o = 0 then
    let m := if v.getLsbD 62 then m.clear else m
    { m with en := v.getLsbD 63, mode := v.getLsbD 60, kind := v.extractLsb' 48 4, filter := v.extractLsb' 32 12, shift := v.extractLsb' 0 6 }
  else if o = 8 then { m with base := v }
  else if o = 0x10 then { m with count := v }
  else if o = 0x18 then { m with min := v }
  else if o = 0x20 then { m with max := v }
  else if 0x80 ≤ o ∧ o < 0x180 then { m with bins := m.bins.setIfInBounds ((o - 0x80) / 8) v }
  else m

/-- A launch queue's register at an offset (R340). -/
def Lq.read (q : Lq) (o : Nat) : Word :=
  if o = 0 then BitVec.ofBool q.enable ++ (0 : BitVec 60) ++ q.ceil
  else if o = 0x08 then BitVec.ofNat 64 q.recs.length
  else if o = 0x10 then q.ringBase
  else if o = 0x18 then zx64 q.ringSize
  else if o = 0x20 then zx64 q.tail
  else if o = 0x28 then zx64 q.head
  else 0

/-- The 16 MiB of the region of queue, counter and monitor registers at which the audit log's entries stand: R396 has SYSWR reach their headers,
R213 gives the log no address, so it is a free one beside the registers (log 60). -/
def auditBase : Nat :=
  let k := Config.auditPage % 256
  2 ^ 24 * (if k ∈ [0, 0x20, 0x40, 0x60, 0x70, 0x80, 0xC0, 0xD0] then 1 else k)
/-- Is an offset of that region in the audit log? -/
def inAudit (o : Nat) : Bool := decide (auditBase ≤ o ∧ o < auditBase + 2 ^ 24)

/-- Eight bytes of the audit log (R394): the places of a header's fields are not architected, so its words are free values but for those that
SYSWR left zero; where no entry lies, 0. -/
def Die.readAudit (x : Die) (o : Nat) : Word :=
  match x.audit.find? fun e => decide (e.offset ≤ o ∧ o < e.offset + 64 + e.bytes.length) with
  | none => 0
  | some e =>
    let k := o - e.offset
    if 64 ≤ k then BitVec.ofNat 64 (leNat ((e.bytes.drop (k - 64)).take 8))
    else if e.zeros.getLsbD (k / 8) then 0
    else BitVec.ofNat 64 (Config.freeNat (e.offset + 2 ^ 24 * e.sig.toNat) (2 ^ 27 + k / 8))

/-- A SYSWR in the audit log: an entry that is kept goes once its header is zero (R396); nothing else there changes. -/
def Die.writeAudit (x : Die) (o : Nat) (v : Word) : Die :=
  let put (e : AuditEntry) : AuditEntry :=
    if e.offset ≤ o ∧ o < e.offset + 64 then { e with zeros := setBits e.zeros ((o - e.offset) / 8) 1 (if v = 0 then 1 else 0) } else e
  { x with audit := (x.audit.map put).filter fun e => !(e.kept && e.zeros == 0xFF) }

/-- The word at an offset of the region of queue, counter and monitor registers; what its chapters list nothing at reads zero (R213; the profile
registers: log 75). -/
def Die.readUnit (x : Die) (o : Nat) : Word :=
  if o < 0x10000 then
    let c := x.dcs.getD (o / 16) {}
    if o % 16 = 0 then c.word else c.lrec
  else if o = 0x20000000 then zx64 (BitVec.ofBool x.capen)
  else if o = 0x20000008 then x.capbase
  else if o = 0x20000010 then zx64 x.capsize
  else if o = 0x20000018 then zx64 x.caphead
  else if o = 0x20000020 then zx64 x.captail
  else if o = 0x20000028 then x.capdrop
  else if o = 0x20000048 then x.profbase
  else if o = 0x20000050 then zx64 x.profsize
  else if o = 0x20000058 then zx64 x.profhead
  else if o = 0x20000060 then zx64 x.proftail
  else if o = 0x20000068 then x.profdrop
  else if 0x40000000 ≤ o ∧ o < 0x40002000 then
    match x.mons[(o - 0x40000000) / 0x200]? with
    | some m => m.read (o % 0x200)
    | none => 0
  else if 0x60000000 ≤ o ∧ o < 0x60000200 then (if countOffset (o - 0x60000000) then x.counts.getD (o - 0x60000000) 0 else 0)
  else if o = 0x70000000 then zx64 x.pwrlim
  else if o = 0x70000008 then BitVec.ofNat 64 Config.plFuse
  else if o = 0x70000010 then zx64 x.pwravg
  else if o = 0x70000018 then zx64 x.duty
  else if o = 0x70000020 then BitVec.ofNat 64 Config.tTrip
  else if o = 0x70000040 then zx64 x.hmfloor
  else if 0x80000000 ≤ o ∧ o < 0x80000400 then
    match x.lqs[(o - 0x80000000) / 0x40]? with
    | some q => q.read (o % 0x40)
    | none => 0
  else if 0xC0000000 ≤ o ∧ o < 0xC0004000 then
    match x.cores[(o - 0xC0000000) / 0x100]? with
    | some c => match c.mqs[o % 0x100 / 0x10]? with
      | some m => if o % 16 = 0 then m.reg0 else zx64 m.offset
      | none => 0
    | none => 0
  else if 0xD0000000 ≤ o ∧ o < 0xD0000800 then
    match x.groves[(o - 0xD0000000) / 0x100]? with
    | some g => g.bind[o % 0x100 / 8]?.getD 0
    | none => 0
  else if inAudit o then x.readAudit (o - auditBase)
  else 0

/-- A write of a tile-queue binding (R315): a change of either field discards the queue's entries. -/
def Grove.bindTq (g : Grove) (q : Nat) (v : Word) : Grove :=
  let n := v &&& 0x80000000000000FF
  if g.bind[q]?.getD 0 = n then g
  else { g with bind := g.bind.setIfInBounds q n, tqs := g.tqs.setIfInBounds q {} }

/-- A write of FENCE (R404): the master's names a die with bit 63 set; die 0 resets the package. -/
def State.putFence (s : State) (d : DieId) (v : Word) : State :=
  let t : DieId := Fin.ofNat 4 v.toNat
  if d ≠ s.master ∨ v.getLsbD 63 = false then s
  else if t = 0 then s.packageReset false
  else if s.live t then s.fence t else s

/-- A write in the region of queue, counter and monitor registers. -/
def State.writeUnit (s : State) (d : DieId) (o : Nat) (v : Word) : SysAns :=
  let x := s.die d
  let ok (f : Die → Die) : SysAns := .done 0 (s.updDie d f)
  if o < 0x10000 then .refused
  else if o = 0x20000000 then ok fun x => { x with capen := v.getLsbD 0 }
  else if o = 0x20000008 then ok fun x => { x with capbase := v }
  else if o = 0x20000010 then ok fun x => { x with capsize := v.extractLsb' 0 20 }
  else if o = 0x20000020 then ok fun x => { x with captail := v.extractLsb' 0 32 }
  else if o = 0x20000028 then ok fun x => { x with capdrop := v }
  else if o = 0x20000048 then ok fun x => { x with profbase := v }
  else if o = 0x20000050 then ok fun x => { x with profsize := v.extractLsb' 0 20 }
  else if o = 0x20000060 then ok fun x => { x with proftail := v.extractLsb' 0 32 }
  else if o = 0x20000068 then ok fun x => { x with profdrop := v }
  else if 0x40000000 ≤ o ∧ o < 0x40002000 then
    if o % 0x200 = 0 ∧ monitorOk v = false then .refused
    else ok fun x => { x with mons := updAt x.mons ((o - 0x40000000) / 0x200) fun m => m.write (o % 0x200) v }
  else if 0x60000000 ≤ o ∧ o < 0x60000200 then
    (if countOffset (o - 0x60000000) then ok fun x => { x with counts := x.counts.put (o - 0x60000000) v } else .done 0 s)
  else if o = 0x70000000 then
    if x.lockstat.getLsbD 3 then .locked
    else ok fun x => { x with pwrlim := BitVec.ofNat 12 (min (bits v 11 0) Config.plFuse) }
  else if o = 0x70000040 then (if x.lockstat.getLsbD 2 then .locked else ok fun x => { x with hmfloor := v.extractLsb' 0 25 })
  else if o = 0x70000048 then .done 0 (s.putFence d v)
  else if 0x80000000 ≤ o ∧ o < 0x80000400 then
    let q : Fin 16 := Fin.ofNat 16 ((o - 0x80000000) / 0x40)
    let r := o % 0x40
    if r = 0 then
      -- firmware serves once it enables a launch queue of die 0 (R410 step 7, log 16)
      let s := { s with boot := if s.boot = 2 ∧ d = 0 ∧ v.getLsbD 63 then 3 else s.boot }
      .done 0 (s.updLq d q fun l => { l with enable := v.getLsbD 63, ceil := v.extractLsb' 0 3 })
    else if r = 0x10 then
      if v.toNat % 64 ≠ 0 ∨ (sysFrame d v.toNat 64).isNone then .refused else .done 0 (s.updLq d q fun l => { l with ringBase := v })
    else if r = 0x18 then .done 0 ((s.updLq d q fun l => { l with ringSize := v.extractLsb' 0 16 }).ringCheck d q)
    else if r = 0x20 then .done 0 (s.putTail d q (v.extractLsb' 0 32))
    else .done 0 s
  else if 0xC0000000 ≤ o ∧ o < 0xC0004000 then
    let c : CoreId := Fin.ofNat 64 ((o - 0xC0000000) / 0x100)
    if 0x40 ≤ o % 0x100 then .done 0 s
    else
      let q : Fin 4 := Fin.ofNat 4 (o % 0x100 / 0x10)
      match (s.mq d c q).bind (o % 16 == 8) v with
      | some m => .done 0 (s.updMq d c q fun _ => m)
      | none => .refused
  else if 0xD0000000 ≤ o ∧ o < 0xD0000800 then
    if 0x80 ≤ o % 0x100 then .done 0 s
    else .done 0 (s.updGrove d (Fin.ofNat 8 ((o - 0xD0000000) / 0x100)) fun g => g.bindTq (o % 0x100 / 8) v)
  else if inAudit o then ok fun x => x.writeAudit (o - auditBase) v
  else .done 0 s

/-! ## Table windows -/

/-- A word of a programming engine's registers (R281). -/
def Die.readPgm (x : Die) (g : Nat) (o : Nat) : Word :=
  match x.groves[g]? with
  | none => 0
  | some y =>
    if o < 0x20 then y.pgmperm[o / 8]?.getD 0
    else if o = 0x20 then zx64 y.wearlim
    else if o = 0x28 then zx64 y.poollow
    else if o = 0x30 then zx64 y.govctl
    else if o = 0x38 then BitVec.ofNat 64 Config.govFuse
    else if 0x40 ≤ o ∧ o < 0x80 then BitVec.ofNat 64 ((x.columns[8 * g + (o - 0x40) / 8]?.getD {}).poolCount)
    else if 0x80 ≤ o ∧ o < 0xC0 then BitVec.ofNat 64 ((x.columns[8 * g + (o - 0x80) / 8]?.getD {}).retired.length)
    else 0

/-- A write of a programming engine's registers (R281, R215). -/
def State.writePgm (s : State) (d : DieId) (g : GroveId) (o : Nat) (v : Word) : SysAns :=
  let ok (f : Grove → Grove) : SysAns := .done 0 (s.updGrove d g f)
  let locked := (s.die d).lockstat.getLsbD 3
  if o < 0x20 then ok fun y => { y with pgmperm := y.pgmperm.setIfInBounds (o / 8) v }
  else if o = 0x20 then (if locked then .locked else ok fun y => { y with wearlim := v.extractLsb' 0 24 })
  else if o = 0x28 then ok fun y => { y with poollow := v.extractLsb' 0 24 }
  else if o = 0x30 then (if locked then .locked else ok fun y => { y with govctl := BitVec.ofNat 16 (min (bits v 15 0) Config.govFuse) })
  else .done 0 s

/-- The word at an offset of the table windows (R213), the directory rows aside. -/
def Die.readTable (x : Die) (o : Nat) : Word :=
  if o < 0x2000000 then (x.segs.getD (o / 32) 0).extractLsb' (64 * (o % 32 / 8)) 64
  else if 0x40000000 ≤ o ∧ o < 0x40010000 then x.routes.getD ((o - 0x40000000) / 8) 0
  else if 0x40010000 ≤ o ∧ o < 0x40010800 then x.keys.getD ((o - 0x40010000) / 8) 0
  else if o = 0x40020000 then zx64 x.lftree
  else if 0x40030000 ≤ o ∧ o < 0x40030800 then x.egrate.getD ((o - 0x40030000) / 8) 0
  else if 0x50000000 ≤ o ∧ o < 0x50008000 then
    let g := (o - 0x50000000) / 2
    x.stamps.getD (g + 3) 0 ++ x.stamps.getD (g + 2) 0 ++ x.stamps.getD (g + 1) 0 ++ x.stamps.getD g 0
  else if 0x50010000 ≤ o ∧ o < 0x50010800 then
    let r := x.regions.getD ((o - 0x50010000) / 8) {}
    BitVec.ofNat 64 (256 * r.band + r.temp % 256)
  else if 0x50010800 ≤ o ∧ o < 0x50010840 then BitVec.ofNat 64 (bandWindow ((o - 0x50010800) / 8))
  else if 0x80000000 ≤ o ∧ o < 0x80008000 then x.readPgm ((o - 0x80000000) / 0x1000) (o % 0x1000)
  else 0

/-- A read in the table windows: one of a directory row is a canopy read, which notices what it corrects (R289); of a row with an uncorrectable error it
gives a free value (log 131). -/
def State.readWindow (s : State) (d : DieId) (o : Nat) : Word × State :=
  if 0x60000000 ≤ o ∧ o < 0x70000000 then
    let e := s.dirEntry d (Fin.ofNat 64 ((o - 0x60000000) / 0x400000)) (o % 0x400000 / 16)
    (if e.2.1 then BitVec.ofNat 64 (Config.freeNat s.free (2 ^ 30)) else e.1.extractLsb' (64 * (o % 16 / 8)) 64, e.2.2)
  else ((s.die d).readTable o, s)

/-- Table offsets whose SYSWR is refused with JOBSTAT 2 (R359, R361, R363, R366, R413). -/
def tableFixed (o : Nat) : Bool :=
  decide (o < 0x2000000) || decide (0x40000000 ≤ o ∧ o < 0x40010800) || decide (0x40030000 ≤ o ∧ o < 0x40030800) ||
    decide (0x50000000 ≤ o ∧ o < 0x50008000) || decide (0x50010000 ≤ o ∧ o < 0x50010840) || decide (0x60000000 ≤ o ∧ o < 0x70000000)

/-- Writes LFTREE on every live die (R408). -/
def State.putLftree (s : State) (v : BitVec 16) : State :=
  { s with dies := s.dies.map fun (x : Die) => if x.fenced then x else { x with lftree := v } }

/-- A write in the table windows: LFTREE until LOCKDOWN bit 0 (log 31), the programming engines' registers. -/
def State.writeTable (s : State) (d : DieId) (o : Nat) (v : Word) : SysAns :=
  if tableFixed o then .refused
  else if o = 0x40020000 then (if (s.die d).lockstat.getLsbD 0 then .locked else .done 0 (s.putLftree (v.extractLsb' 0 16)))
  else if 0x80000000 ≤ o ∧ o < 0x80008000 then s.writePgm d (Fin.ofNat 8 ((o - 0x80000000) / 0x1000)) (o % 0x1000) v
  else .done 0 s

/-! ## The whole space -/

/-- A die register through its window; a read of EVTHEAD removes the event (R195, R198). -/
def State.readDieReg (s : State) (d : DieId) (n : Nat) : Word × State :=
  if n = 0x10A then s.popEvent d
  else if 0x100 ≤ n ∧ n ≤ 0x10D then ((s.die d).reg n, s) else (0, s)

/-- A write of a die register through its window (R196, R213, R215): read-only ones ignore it. A lock comes before the value's check
(log 128). -/
def State.writeDieReg (s : State) (d : DieId) (n : Nat) (v : Word) : SysAns :=
  if 0x104 ≤ n ∧ n ≤ 0x106 ∧ (s.die d).lockstat.getLsbD 3 then .locked
  else if csrRefuses n v then .refused
  else if csrAccess .sys n = .write ∧ 0x100 ≤ n then .done 0 (s.updDie d fun x => x.putCsr (BitVec.ofNat 12 n) (csrClean n v))
  else .done 0 s

/-- A read of the master's launch-queue registers at the offsets of another die: a fenced die's HEAD values (R349; log 103). -/
def State.fencedHead (s : State) (d : DieId) (o : Nat) : Option Word :=
  let t : DieId := Fin.ofNat 4 (o / 0x400)
  if 0x400 ≤ o ∧ o < 0x1000 ∧ o % 0x40 = 0x28 ∧ d = s.master ∧ s.live t = false then ((s.die t).lqs[o % 0x400 / 0x40]?).map fun q => zx64 q.head
  else none

/-- A read of 8 bytes of die d's system address space (R213), the address a multiple of 8. -/
def State.sysRead (s : State) (d : DieId) (a : Nat) : SysAns :=
  if a < 128 * saveExtent then
    match (s.die d).recs[a / saveExtent]? with
    | none => .unmapped
    | some y => match y.job with
      | none => .done (y.areaWord (a / saveExtent) (a % saveExtent)) s
      | some j => if j.home.isSome then .refused else .done (j.saveWord d (a % saveExtent)) s
  else if 0x100000000 ≤ a ∧ a < 0x100080000 then
    let w := (a - 0x100000000) / 0x1000
    match s.slotJob? d (Fin.ofNat 64 (w / 2)) (Fin.ofNat 2 w) with
    | none => .refused
    | some j => .done (if a % 0x1000 ≤ 0x60 then j.slotReg d (0x010 + a % 0x1000 / 8) else 0) s
  else if 0x200000000 ≤ a ∧ a < 0x200001000 then let r := s.readDieReg d (0x100 + (a - 0x200000000) / 8); .done r.1 r.2
  else if 0x300000000 ≤ a ∧ a < 0x400000000 then .done ((s.fencedHead d (a - 0x380000000)).getD ((s.die d).readUnit (a - 0x300000000))) s
  else if 0x400000000 ≤ a ∧ a < 0x500000000 then let r := s.readWindow d (a - 0x400000000); .done r.1 r.2
  else match sysFrame d a 8 with
    | some p => .done (BitVec.ofNat 64 (s.physRead p 8)) (s.touchFrame p 8)
    | none => .unmapped

/-- A write of 8 bytes of die d's system address space (R213), the address a multiple of 8. -/
def State.sysWrite (s : State) (d : DieId) (a : Nat) (v : Word) : SysAns :=
  if a < 128 * saveExtent then
    let r := a / saveExtent
    let off := a % saveExtent
    match (s.die d).recs[r]? with
    | none => .unmapped
    | some y => match y.job with
      | none => .done 0 (s.updDie d fun x => { x with recs := updAt x.recs r fun y => { y with area := y.area.put off v } })
      | some j => if j.home.isSome then .refused else .done 0 (s.updJob d r fun j => j.putSave off v)
  else if 0x100000000 ≤ a ∧ a < 0x100080000 then
    let w := (a - 0x100000000) / 0x1000
    match s.slotRec? d (Fin.ofNat 64 (w / 2)) (Fin.ofNat 2 w) with
    | none => .refused
    | some r =>
      if 0x60 < a % 0x1000 then .done 0 s
      else match s.putSlotWindow d r (0x010 + a % 0x1000 / 8) v with
        | some s => .done 0 s
        | none => .refused
  else if 0x200000000 ≤ a ∧ a < 0x200001000 then s.writeDieReg d (0x100 + (a - 0x200000000) / 8) v
  else if 0x300000000 ≤ a ∧ a < 0x400000000 then s.writeUnit d (a - 0x300000000) v
  else if 0x400000000 ≤ a ∧ a < 0x500000000 then s.writeTable d (a - 0x400000000) v
  else match sysFrame d a 8 with
    | some p => .done 0 ((s.physWrite p (leBytes 8 v.toNat)).touchFrame p 8)
    | none => .unmapped

/-- A write of a slot window that falls between a CSRX's read and its write waits (R199). -/
def State.sysWriteHeld (s : State) (d : DieId) (a : Nat) : Bool :=
  let w := (a - 0x100000000) / 0x1000
  decide (0x100000000 ≤ a ∧ a < 0x100080000) && (s.slotJob? d (Fin.ofNat 64 (w / 2)) (Fin.ofNat 2 w)).any fun j => j.csrxOpen (0x010 + a % 0x1000 / 8)

/-! ## Writes as steps of their own -/

/-- Registers whose writes do more than store a value: TAIL, FENCE, bindings, a monitor's CLR. -/
def sysActs (a : Nat) (v : Word) : Bool :=
  let o := a - 0x300000000
  decide (0x300000000 ≤ a ∧ a < 0x400000000) &&
    ((decide (0x80000000 ≤ o ∧ o < 0x80000400) && o % 0x40 == 0x20) || o == 0x70000048 || decide (0xC0000000 ≤ o ∧ o < 0xC0004000) ||
      decide (0xD0000000 ≤ o ∧ o < 0xD0000800) || (decide (0x40000000 ≤ o ∧ o < 0x40002000) && o % 0x200 == 0 && v.getLsbD 62))

/-- Records how a register write ended (R213). -/
def State.putJobstat (s : State) (d : DieId) (v : BitVec 2) : State := s.updSys d fun x => { x with jobstat := v }

/-- A host write at offset o of BAR0 (R340, R399, R400): HSADDR, and a launch queue's registers, of which LOCKDOWN bit 2 leaves TAIL alone. -/
def State.hostWrite (s : State) (o : Nat) (v : Word) : State :=
  if !s.hostOpen then s
  else if o = 0x20100 then { s with hsaddr := v &&& 0xC00000FFFFFFFFFF }
  else if 0x10000 ≤ o ∧ o < 0x11000 ∧ o % 8 = 0 then
    let d : DieId := Fin.ofNat 4 ((o - 0x10000) / 0x400)
    if s.live d = false ∨ ((s.die d).lockstat.getLsbD 2 = true ∧ o % 0x40 ≠ 0x20) then s
    else match s.sysWrite d (0x380000000 + o % 0x400) v with
      | .done _ t => t
      | _ => s
  else s

/-- REGISTER_WRITE (R213): a write to a device register that has no behaviour of its own stores its value, unless a field refuses it. A host
write at offset o of BAR0 is the address 2^63 + o (log 34). -/
def execRegisterWrite (d : DieId) (a v : Word) (s : State) : Host.Outcome State Fault Refusal :=
  if 2 ^ 63 ≤ a.toNat then .next (s.hostWrite (a.toNat - 2 ^ 63) v)
  else if a.toNat % 8 ≠ 0 ∨ sysActs a.toNat v = true ∨ s.live d = false ∨ s.sysWriteHeld d a.toNat = true then .next s
  else match s.sysWrite d a.toNat v with
    | .done _ t => .next (t.putJobstat d 0)
    | .refused => .next (s.putJobstat d 2)
    | _ => .next s

/-- TQ_BINDING_WRITE (R315). -/
def execTqBindingWrite (d : DieId) (g : GroveId) (q : Fin 16) (v : Word) (s : State) : Host.Outcome State Fault Refusal :=
  .next (if s.live d then (s.updGrove d g fun y => y.bindTq q.val v).putJobstat d 0 else s)

/-- FENCE_WRITE (R404). -/
def execFenceWrite (d : DieId) (v : Word) (s : State) : Host.Outcome State Fault Refusal :=
  .next (if s.live d then s.putFence d v else s)

end Sys2Proof.Machine
end

