-- ==== Sys2Proof/Machine/System.lean ====
section
/-! DEFINITION. The system core's instructions: SYSRD, SYSWR, RESUME, KILL, SUSPEND, TLBINV, SEGSET, FRAME, MIGRATE, ROUTEW, LOCKDOWN, ERET, and
the steps SEGSET_APPLY, MIGRATE_MOVE, EVENT_ENTER, SYSTEM_CORE_WAKE (spec/09_registers_control.md R210-R215, spec/10_memories_spaces.md R226,
R237, R238, spec/16_tables.md R359, R366, R367). -/

namespace Sys2Proof.Machine
open Sys2Proof

/-! ## SYSRD and SYSWR (R213) -/

/-- Why an access of a system address stops at issue. -/
def State.sysStop (s : State) (a : Word) (v : Option Word) : Option Stop :=
  let d := whoDie s.cur
  if a.toNat % 8 ≠ 0 then some { cause := .align, info0 := a }
  else if !sysMapped d a.toNat then some { cause := .badTarget, info0 := a }
  else match v with
    | none => none
    | some v => match s.sysWrite d a.toNat v with
      | .locked => some { cause := .locked }
      | _ => none

/-- SYSRD: issue is held until the data is back. -/
def execSysrd (h : Hdr) (g : Guard) (d addr : BitVec 5) (s : State) : Host.Outcome State Fault Refusal :=
  runGuarded (.sysrd h g d addr) h g always (fun s =>
    let a := s.readX 0 addr
    match s.sysStop a none with
    | some st => .error st
    | none => .ok (s.launchWord h.tks none [.csr 0x10C 0] (.sysRead a d), .fall)) s

/-- SYSWR. -/
def execSyswr (h : Hdr) (g : Guard) (val addr : BitVec 5) (s : State) : Host.Outcome State Fault Refusal :=
  runGuarded (.syswr h g val addr) h g always (fun s =>
    let a := s.readX 0 addr
    let v := s.readX 1 val
    match s.sysStop a (some v) with
    | some st => .error st
    | none => .ok (s.launchWord h.tks none [.csr 0x10C 0] (.sysWrite a v), .fall)) s

/-- What an access leaves in JOBSTAT, unless a later request has written it since (R33). -/
def Flight.stat (f : Flight) (v : Word) : List Eff := if f.effs = [] then [] else [.csr 0x10C v]

/-- Is an earlier SYSWR of the same address still to be performed? -/
def Stream.sysBehind (st : Stream) (before : Nat) (a : Word) : Bool :=
  st.flights.any fun g => decide (g.id < before) && (match g.work with
    | .sysWrite b _ => b == a
    | _ => false)

/-- Does an access of a system address wait for the refresh of its frame's row group (R363)? -/
def State.sysWaits (s : State) (d : DieId) (a : Nat) : Bool := (sysFrame d a 8).any fun p => s.frameWaits p 8

/-- SYSRD's data returns. -/
def State.sysReadLand (s : State) (w : Who) (f : Flight) (a : Word) (rd : BitVec 5) : State :=
  if ((s.stream? w).any fun st => st.sysBehind f.id a) || s.sysWaits (whoDie w) a.toNat then s
  else match s.sysRead (whoDie w) a.toNat with
    | .done v t => t.completeWith w f (.x rd v :: f.stat 0)
    | _ => s.completeWith w f (.x rd 0 :: f.stat 2)

/-- SYSWR is performed and acknowledged. Its lock was checked when it issued. -/
def State.sysWriteLand (s : State) (w : Who) (f : Flight) (a v : Word) : State :=
  let d := whoDie w
  if ((s.stream? w).any fun st => st.sysBehind f.id a) || s.sysWriteHeld d a.toNat || s.sysWaits d a.toNat then s
  else
    let lock := (s.die d).lockstat
    let set (l : BitVec 5) (s : State) : State := s.updDie d fun x => { x with lockstat := l }
    match (set 0 s).sysWrite d a.toNat v with
    | .done _ t =>
      -- a write of FENCE that resets the package leaves nothing of the word, nor of the die's locks (R215, R409)
      if t.incarnation ≠ s.incarnation then t else (set (if t.live d then lock else 0) t).completeWith w f (f.stat 0)
    | _ => s.completeWith w f (f.stat 2)

/-! ## RESUME, KILL, SUSPEND (R214) -/

/-- The record a handle names on die d with the job in it, when the handle's GEN is the record's; none: it is stale (R207). -/
def State.byHandle (s : State) (d : DieId) (h : Word) : Option (Nat × Option Job) :=
  let r := bits h 6 0
  match (s.die d).recs[r]? with
  | some y => if y.gen = h.extractLsb' 8 24 then some (r, y.job) else none
  | none => none

/-- Is an earlier request on the job still in progress? -/
def Job.requested (j : Job) : Bool :=
  j.asked || j.suspendAsked || (match j.phase with
    | .stopping .kill _ | .stopping .suspend _ | .saving .suspend _ => true
    | _ => false)

/-- Is the job saved with a restartable cause other than PREEMPT? -/
def Job.resumable (j : Job) : Bool :=
  j.phase == .saved && j.home.isNone && !j.trapCause.getLsbD 7 && j.trapCause.extractLsb' 0 7 != Cause.preempt.code

/-- RESUME's action: the job waits to be placed. -/
def State.askResume (s : State) (d : DieId) (r : Nat) : State :=
  s.updJob d r fun j => { j with phase := .resuming, asked := true }

/-- The cycle of the core a job is resident on. -/
def State.jobNow (s : State) (d : DieId) (j : Job) : Nat :=
  match j.home with
  | some (c, _) => (s.grove d (groveOf c)).cyc
  | none => 0

/-- KILL's action: the job stops and is not saved. -/
def State.askKill (s : State) (d : DieId) (r : Nat) : State :=
  match s.job? d r with
  | none => s
  | some j =>
    let now := s.jobNow d j
    s.updJob d r fun j => { j with phase := .stopping .kill now, asked := false, suspendAsked := false, preemptAsked := false, pgmStop := [] }

/-- SUSPEND's action: a running job stops; one being started or restored stops as it starts. -/
def State.askSuspend (s : State) (d : DieId) (r : Nat) : State :=
  match s.job? d r with
  | none => s
  | some j =>
    let now := s.jobNow d j
    s.updJob d r fun j => if j.running then j.stopWhole .suspend .suspendReq (s.bare (jobSite d r)) now else { j with suspendAsked := true }

/-- Is the job resident, and neither stopping nor being saved? -/
def Job.settled (j : Job) : Bool :=
  j.home.isSome && (match j.phase with
    | .stopping .. | .saving .. => false
    | _ => true)

/-- A request by handle: its status, and its action where it is accepted. -/
def requestBody (h : Hdr) (hreg : BitVec 5) (ok : Job → Bool) (act : State → DieId → Nat → State) : Body := fun s =>
  let d := whoDie s.cur
  let r : Word × State := match s.byHandle d (s.readX 0 hreg) with
    | none => (1, s)
    | some (_, none) => (2, s)
    | some (r, some j) => if j.requested then (3, s) else if ok j then (0, act s d r) else (2, s)
  .ok (r.2.launchWord h.tks (some (s.now + 4)) [.csr 0x10C r.1] .fixed, .fall)

/-- RESUME. -/
def execResume (h : Hdr) (g : Guard) (hreg : BitVec 5) (s : State) : Host.Outcome State Fault Refusal :=
  runGuarded (.resume h g hreg) h g always (requestBody h hreg Job.resumable State.askResume) s

/-- A job is killed wherever it stands: resident, stopping, being saved, or saved (R214). -/
def Job.killable (_ : Job) : Bool := true

/-- KILL. -/
def execKill (h : Hdr) (g : Guard) (hreg : BitVec 5) (s : State) : Host.Outcome State Fault Refusal :=
  runGuarded (.kill h g hreg) h g always (requestBody h hreg Job.killable State.askKill) s

/-- SUSPEND. -/
def execSuspend (h : Hdr) (g : Guard) (hreg : BitVec 5) (s : State) : Host.Outcome State Fault Refusal :=
  runGuarded (.suspend h g hreg) h g always (requestBody h hreg Job.settled State.askSuspend) s

/-! ## TLBINV (R226) -/

/-- Do addresses of a buffer meet TLBINV's operands: its ASN, its buffer, offsets `first` to `last`? -/
def tlbinvHit (cb rng : Word) (asn : BitVec 8) (buf : BitVec 12) (first last : Nat) : Bool :=
  let b := cb.extractLsb' 52 12
  let l := bits rng 63 58
  let lo := bits rng 51 12 * 4096
  (b == 0 || buf == b) && (cb.getLsbD 8 || asn == cb.extractLsb' 0 8) && (decide (41 ≤ l) || decide (lo ≤ last ∧ first < lo + 4096 * 2 ^ l))

/-- Does a TLB entry match TLBINV's operands? -/
def TlbEntry.hit (t : TlbEntry) (cb rng : Word) : Bool := tlbinvHit cb rng t.asn t.buf t.first (t.first + 4096 * 4 ^ t.leaf.size - 1)

/-- Removes entries from every TLB of some dies. -/
def State.dropTlb (s : State) (dies : List DieId) (p : TlbEntry → Bool) : State :=
  dies.foldl (fun s d => s.updDie d fun x => { x with cores := x.cores.map fun (c : Core) => { c with tlb := c.tlb.filter fun t => !p t } }) s

/-- TLBINV. -/
def execTlbinv (h : Hdr) (g : Guard) (cb rng : BitVec 5) (scope : BitVec 3) (s : State) : Host.Outcome State Fault Refusal :=
  runGuarded (.tlbinv h g cb rng scope) h g always (fun s =>
    .ok (s.launchWord h.tks none [] (.tlbinv (s.readX 0 cb) (s.readX 1 rng) scope), .fall)) s

/-- Does the work of a range probe or a lock meet TLBINV's operands? It holds no entry, but translated its range. -/
def Work.rangeHit (k : Work) (asn : BitVec 8) (cb rng : Word) : Bool :=
  match k with
  | .probe va len .. | .lock _ va len _ =>
    len != 0 && tlbinvHit cb rng asn (bufOf va.toNat) (bits va 51 0 / 4096 * 4096) (bits va 51 0 + len.toNat - 1)
  | _ => false

/-- Is an access under way on some dies that was translated through an entry TLBINV removes: a word's, or a line a PREF asked for (R226)? -/
def State.translated (s : State) (dies : List DieId) (cb rng : Word) : Bool :=
  dies.any fun d => (s.die d).cores.any fun (x : Core) =>
    (x.fills.any fun f => f.page.any fun t => t.hit cb rng) || x.slots.any fun r => match r.bind (s.job? d) with
      | some j => j.streams.any fun (st : Stream) => st.flights.any fun f =>
          !f.halted && (f.page.any (fun t => t.hit cb rng) || f.work.rangeHit j.asn cb rng)
      | none => false

/-- TLBINV ends once every targeted TLB is clear and no access translated through a removed entry is under way. -/
def State.tlbinvLand (s : State) (w : Who) (f : Flight) (cb rng : Word) (scope : BitVec 3) : State :=
  let dies := s.scopeDies (whoDie w) scope
  let s := s.dropTlb dies fun t => t.hit cb rng
  if s.translated dies cb rng then s else s.complete w f

/-! ## The lines of a buffer -/

/-- Every valid leaf of a buffer's tables, from a table at a level (R222). -/
def State.leaves (s : State) (lpddrKind : Bool) : Nat → Nat → List Leaf
  | 0, _ => []
  | k + 1, table => (List.range 256).flatMap fun i =>
    let e := s.pte (table + 8 * i)
    if !e.getLsbD 0 then []
    else if e.getLsbD 1 then (leafOf e lpddrKind).toList
    else if k = 0 then []
    else s.leaves lpddrKind k (bits e 10 9 * 2 ^ 37 + 4096 * bits e 36 12 + (if e.getLsbD 11 then 2048 else 0))

/-- The leaves of a segment's tables. -/
def State.segLeaves (s : State) (e : BitVec 256) : List Leaf :=
  if segHasRoot e then s.leaves (segKind e == 0 || segKind e == 3) 5 (segRoot e) else []

/-- Is a line one of the buffer's: of its pages, or an unbacked line of it? -/
def bufLine (asn : BitVec 8) (b : BitVec 12) (e : BitVec 256) (ls : List Leaf) (key : Nat) : Bool :=
  let a := key / 3 * 128
  let within (base : Nat) (l : Leaf) : Bool := decide (base + 4096 * l.frame ≤ a ∧ a < base + 4096 * (l.frame + 4 ^ l.size))
  if key % 3 = 1 then key / 3 / 2 ^ 45 == 4096 * asn.toNat + b.toNat
  else if key % 3 = 0 then (segKind e == 0 || segKind e == 3) && ls.any fun l => within (l.die.val * 2 ^ 37) l
  else segKind e == 1 && ls.any (within 0)

/-- Is an L1 line one of the buffer's? -/
def bufL1 (asn : BitVec 8) (b : BitVec 12) (e : BitVec 256) (ls : List Leaf) (key : Nat) : Bool :=
  if key % 4 = 0 then bufLine asn b e ls (key / 4)
  else
    let k := key / 4
    let a := k % 2 ^ 40 * 128
    segKind e == 2 && k / 2 ^ 40 == (segTarget e).toNat * 2 ^ 16 + (segIncarn e).toNat &&
      ls.any fun l => decide (l.die.val * 2 ^ 37 + 4096 * l.frame ≤ a ∧ a < l.die.val * 2 ^ 37 + 4096 * (l.frame + 4 ^ l.size))

/-- Drops every copy of the buffer outside its home, dirty bytes written back to the masters (R238, R262). -/
def State.foldCopies (s : State) (mine : Nat → Bool) : State :=
  (List.finRange 4).foldl (fun s d => (((s.die d).copies.filter fun e => mine e.1).foldl (fun s e => s.mergeCopy d e.1 true) s)) s

/-- SEGSET's step 3 (R359): dirty bytes of framed and HOST lines go back, every copy and lock goes, unframed lines become ABSENT. -/
def State.flushBuffer (s : State) (asn : BitVec 8) (b : BitVec 12) (e : BitVec 256) : State :=
  let ls := s.segLeaves e
  let mine := bufLine asn b e ls
  let free (c : Nat × Copy) : Nat × Copy := if mine c.1 then (c.1, { c.2 with locks := [] }) else c
  let s := { s with dies := s.dies.map fun (x : Die) => { x with copies := (x.copies.filter fun (c : Nat × Copy) => !(c.1 % 3 == 1 && mine c.1)).map free } }
  let s := s.foldCopies mine
  let s := (s.masters.filter fun x => mine x.1).foldl (fun s x =>
    let s := s.uncharge x.1 x.2
    let s := if x.1 % 3 = 1 then s else s.toBacking x.1 x.2
    { s with masters := s.masters.del x.1 }) s
  { s with dies := s.dies.map fun (x : Die) => { x with cores := x.cores.map fun (c : Core) =>
      { c with l1 := c.l1.filter fun l => !bufL1 asn b e ls l.key } } }

/-- Is the busy count of a buffer zero in every slot of the package (R238, R359, R381)? -/
def State.bufQuiet (s : State) (asn : BitVec 8) (b : BitVec 12) : Bool :=
  (List.finRange 4).all fun d => (List.finRange 64).all fun c => (List.finRange 2).all fun k =>
    match s.slotJob? d c k with
    | some j => j.asn != asn || j.busyOf b == 0
    | none => true

/-- Writes a segment entry on every live die and removes the buffer's TLB entries package-wide. -/
def State.putSeg (s : State) (asn : BitVec 8) (b : BitVec 12) (v : BitVec 256) : State :=
  let i := 4096 * asn.toNat + b.toNat
  let s := { s with dies := s.dies.map fun (x : Die) => if x.fenced then x else { x with segs := if v = 0 then x.segs.del i else x.segs.put i v } }
  s.dropTlb (List.finRange 4) fun t => t.asn == asn && t.buf == b

/-! ## SEGSET (R359) -/

/-- The values SEGSET refuses. Of entry 4,095 only LENGTH and the base are used. -/
def segBad (b : BitVec 12) (v : BitVec 256) : Bool :=
  let window := b == 4095
  let reserved := bits v 239 237 != 0 || bits v 223 196 != 0 || bits v 191 136 != 0 || (!window && bits v 123 89 != 0) || bits v 63 53 != 0
  b == 0 || (segLen v != 0 && (reserved || segLen v % 4096 != 0 || decide (2 ^ 52 < segLen v) ||
    (if window then decide (2 ^ 24 < bits v 127 64 + segLen v)
     else (!segHasRoot v && segKind v != 3) || (segHasRoot v && decide (Config.framesPerDie ≤ bits v 88 64)))))

/-- The root of a buffer as an entry names it: none where RVALID is 0 (R358). -/
def segRootOf (e : BitVec 256) : Option Nat := if segHasRoot e then some (segRoot e) else none

/-- Does the change need step 3: KIND, ROOT, HOME or SWM, or a smaller LENGTH? -/
def segFlushes (old new : BitVec 256) : Bool :=
  segLen old != 0 && (segKind old != segKind new || segRootOf old != segRootOf new || bits old 135 134 != bits new 135 134 ||
    old.getLsbD 130 != new.getLsbD 130 || decide (segLen new < segLen old))

/-- SEGSET: issue is held while the buffer's accesses drain. -/
def execSegset (h : Hdr) (g : Guard) (cb r : BitVec 5) (s : State) : Host.Outcome State Fault Refusal :=
  runGuarded (.segset h g cb r) h g always (fun s =>
    let c := s.readX 0 cb
    let b := c.extractLsb' 52 12
    let asn := c.extractLsb' 0 8
    let v := s.readX 4 (r + 3) ++ s.readX 3 (r + 2) ++ s.readX 2 (r + 1) ++ s.readX 1 r
    if segBad b v then .error { cause := .segBad }
    else
      let s := (s.updSys (whoDie s.cur) fun x => { x with hold := some (.segset b asn v) }).launchWord h.tks none [] .sysAccess
      .ok ({ s with held := s.held ++ [(asn, b)] }, .fall)) s

/-- Ends the hold of a system core: the accesses it held go on, its word completes. -/
def State.endHold (s : State) (d : DieId) (asn : BitVec 8) (b : BitVec 12) : State :=
  let s := { (s.updSys d fun x => { x with hold := none }) with held := s.held.erase (asn, b) }
  let w : Who := .sys d
  match (s.stream? w).bind fun st => st.flights.find? fun f => f.work == .sysAccess with
  | some f => s.complete w f
  | none => s

/-- SEGSET_APPLY (R359): the buffer is quiet; SEGSET flushes, writes the entry and releases the held accesses. -/
def execSegsetApply (d : DieId) (s : State) : Host.Outcome State Fault Refusal :=
  match (s.sysc d).hold with
  | some (.segset b asn v) =>
    if !s.live d || (s.sysc d).halted || !s.bufQuiet asn b then .next s
    else
      let old := s.seg d asn b
      let s := if b ≠ 4095 ∧ segFlushes old v then s.flushBuffer asn b old else s
      .next ((s.putSeg asn b v).endHold d asn b)
  | _ => .next s

/-! ## MIGRATE (R238) -/

/-- RESERVED lines of an UNBACKED buffer. -/
def State.reservedLines (s : State) (asn : BitVec 8) (b : BitVec 12) : Nat :=
  (s.masters.filter fun e => e.1 % 3 == 1 && e.1 / 3 / 2 ^ 45 == 4096 * asn.toNat + b.toNat && !e.2.lost).length

/-- MIGRATE: its checks, and the hold of the buffer. -/
def execMigrate (h : Hdr) (g : Guard) (buf die : BitVec 5) (s : State) : Host.Outcome State Fault Refusal :=
  runGuarded (.migrate h g buf die) h g always (fun s =>
    let c := s.readX 0 buf
    let b := c.extractLsb' 52 12
    let asn := c.extractLsb' 0 8
    let t : DieId := Fin.ofNat 4 (bits (s.readX 1 die) 1 0)
    let d := whoDie s.cur
    let e := s.seg d asn b
    let short := s.pinned t + s.reservedLines asn b - pinBound
    if b = 0 ∨ b = 4095 ∨ segLen e = 0 ∨ segKind e = 1 ∨ segKind e = 2 then .error { cause := .segBad }
    else if !s.live t then .error { cause := .badTarget }
    else if segHome e = t then asNop h s
    else if segKind e = 3 ∧ short ≠ 0 then .error { cause := .ubReserve, info1 := BitVec.ofNat 64 short }
    else
      let s := (s.updSys d fun x => { x with hold := some (.migrate b asn t) }).launchWord h.tks none [] .sysAccess
      .ok ({ s with held := s.held ++ [(asn, b)] }, .fall)) s

/-- One master line moves from its old home to die t, whose cache makes room for it (R12), or, clean and unlocked, is dropped; its mark goes to
its frame (R389, R391). -/
def State.moveLine (s : State) (t : DieId) (key : Nat) (l : Line) : State :=
  if l.dirty = 0 ∧ l.ub = false ∧ l.locks = [] then { s with masters := s.masters.del key }.toBacking key l
  else
    let asn := key / 3 / 2 ^ 45 / 4096
    let s := if l.ub ∧ l.charge.isNone then
        (s.updDie l.home fun x => { x with standing := x.standing.put asn (x.standing.getD asn 0 - 1) }).updDie t
          fun x => { x with standing := x.standing.put asn (x.standing.getD asn 0 + 1) }
      else s
    { s with masters := s.masters.del key }.enter key { l with home := t }

/-- A copy that locks hold in a die while its line's home moves to die t: on t itself its locks pass to the line there (R230, R238). -/
def State.moveCopy (s : State) (d t : DieId) (key : Nat) (c : Copy) : State :=
  if d ≠ t then s.updDie d fun x => { x with copies := x.copies.put key { c with home := t } }
  else
    let l := (s.masters.get? key).getD (s.newLine key t)
    (s.updDie d fun x => { x with copies := x.copies.del key }).enter key { l with home := t, locks := c.locks ++ l.locks }

/-- MIGRATE_MOVE (R238): the buffer is quiet; copies fold into the masters, the lines move, HOME is rebound, the held accesses go on. -/
def execMigrateMove (d : DieId) (s : State) : Host.Outcome State Fault Refusal :=
  match (s.sysc d).hold with
  | some (.migrate b asn t) =>
    if !s.live d || (s.sysc d).halted || !s.bufQuiet asn b then .next s
    else
      let e := s.seg d asn b
      let mine := bufLine asn b e (s.segLeaves e)
      let s := s.foldCopies mine
      let s := (s.masters.filter fun x => mine x.1 && x.2.home != t).foldl (fun s x => s.moveLine t x.1 x.2) s
      let s := (List.finRange 4).foldl (fun s d => ((s.die d).copies.filter fun x => mine x.1).foldl (fun s x => s.moveCopy d t x.1 x.2) s) s
      .next ((s.putSeg asn b (setBits e 134 2 t.val)).endHold d asn b)
  | _ => .next s

/-! ## FRAME (R237) -/

/-- The address of the first entry a page spans in the table of level k (0 the lowest), from the table of the level below the top; every
pointer above is valid. -/
def State.leafPlace (s : State) (o k : Nat) : Nat → Nat → Option Nat
  | 0, _ => none
  | n + 1, table =>
    let a := table + 8 * (o / 2 ^ (12 + 8 * n) % 256)
    if n = k then some a
    else
      let e := s.pte a
      if e.getLsbD 0 && !e.getLsbD 1 && n != 0 then s.leafPlace o k n (bits e 10 9 * 2 ^ 37 + 4096 * bits e 36 12 + (if e.getLsbD 11 then 2048 else 0))
      else none

/-- Does an entry at level k hold a valid leaf or a valid pointer? -/
def State.entryTaken (s : State) (k a : Nat) : Bool :=
  let e := s.pte a
  e.getLsbD 0 && (if e.getLsbD 1 then (leafOf e true).isSome else k != 0)

/-- FRAME. -/
def execFrame (h : Hdr) (g : Guard) (va fs : BitVec 5) (s : State) : Host.Outcome State Fault Refusal :=
  runGuarded (.frame h g va fs) h g always (fun s =>
    let a := (s.readX 0 va).toNat
    let f := s.readX 1 fs
    let n := bits f 63 60
    let asn := f.extractLsb' 52 8
    let die : DieId := Fin.ofNat 4 (bits f 51 50)
    let frame := bits f 24 0
    let b : BitVec 12 := BitVec.ofNat 12 (a / 2 ^ 52)
    let o := a % 2 ^ 52
    let e := s.seg (whoDie s.cur) asn b
    let size := 4096 * 4 ^ n
    if b = 0 ∨ b = 4095 ∨ segLen e = 0 ∨ segKind e ≠ 3 ∨ segLen e < o + size ∨ segHasRoot e = false then .error { cause := .segBad }
    else if o % size ≠ 0 ∨ frame % 4 ^ n ≠ 0 then .error { cause := .align }
    else match s.leafPlace o (n / 4) 5 (segRoot e) with
      | none => .error { cause := .xlateFatal }
      | some p =>
        let spans := (List.range (4 ^ (n % 4))).map fun i => p + 8 * i
        if spans.any fun q => s.entryTaken (n / 4) q then .error { cause := .xlateFatal }
        else
          let leaf := frame * 4096 + die.val * 512 + (if segW e then 128 else 0) + 64 + 4 * n + 3
          let s := spans.foldl (fun s q => s.physWrite q (leBytes 8 leaf)) s
          let s := s.frameLines asn b o size (die.val * 2 ^ 37 + frame * 4096) (segHome e)
          let s := s.dropTlb (List.finRange 4) fun t => t.asn == asn && t.buf == b && decide (t.first < o + size ∧ o < t.first + 4096 * 4 ^ t.leaf.size)
          .ok (s.launchWord h.tks none [] .sysAccess, .fall)) s

/-! ## ROUTEW (R366, R367) -/

/-- The bits of a table entry that are not reserved. -/
def routeMask (keys : Bool) : Word := if keys then 0x800000000000FFFF else 0x80000000000FFFFF

/-- Writes an entry of the routing or key table into one die's replica; a destination whose DPORT changes with packets still out makes new
ORD packets to it wait (R367). -/
def State.putRoute (s : State) (d : DieId) (keys : Bool) (i : Nat) (v : Word) : State :=
  let x := s.die d
  if keys then s.updDie d fun x => { x with keys := if v = 0 then x.keys.del i else x.keys.put i v }
  else
    let pkg := BitVec.ofNat 13 i
    let moved := bits (x.routes.getD i 0) 19 16 != bits v 19 16 && s.remoteOut.any fun o => o.ord && o.die == d && o.pkg == pkg
    s.updDie d fun x => { x with
      routes := if v = 0 then x.routes.del i else x.routes.put i v
      rerouted := if moved then pkg :: x.rerouted else x.rerouted }

/-- ROUTEW: the issuing die's replica is written at issue, the others before it completes. -/
def execRoutew (h : Hdr) (g : Guard) (idx r : BitVec 5) (s : State) : Host.Outcome State Fault Refusal :=
  runGuarded (.routew h g idx r) h g always (fun s =>
    let i := s.readX 0 idx
    let keys := i.getLsbD 16
    let d := whoDie s.cur
    let x := s.die d
    let n := if keys then bits i 7 0 else bits i 12 0
    let m := s.readX 2 (r + 1)
    let old := if keys then x.keys.getD n 0 else x.routes.getD n 0
    let new := (old &&& ~~~m) ||| (s.readX 1 r &&& m)
    if x.lockstat.getLsbD (if keys then 1 else 0) then .error { cause := .locked, info0 := zx64 (BitVec.ofBool keys) }
    else if i.toNat ≠ n + (if keys then 2 ^ 16 else 0) then .error { cause := .badTarget, info0 := i }
    else if new &&& ~~~(routeMask keys) ≠ 0 then .error { cause := .badTarget, info0 := new }
    else .ok ((s.putRoute d keys n new).launchWord h.tks none [] (.route keys n new), .fall)) s

/-- ROUTEW ends: every live die has the entry. -/
def State.routeLand (s : State) (w : Who) (f : Flight) (keys : Bool) (i : Nat) (v : Word) : State :=
  (((List.finRange 4).filter fun e => e != whoDie w && s.live e).foldl (fun s e => s.putRoute e keys i v) s).complete w f

/-! ## LOCKDOWN and ERET -/

/-- LOCKDOWN (R215). -/
def execLockdown (h : Hdr) (g : Guard) (mask16 : BitVec 16) (s : State) : Host.Outcome State Fault Refusal :=
  runGuarded (.lockdown h g mask16) h g always (fun s =>
    asNop h (s.updDie (whoDie s.cur) fun x => { x with lockstat := x.lockstat ||| mask16.extractLsb' 0 5 })) s

/-- ERET (R212): the return from an exception. As the last word of an active body it takes the loop-end step, whose count stands (R122); the pc is
TRAPPC (log 119). -/
def execEret (h : Hdr) (s : State) : Host.Outcome State Fault Refusal :=
  runWord (.eret h) h always (fun s =>
    let pc := s.csrValue 0x01A
    .ok (((s.launchWord h.tks (some (s.now + 1)) [] .fixed).updStr Stream.loopEnd).exceptionReturn (whoDie s.cur), .jump pc)) s

/-! ## Events -/

/-- EVENT_ENTER (R210): a pending event enters the queue when space has freed. -/
def execEventEnter (d : DieId) (s : State) : Host.Outcome State Fault Refusal :=
  match (s.die d).evPend with
  | [] => .next s
  | e :: r =>
    if (s.die d).evq.length < 512 then .next (s.updDie d fun x => { x with evq := x.evq ++ [e], evPend := r, sys := x.sys.wake })
    else .next s

/-- SYSTEM_CORE_WAKE (R211): a system core suspended at END goes on once its queue holds an event. -/
def execSystemCoreWake (d : DieId) (s : State) : Host.Outcome State Fault Refusal :=
  .next (if (s.die d).evq = [] then s else s.updSys d SysCore.wake)

end Sys2Proof.Machine
end

