-- ==== Sys2Proof/Machine/Contain.lean ====
section
/-! DEFINITION. Audit, quarantine and spares, row-group sparing, power, temperature and refresh: AUDIT_REPLAY, CORE_SPARED, ROWGROUP_SPARE,
POWER_WINDOW, THERMAL_SAMPLE, ROW_GROUP_REFRESH (spec/18_containment.md R390, R395-R397, spec/16_tables.md R362, R363, spec/19_links.md R414,
R415). -/

namespace Sys2Proof.Machine
open Sys2Proof

/-! ## Audit (R395, R396) -/

/-- A stop of the whole job by the audit engine, with the entry's offset (R396, R202): a resident job stops, a saved one takes the cause and
its event; one being placed goes back to being saved with it; one already stopping ends with it. -/
def State.auditStop (s : State) (d : DieId) (r : Nat) (off : Nat) : State :=
  match s.job? d r with
  | none => s
  | some j =>
    let st : Stop := { cause := .auditMismatch, info0 := BitVec.ofNat 64 off }
    let now := s.jobNow d j
    let cause (j : Job) : Job := { j with
      trapCause := BitVec.ofBool true ++ Cause.auditMismatch.code, trapStream := 7, trapPc := 0, trapInfo0 := BitVec.ofNat 64 off, trapInfo1 := 0
      asked := false, suspendAsked := false }
    match j.phase with
    | .running => s.updJob d r fun j => j.trap 7 0 st (s.bare (jobSite d r)) now
    | .stopping .kill _ | .stopping .abort _ => s
    | .stopping _ t =>
      -- in the cycle of a pre-emption the stop is taken, and the distributor chooses again (R38)
      let s := match j.home with
        | some (c, k) => s.dropPreempt (.eng d c k .c) now
        | none => s
      s.updJob d r fun j => { (cause j) with phase := .stopping .trap t }
    | .saving _ t => s.updJob d r fun j => { (cause j) with phase := .saving .trap t }
    | _ =>
      let s := match j.home with
        | some (c, k) => s.vacate d c k
        | none => s
      (s.updJob d r fun j => { (cause j) with phase := .saved, home := none, banks := [] }).queueEvent d
        (eventRecord 1 true Cause.auditMismatch.code 0xFF (handleOf j.gen j.idx))

/-- The job of a log entry, when it is still resident or saved. -/
def State.auditJob (s : State) (d : DieId) (e : AuditEntry) : Option Nat :=
  (s.byHandle d (e.handle.zeroExtend 64)).bind fun p => p.2.map fun _ => p.1

/-- Does an entry wait for a replay that its grove's spare can make (R395)? -/
def State.replayable (s : State) (d : DieId) (e : AuditEntry) : Bool :=
  let y := s.grove d (groveOf (Fin.ofNat 64 e.core))
  !e.kept && !y.spareUsed && !y.auditOff

/-- The signature a replay of an entry forms (R394, R395): its K-steps added from zero. -/
def AuditEntry.replay (e : AuditEntry) : BitVec 32 := (e.steps.foldl (fun (t : Tile) p => (t.addStep p.1 p.2 false).1) {}).signature

/-- AUDIT_REPLAY (R395): the log's first entry whose grove's spare can replay it is replayed there, twice when the first signature differs. `first` and
`second` are what an error of the spare core itself makes of the two signatures, 0 where it makes none: inputs (log 60). -/
def execAuditReplay (d : DieId) (first second : BitVec 32) (s : State) : Host.Outcome State Fault Refusal :=
  match (s.die d).audit.find? (s.replayable d) with
  | none => .next s
  | some e =>
    let c : CoreId := Fin.ofNat 64 e.core
    let g := groveOf c
    if !s.live d then .next s
    else
      let drop (s : State) : State := s.updDie d fun x => { x with audit := x.audit.filter fun y => y != e }
      if e.replay ^^^ first = e.sig then .next (drop s)
      else if second = first then
        let s := s.updDie d fun x => { x with audit := x.audit.map fun y => if y = e then { y with kept := true } else y }
        let s := match s.auditJob d e with
          | some r => s.auditStop d r e.offset
          | none => s.queueEvent d (eventRecord 5 true Cause.auditMismatch.code c.val e.handle)
        .next (s.quarantine d c)
      else
        .next (((drop s).updGrove d g fun y => { y with auditOff := true }).noticeMs d Cause.auditSkip.code.toNat .auditSkip c.val)

/-- CORE_SPARED (R397, R13): the grove's spare takes a quarantined core's place, once that core is empty, if it passes its self-test. -/
def execCoreSpared (d : DieId) (g : GroveId) (passed : Bool) (s : State) : Host.Outcome State Fault Refusal :=
  match (List.finRange 64).find? fun c => groveOf c == g && (s.core d c).quarantined with
  | none => .next s
  | some c =>
    if !s.live d || (s.grove d g).spareUsed || (s.core d c).slots.any Option.isSome then .next s
    else
      let s := s.updGrove d g fun y => { y with spareUsed := true }
      if !passed then .next s
      else
        let s := s.updCore d c fun x => { x with quarantined := false, badWindows := [], l1 := [], tlb := [], tcache := [], array := [] }
        .next (s.notice d .coreSpared c.val 0)

/-- Has a row group given 8 corrected errors within 1 s of global time, or an uncorrectable one (R390)? -/
def Die.groupDue (x : Die) (g : Nat) (now : Nat) : Bool :=
  x.groupBad.contains g || decide (8 ≤ ((x.groupErrs.getD g []).filter fun t => decide (now ≤ t + 1000 * msUnits)).length)

/-- ROWGROUP_SPARE (R390): a row group that gave its errors moves to a spare one, which has given none; without a spare it stays, without a
notice. Its contents and addresses do not change. -/
def execRowgroupSpare (d : DieId) (g : Fin 16384) (s : State) : Host.Outcome State Fault Refusal :=
  let x := s.die d
  if !s.live d || x.spareGroups == 0 || !x.groupDue g.val s.time then .next s
  else
    let s := s.updDie d fun x => { x with
      spareGroups := x.spareGroups - 1, groupErrs := x.groupErrs.del g.val, groupBad := x.groupBad.filter (· != g.val) }
    .next (s.notice d .rowgroupSpared 0xFF 0)

/-! ## Power (R414) -/

/-- Is a region of the die in thermal throttling (R415)? -/
def Die.hot (x : Die) : Bool := x.regions.any fun r => r.2.hot

/-- DUTY after a window (R414); forced to 4 while a region throttles (R415). -/
def nextDuty (hot : Bool) (duty avg lim : Nat) : Nat :=
  if hot then 4
  else if lim < avg then max 2 (duty - 1)
  else if avg * 100 < lim * 95 then min 8 (duty + 1)
  else duty

/-- POWER_WINDOW (R414): a window of 1 ms has ended with an average of so many W. -/
def execPowerWindow (d : DieId) (watts : BitVec 12) (s : State) : Host.Outcome State Fault Refusal :=
  let x := s.die d
  if !s.live d || decide (s.time / msUnits ≤ x.pwrWindow) then .next s
  else
    let duty := nextDuty x.hot x.duty.toNat watts.toNat x.pwrlim.toNat
    let beyond := decide (x.pwrlim < watts)
    let s := s.updDie d fun y => { y with
      pwravg := watts, duty := BitVec.ofNat 4 duty, pwrWindow := s.time / msUnits, capping := beyond || (x.capping && decide (duty < 8)) }
    .next (if beyond && !x.capping then { (s.notice d .powerCap 0xFF 0) with msix := s.msix ||| 0x20#6 } else s)

/-! ## Temperature and refresh (R362, R363, R415) -/

/-- The band of a temperature (R362). -/
def bandOf (t : Nat) : Nat :=
  if t ≤ 45 then 0 else if t ≤ 60 then 1 else if t ≤ 75 then 2 else if t ≤ 85 then 3 else if t ≤ 95 then 4 else if t ≤ 105 then 5
  else if t ≤ 114 then 6 else 7

/-- A region after a sample: a rise takes effect at once, a fall after 1 ms in one lower band; it throttles from 115 to below 110 degrees. -/
def Region.sample (r : Region) (t now : Nat) : Region :=
  let b := bandOf t
  let hot := decide (115 ≤ t) || (r.hot && decide (110 ≤ t))
  if r.band ≤ b then { temp := t, band := b, lower := none, hot := hot }
  else
    let since := match r.lower with
      | some (l, u) => if l = b then u else now
      | none => now
    if since + msUnits ≤ now then { temp := t, band := b, lower := none, hot := hot }
    else { r with temp := t, lower := some (b, since), hot := hot }

/-- One region's sample with what it raises: a monitor sample, REFRESH_HOT on entering band 7. -/
def State.sampleRegion (s : State) (d : DieId) (i t : Nat) : State :=
  let r := (s.die d).regions.getD i {}
  let n := r.sample t s.time
  let s := (s.updDie d fun x => { x with regions := x.regions.put i n }).sample d 5 i t
  if n.band = 7 ∧ r.band ≠ 7 then s.notice d .refreshHot 0xFF 0 else s

/-- A thermal trip (R415): die 0 resets the package, another die is fenced with its TRIP bit set. -/
def State.thermalTrip (s : State) (d : DieId) : State :=
  if d = 0 then s.packageReset true
  else
    let s := s.fence d
    { s with trip := s.trip ||| (1#4 <<< d.val) }

/-- Is a die fenced by a thermal trip? Its understory is still refreshed by its bands (R415). -/
def State.tripped (s : State) (d : DieId) : Bool := d != 0 && !s.live d && s.trip.getLsbD d.val

/-- THERMAL_SAMPLE (R362, R415): the 64 us sample of the die's regions; temperatures are inputs. Of a tripped die they set the bands alone. -/
def execThermalSample (d : DieId) (temps : List Nat) (s : State) : Host.Outcome State Fault Refusal :=
  let at_ := s.time / stampUnits
  if !(s.live d || s.tripped d) || decide (at_ ≤ (s.die d).thermAt) then .next s
  else if s.tripped d then
    .next (s.updDie d fun x => { x with
      thermAt := at_
      regions := ((temps.take 256).zipIdx).foldl (fun m p => m.put p.2 ((m.getD p.2 {}).sample p.1 s.time)) x.regions })
  else
    let was := (s.die d).hot
    let s := s.updDie d fun x => { x with thermAt := at_ }
    let s := ((temps.take 256).zipIdx).foldl (fun s p => s.sampleRegion d p.2 p.1) s
    let hot := (s.die d).hot
    let s := if hot then s.updDie d fun x => { x with duty := 4 } else s
    let s := { s with msix := if hot && !was then s.msix ||| 0x20#6 else s.msix }
    .next (if (temps.take 256).any fun t => decide (Config.tTrip ≤ t) then s.thermalTrip d else s)

/-- ROW_GROUP_REFRESH (R363): a group whose age has reached half its window is refreshed and restamped. -/
def execRowGroupRefresh (d : DieId) (g : Fin 16384) (s : State) : Host.Outcome State Fault Refusal :=
  let w := bandWindow ((s.die d).regions.getD (g.val / 64) {}).band
  if !(s.live d || s.tripped d) || decide (s.rowAge d g.val * 64 < w * 500) then .next s
  else
    let now := BitVec.ofNat 16 (s.time / stampUnits)
    .next (s.updDie d fun x => { x with stamps := x.stamps.put g.val now })

end Sys2Proof.Machine
end

