-- ==== Sys2Proof/Machine/Fabric.lean ====
section
/-! DEFINITION. Dies and packages: lanes, fencing, links, link-failure notices, packets that arrive, and the fabric manager's writes: LANE_REPAIR,
DIE_FENCE, LINK_DOWN, LINK_UP, LINK_FAILURE_NOTICE, PACKET_INGRESS, FABRIC_MANAGER_WRITE (spec/19_links.md R401, R403-R408, R412, R413,
spec/16_tables.md R365, R367, spec/10_memories_spaces.md R239, R240). -/

namespace Sys2Proof.Machine
open Sys2Proof

/-! ## Lanes and fencing (R403, R404) -/

/-- The two dies of a boundary, in R10's order: 0-1, 2-3, 0-2, 1-3. -/
def boundaryDies (b : Fin 4) : DieId × DieId := if b = 0 then (0, 1) else if b = 1 then (2, 3) else if b = 2 then (0, 2) else (1, 3)

/-- LANE_REPAIR (R403): a lane of module m fails: a spare replaces it, with a notice, or the module is retired. -/
def execLaneRepair (b : Fin 4) (m : Fin 80) (s : State) : Host.Outcome State Fault Refusal :=
  let i := 80 * b.val + m.val
  let left := s.lanes.getD i 4
  if s.retiredModules.contains i then .next s
  else if left = 0 then .next { s with retiredModules := i :: s.retiredModules }
  else
    let d := (boundaryDies b).1
    .next ({ s with lanes := s.lanes.put i (left - 1) }.notice (if s.live d then d else s.master) .laneRepair 0xFF 0)

/-- Has a boundary no module left? -/
def State.boundaryLost (s : State) (b : Fin 4) : Bool := (List.range 80).all fun m => s.retiredModules.contains (80 * b.val + m)

/-- Has a die lost every module of both of its boundaries? -/
def State.cutOff (s : State) (d : DieId) : Bool :=
  (List.finRange 4).all fun b => ((boundaryDies b).1 != d && (boundaryDies b).2 != d) || s.boundaryLost b

/-- DIE_FENCE (R404, R410): a die that is cut off, that halted by MACHINE_CHECK, or that fails to train at start-up, is fenced; die 0 resets the
package instead, or, at start-up, goes to recovery. -/
def execDieFence (d : DieId) (s : State) : Host.Outcome State Fault Refusal :=
  if !s.live d || !(s.cutOff d || (s.sysc d).halted || s.boot == 0) then .next s
  else if d ≠ 0 then .next (s.fence d)
  else if s.boot = 0 then .next { s with boot := 7 }
  else .next (s.packageReset false)

/-! ## Links (R407, R408, R240) -/

/-- Is a packet that is out lost with its target, of which a notice came (R240)? One of a mapping to the incarnation named is not. -/
def RemoteOut.lost (o : RemoteOut) (pkg : BitVec 13) (incarn : Option (BitVec 16)) : Bool := o.pkg == pkg && !(o.write && o.app.isNone && incarn == some o.incarn)

/-- A notice of a package reaches this one: its TLB entries and the L1 lines read from it go; accesses to it meet a dead target but for
mappings to the incarnation it names. A write still out there is dropped and reported, and its releases take effect (R240, R269). -/
def State.packageGone (s : State) (pkg : BitVec 13) (incarn : Option (BitVec 16)) : State :=
  let mine (x : Die) (t : TlbEntry) : Bool :=
    let e := x.segs.getD (4096 * t.asn.toNat + t.buf.toNat) 0
    segKind e == 2 && segTarget e == pkg
  let far (l : L1Line) : Bool := l.key % 4 == 1 && l.key / 4 / 2 ^ 56 == pkg.toNat
  let lost := s.remoteOut.filter fun o => o.lost pkg incarn
  let s := { s with
    remoteOut := s.remoteOut.filter fun o => !o.lost pkg incarn
    deadPkgs := (pkg, incarn) :: s.deadPkgs.filter fun p => p.1 != pkg
    dies := s.dies.map fun (x : Die) => { x with cores := x.cores.map fun (c : Core) =>
      { c with tlb := c.tlb.filter fun t => !mine x t, l1 := c.l1.filter fun l => !far l } } }
  (lost.filter (·.write)).foldl (fun s o => s.goneOf o.die (if o.wid.1 = 5 then none else some o.jrec) pkg o.incarn true) s

/-- Floods a notice on the ports of the tree, but for the one it came by (R408). -/
def State.flood (s : State) (from_ : Fin 16) (pkg : BitVec 13) (incarn : Option (BitVec 16)) : State :=
  { s with outbox := s.outbox ++ (s.treePorts.filter (· != from_)).map fun p => Out.notice p pkg incarn }

/-- A notice by a port, or of this package's own making: once each (R408). -/
def State.takeNotice (s : State) (p : Fin 16) (pkg : BitVec 13) (incarn : Option (BitVec 16)) : State :=
  if s.noticed.contains (pkg, incarn) || pkg == s.packageId then s
  else
    let keep := s.noticed.filter fun n => !(n.1 == pkg && n.2.isNone)
    ({ s with noticed := (pkg, incarn) :: keep }.flood p pkg incarn).packageGone pkg incarn

/-- LINK_DOWN (R407, R408): a port has had no valid flit for 1 us: the event counts, and a notice goes out for the package at its far end. -/
def execLinkDown (p : Fin 16) (far : BitVec 13) (s : State) : Host.Outcome State Fault Refusal :=
  let d : DieId := Fin.ofNat 4 (p.val / 4)
  if s.linkDown.getLsbD p.val || !s.live d then .next s
  else .next (({ s with linkDown := s.linkDown ||| (1#16 <<< p.val) }.count d (0x120 + 0x40 * (p.val % 4)) 1).takeNotice p far none)

/-- LINK_UP (R407): the port receives valid flits again. -/
def execLinkUp (p : Fin 16) (s : State) : Host.Outcome State Fault Refusal :=
  .next { s with linkDown := s.linkDown &&& ~~~(1#16 <<< p.val) }

/-- LINK_FAILURE_NOTICE (R408, R240): forwarded once, and the target's TLB entries go. -/
def execLinkFailureNotice (p : Fin 16) (pkg : BitVec 13) (incarn : Option (BitVec 16)) (s : State) : Host.Outcome State Fault Refusal :=
  .next (if s.live (Fin.ofNat 4 (p.val / 4)) && !s.linkDown.getLsbD p.val then s.takeNotice p pkg incarn else s)

/-! ## Packets that arrive (R365, R239, R401) -/

/-- Does an ingress port accept a packet's key (R365)? -/
def Die.keyAccepts (x : Die) (p : Nat) (key : BitVec 16) : Bool :=
  (List.range 16).any fun k =>
    let e := x.keys.getD (16 * p + k) 0
    e.getLsbD 63 && e.extractLsb' 0 15 == key.extractLsb' 0 15 && (e.getLsbD 15 || key.getLsbD 15)

/-- Are n bytes at a device physical address in installed frames of a live die (R401)? -/
def State.physOk (s : State) (a n : Nat) : Bool :=
  decide (a / 2 ^ 37 < 4 ∧ a % 2 ^ 37 + n ≤ 4096 * Config.framesPerDie) && s.live (Fin.ofNat 4 (a / 2 ^ 37))

/-- An answer to the sender of a packet. -/
def State.reply (s : State) (pkg : BitVec 13) (l : List (Byte × Bool)) : State :=
  { s with outbox := s.outbox ++ [Out.reply pkg (l.map (·.1)) (l.any (·.2))] }

/-- The new value an atomic of another package writes. -/
def packetValue (op : BitVec 5) (size : BitVec 2) (x cmp : Word) (old : Nat) : Nat :=
  let o := op.toNat
  let mode := cmp.toNat / 8
  if o < 8 then (atomicValue o size.toNat 0 old x.toNat cmp.toNat).1
  else if o = 8 then (atomicValue 8 size.toNat mode old x.toNat 0).1
  else
    let f : BitVec 5 := BitVec.ofNat 5 (o - 9)
    let b := cmp.toNat % 8
    let e := old / 2 ^ b % 2 ^ fmtWidth f
    old - e * 2 ^ b + (elementAdd f mode e x.toNat).1 * 2 ^ b

/-- Who sent a message packet: the sender's die, core and slot in its package. -/
def senderOf (pkg : BitVec 13) (slot : Nat) : MqReq :=
  { pkg := pkg, die := Fin.ofNat 4 (slot / 128), core := Fin.ofNat 64 (slot / 2), slot := slot % 2 }

/-- The packet that a port's answer to die d is about: the oldest that a test picks, of the job in the slot the answer names before one that has
left it. -/
def State.answered (s : State) (d : DieId) (pkg : BitVec 13) (here : Option Nat) (p : RemoteOut → Bool) : Option RemoteOut :=
  let mine (o : RemoteOut) : Bool := o.die == d && o.pkg == pkg && p o
  ((s.remoteOut.filter mine).find? fun o => some o.jrec == here).or (s.remoteOut.find? mine)

/-- A port's answer to a credit request: a grant, or the refusal of a job's MSEND (R323, R324). -/
def State.answerRequest (s : State) (d : DieId) (pkg : BitVec 13) (here : Option Nat) (tgt : Word) (gen : BitVec 8) (esz n : Nat) : State :=
  let out := s.answered d pkg here fun o => o.wid == (1, creditRequest tgt.toNat)
  let s := match out with
    | some o => s.ackOut d fun x => x.n == o.n
    | none => s
  match (out.map (·.jrec)).or here with
  | some r => if esz = 0 then s.refuseMsend d r tgt .mqBad else s.grantCredits d r tgt gen esz n true
  | none => s.returnCredits d { tgt := tgt, gen := gen, esz := esz, n := n, asked := false }

/-- A port refuses an append of a job: its credit is void, or it ends with MQ_BAD (R320, R323). -/
def State.appendRefused (s : State) (d : DieId) (pkg : BitVec 13) (here : Option Nat) (tgt : Word) (gen : BitVec 8) (esz : Nat) : State :=
  match s.answered d pkg here fun o => o.app.any fun a => a.tgt == tgt && a.refused.isNone with
  | none => s
  | some o =>
    let s := { s with remoteOut := s.remoteOut.map fun (x : RemoteOut) =>
      if x.n = o.n then { x with app := x.app.map fun a => { a with refused := some (if esz = 0 then some .mqBad else none) } } else x }
    if esz = 0 then s else s.grantCredits d o.jrec tgt gen esz 0 false

/-- An accepted packet's effect. Accesses made for another incarnation, or to frames this package does not serve, get no answer (R239). -/
def State.accept (s : State) (q : Packet) : State :=
  match q.body with
  | .load a n =>
    if q.incarn = s.incarnation ∧ s.physOk a n then (s.reply q.src (s.physBytes a n)).touchFrame a n else s
  | .store a data poison =>
    if q.incarn = s.incarnation ∧ s.physOk a data.length then (s.physWrite a data poison).touchFrame a data.length else s
  | .atomic op a size x cmp poison =>
    let n := 2 ^ size.toNat
    if q.incarn = s.incarnation ∧ s.physOk a n then
      let l := s.physBytes a n
      let old := l.any (·.2)
      let s := (s.reply q.src l).touchFrame a n
      -- an element add writes a poisoned element poisoned, any other atomic leaves a poisoned place alone (R259)
      if old && decide (op.toNat < 9) then s
      else s.physWrite a (leBytes n (packetValue op size x cmp (leNat (l.map (·.1))))) (poison || old)
    else s
  | .credit d c k slot => if s.live d then s.updMq d c k fun m => { m with reqs := m.reqs ++ [senderOf q.src slot] } else s
  | .append d c k gen slot data =>
    if s.live d then s.updMq d c k fun m => { m with appends := m.appends ++ [{ sender := senderOf q.src slot, gen := gen, data := data, tag := none }] } else s
  | .grant d c slot tgt gen esz n asked =>
    let here := s.slotRec? d c (Fin.ofNat 2 slot)
    if asked then s.answerRequest d q.src here tgt gen esz n
    else if n = 0 then s.appendRefused d q.src here tgt gen esz
    else match here with
      | some r => s.grantCredits d r tgt gen esz n false
      | none => s.returnCredits d { tgt := tgt, gen := gen, esz := esz, n := n, asked := false }
  | .back d c k gen n => s.updMq d c k fun m => if m.gen = gen then { m with held := m.held - n } else m

/-- PACKET_INGRESS (R365): an ingress port checks a packet's key, and for an access its sender's domain, and counts it; one to a row
group that is due waits (R363). -/
def execPacketIngress (p : Fin 16) (pkt : Packet) (s : State) : Host.Outcome State Fault Refusal :=
  let d : DieId := Fin.ofNat 4 (p.val / 4)
  let base := 0x100 + 0x40 * (p.val % 4)
  let access := match pkt.body with
    | .load .. | .store .. | .atomic .. => true
    | _ => false
  let waits := match pkt.body with
    | .load a n => s.frameWaits a n
    | .store a data _ => s.frameWaits a data.length
    | .atomic _ a size .. => s.frameWaits a (2 ^ size.toNat)
    | _ => false
  let near := !access || pkt.src.extractLsb' 10 3 == s.packageId.extractLsb' 10 3
  if !s.live d || s.linkDown.getLsbD p.val || waits then .next s
  else
    let s := s.count d (base + 8) 1
    .next (if (s.die d).keyAccepts p.val pkt.key && near then s.accept pkt else s.count d (base + 0x10) 1)

/-! ## The fabric manager (R412) -/

/-- FABRIC_MANAGER_WRITE (R412, R413): within its session the fabric manager writes a routing entry, a key, LFTREE or an egress rate on every
live die, whatever LOCKSTAT says. -/
def execFabricManagerWrite (table : Fin 4) (i : Nat) (v : Word) (s : State) : Host.Outcome State Fault Refusal :=
  let open_ := match s.spdm.fabric with
    | some (_, true) => true
    | _ => false
  let dies := (List.finRange 4).filter s.live
  if !open_ then .next s
  else if table = 0 then .next (if 8192 ≤ i then s else dies.foldl (fun s d => s.putRoute d false i (v &&& routeMask false)) s)
  else if table = 1 then .next (if 256 ≤ i then s else dies.foldl (fun s d => s.putRoute d true i (v &&& routeMask true)) s)
  else if table = 2 then .next (s.putLftree (v.extractLsb' 0 16))
  else .next (if 256 ≤ i then s else dies.foldl (fun s d => s.updDie d fun x => { x with egrate := x.egrate.put i (v &&& 0xFFFF) }) s)

end Sys2Proof.Machine
end

