-- ==== Sys2Proof/Machine/HostLink.lean ====
section
/-! DEFINITION. The host: CXL.mem accesses, CXL.cache snoops, HSDATA and the registers of BAR0 (spec/19_links.md R398-R402,
spec/15_queues_launch.md R340). -/

namespace Sys2Proof.Machine
open Sys2Proof

/-- DEVSTAT (R400). -/
def State.devstat (s : State) : Word :=
  let bitsOf (p : Die → Bool) : BitVec 4 := BitVec.ofBool (p s.dies[3]) ++ BitVec.ofBool (p s.dies[2]) ++ BitVec.ofBool (p s.dies[1]) ++ BitVec.ofBool (p s.dies[0])
  (0 : BitVec 48) ++ s.trip ++ BitVec.ofBool (s.dies.any fun x => x.lockstat.getLsbD 2) ++ s.boot ++ bitsOf (·.fenced) ++ bitsOf (·.sys.halted)

/-- What a host read of 8 bytes at an offset of BAR0 gives: the identity, DEVSTAT, HSADDR, HSSTAT and the launch queues' registers (R340, R399, R400). A locked
die's registers but TAIL, a fenced die's but HEAD (R349), and what no register has a value for give none, nor does a port that is down (R398). A read of
HSDATA is HSDATA_READ. -/
def State.hostRegister (s : State) (o : Nat) : Option Word :=
  if s.cxlDown then none
  else if o = 0x20000 then some s.devstat
  else if o < 0x10000 ∧ o % 8 = 0 then some (Config.identityWord o s.packageId)
  else if !s.hostOpen then none
  else if o = 0x20100 then some s.hsaddr
  else if o = 0x20110 then some (zx64 s.hsstat)
  else if 0x10000 ≤ o ∧ o < 0x11000 ∧ o % 8 = 0 then
    let d : DieId := Fin.ofNat 4 ((o - 0x10000) / 0x400)
    let x := s.die d
    if (x.lockstat.getLsbD 2 && o % 0x40 != 0x20) || (!s.live d && o % 0x40 != 0x28) then none
    else (x.lqs[o % 0x400 / 0x40]?).map fun q => q.read (o % 0x40)
  else none

/-! ## CXL.mem (R401) -/

/-- Does CXL.mem serve the place: an installed frame of a live die, at or above its HMFLOOR? -/
def State.hostServes (s : State) (a n : Nat) : Bool :=
  s.physOk a n && decide ((s.die (Fin.ofNat 4 (a / 2 ^ 37))).hmfloor.toNat ≤ a % 2 ^ 37 / 4096)

/-- An access HMFLOOR refuses counts as a remote drop of the die; one beyond the frames does not. -/
def State.hostDropped (s : State) (a n : Nat) : State := if s.physOk a n then s.count (Fin.ofNat 4 (a / 2 ^ 37)) 0x040 1 else s

/-- HOST_MEM_ACCESS (R401): a read of n bytes, or a write, of device physical memory by the host; one of a row group that is due waits (R363). -/
def execHostMemAccess (a n : Nat) (data : Option (List Byte)) (s : State) : Host.Outcome State Fault Refusal :=
  let m := (data.map List.length).getD n
  let serves := s.hostServes a m
  if s.cxlDown || (serves && s.frameWaits a m) then .next s
  else match data with
  | none => .next (if serves then { s with hostRead := s.physBytes a n }.touchFrame a n else { s with hostRead := List.replicate n (0xFF, true) }.hostDropped a n)
  | some l => .next (if serves then (s.physWrite a l).touchFrame a l.length else s.hostDropped a l.length)

/-! ## CXL.cache (R402) -/

/-- HOST_SNOOP (R402): a host read of a line of its memory receives the current bytes and leaves die 0's copy clean; a host write invalidates
that copy. -/
def execHostSnoop (a : Nat) (data : Option (List Byte)) (s : State) : Host.Outcome State Fault Refusal :=
  let keys := ((pieces a (match data with
    | none => 128 - a % 128
    | some l => l.length)).map fun p => hostKey p.1).eraseDups
  let cached := keys.filter fun k => (s.masters.get? k).isSome
  if s.cxlDown || cached.any (s.rowWaits 0) then .next s
  else
    let s := keys.foldl State.writeBack (cached.foldl (fun s k => s.restamp 0 k) s)
    match data with
    | none =>
      let l := s.homeLine (hostKey a)
      .next { s with hostRead := (bytesOf l.1 (a % 128) (128 - a % 128)).map fun b => (b, l.2) }
    | some l =>
      let whole := (pieces a l.length).filterMap fun p => if p.2 = 128 then some (p.1 / 128) else none
      .next { s with
        masters := s.masters.filter fun e => !keys.contains e.1
        hostMem := s.hostMem.writes a l
        hostPoison := s.hostPoison.filter fun k => !whole.contains k }

/-! ## HSDATA (R400) -/

/-- The die HSADDR names. -/
def State.hsDie (s : State) : DieId := Fin.ofNat 4 (bits s.hsaddr 63 62)
/-- The system address HSADDR holds. -/
def State.hsPlace (s : State) : Nat := bits s.hsaddr 39 0
/-- Is the address one no access of HSDATA reaches? -/
def State.hsOut (s : State) : Bool := s.hsPlace % 8 != 0 || !sysMapped s.hsDie s.hsPlace || !s.live s.hsDie

/-- What HSDATA gives for an address no access reaches: the spec names its status only, so a free value (log 38). -/
def State.hsOpen (s : State) : Word := (s.bare (2 ^ 13 + 2080)).1

/-- HSDATA_READ (R400): a host read of HSDATA reads the system address space. -/
def execHsdataRead (s : State) : Host.Outcome State Fault Refusal :=
  if !s.hostOpen || s.sysWaits s.hsDie s.hsPlace then .next s
  else if (s.die s.hsDie).lockstat.getLsbD 2 then .next { s with hsdata := BitVec.allOnes 64, hsstat := 3 }
  else if s.hsOut then .next { s with hsdata := s.hsOpen, hsstat := 1 }
  else match s.sysRead s.hsDie s.hsPlace with
    | .done v t => .next { t with hsdata := v, hsstat := 0 }
    | .unmapped => .next { s with hsdata := s.hsOpen, hsstat := 1 }
    | _ => .next { s with hsdata := 0, hsstat := 2 }

/-- HSDATA_WRITE (R400): a host write of HSDATA writes the system address space. -/
def execHsdataWrite (v : Word) (s : State) : Host.Outcome State Fault Refusal :=
  if !s.hostOpen || s.sysWaits s.hsDie s.hsPlace then .next s
  else if (s.die s.hsDie).lockstat.getLsbD 2 then .next { s with hsstat := 3 }
  else if s.hsOut then .next { s with hsstat := 1 }
  else if s.sysWriteHeld s.hsDie s.hsPlace then .next s
  else match s.sysWrite s.hsDie s.hsPlace v with
    | .done _ t => .next { t with hsstat := 0 }
    | .locked => .next { s with hsstat := 3 }
    | .unmapped => .next { s with hsstat := 1 }
    | .refused => .next { s with hsstat := 2 }

end Sys2Proof.Machine
end

