-- ==== Sys2Proof/Machine/Boot.lean ====
section
/-! DEFINITION. Reset, start-up and attestation: PACKAGE_RESET, POWER_LOSS, FIRMWARE_VERIFY, RECOVERY_IMAGE, the nine SPDM requests and
MEASUREMENT_EXTEND (spec/19_links.md R409-R412, spec/13_memories_canopy.md R280, R300). The bytes of SPDM messages are not in the spec: a
reply here is its payload (notes/assumptions/14.md). -/

namespace Sys2Proof.Machine
open Sys2Proof

/-! ## The trees (R300) -/

/-- The 4,096 bytes of data leaf g: logical rows 64 g to 64 g + 63. -/
def Column.dataLeaf (x : Column) (g : Nat) : List Byte :=
  shake256 (0#8 :: leBytes 4 g ++ (List.range 64).flatMap fun i => leBytes 64 (x.row (64 * g + i)).toNat) 32
/-- Map leaf h: entries 1,024 h to 1,024 h + 1,023, four bytes each. -/
def Column.mapLeaf (x : Column) (h : Nat) : List Byte :=
  shake256 (4#8 :: leBytes 4 h ++ (List.range 1024).flatMap fun i => leBytes 4 (x.entryOf (1024 * h + i)).toNat) 32
def Column.dataRoot (x : Column) : List Byte := treeNode 1#8 x.dataLeaf 16 0
def Column.mapRoot (x : Column) : List Byte := treeNode 5#8 x.mapLeaf 12 0

/-- A die's canopy root and its row-map root: the columns stand by grove and then by logical core, which is the order of core numbers. -/
def Die.canopyRoot (x : Die) : List Byte := shake256 (2#8 :: x.columns.toList.flatMap Column.dataRoot) 32
def Die.rowMapRoot (x : Die) : List Byte := shake256 (3#8 :: x.columns.toList.flatMap Column.mapRoot) 32

/-! ## Measurements (R411) -/

/-- A 64-byte digest as it is stored. -/
def digest (m : List Byte) : BitVec 512 := BitVec.ofNat 512 (leNat (shake256 m 64))

/-- Takes the measurements of the die roots, 4 to 11. -/
def State.measureRoots (s : State) : State :=
  { s with measures := (List.finRange 4).foldl (fun m (d : DieId) =>
      (m.put (4 + d.val) (digest (s.dies[d]).canopyRoot)).put (8 + d.val) (digest (s.dies[d]).rowMapRoot)) s.measures }

/-- The measurements the hardware takes at start-up. -/
def State.measureAll (s : State) (image : List Byte) : State :=
  let m := s.measures
  let m := (m.put 1 (digest Config.bootRom)).put 2 (digest image)
  let m := m.put 3 (digest (Config.fuseState ++ leBytes 2 s.packageId.toNat))
  ({ s with measures := m }).measureRoots

/-- MEASUREMENT_EXTEND (R411): index 16 + i becomes SHAKE256(old, data); after LOCKDOWN bit 4 the system core stops with LOCKED. -/
def execMeasurementExtend (d : DieId) (i : Fin 16) (data : List Byte) (s : State) : Host.Outcome State Fault Refusal :=
  if !s.live d || !(s.sysc d).started then .next s
  else if (s.die d).lockstat.getLsbD 4 then .next (s.sysTrap d (s.sysc d).stream.pc (stopOf .locked))
  else
    let old := s.measures.getD (16 + i.val) 0
    .next { s with measures := s.measures.put (16 + i.val) (digest (leBytes 64 old.toNat ++ data)) }

/-! ## Reset and power (R409, R280) -/

/-- PACKAGE_RESET (R409). -/
def execPackageReset (trip : Bool) (s : State) : Host.Outcome State Fault Refusal := .next (s.packageReset trip)

/-- POWER_LOSS (R280, R291): as a package reset, with the contents of LPDDR6 gone; each canopy request is left with all of its swings or
none, and what it programmed goes back to the pool. Whether a die's dependence counters are found cleared or as they stood is a free choice (R424,
R426; log 120). -/
def execPowerLoss (s : State) : Host.Outcome State Fault Refusal :=
  let t := s.packageReset false
  .next { t with
    lpddr := [], lpPoison := []
    dies := Vector.ofFn fun d => if Config.freeNat s.free (2 ^ 29 + d.val) % 2 = 0 then t.dies[d] else { t.dies[d] with dcs := (s.dies[d]).dcs } }

/-! ## Start-up (R410) -/

/-- The program of an image: 8-byte little-endian words from word 0 (R104, R76). -/
def imageWords (image : List Byte) : List Word :=
  (List.range (image.length / 8)).map fun i => BitVec.ofNat 64 (leNat ((image.drop (8 * i)).take 8))

/-- The copy of its system area a column uses from power-on: the newer of those that pass their ECC (R280). -/
def Column.goodArea (x : Column) : Option (Fin 2) :=
  let new : Fin 2 := if x.areas[(0 : Fin 2)].seq < x.areas[(1 : Fin 2)].seq then 1 else 0
  if !x.areas[new].ue then some new else if !x.areas[1 - new].ue then some (1 - new) else none

/-- Step 4: each column's system area is read; a column with no valid copy reads as all EMPTY, and CANOPY_UE is recorded. -/
def State.readAreas (s : State) : State :=
  (List.finRange 4).foldl (fun s (d : DieId) => (List.finRange 64).foldl (fun s (c : CoreId) =>
    match (s.column d c).goodArea with
    | some a => s.updColumn d c fun y => { y with area := a, lost := false }
    | none => if (s.column d c).lost then s else (s.updColumn d c fun y => { y with lost := true }).notice d .canopyUe c.val 0) s) s

/-- Step 5: the understory, the data-queue SRAM and the scratchpads are zero; start-up has no job whose queues and scratchpad these would be. -/
def State.zeroStores (s : State) : State :=
  { s with
    masters := []
    dies := s.dies.map fun (x : Die) => { x with copies := [], audit := [], recs := x.recs.map fun (r : Rec) => { r with area := [] } } }

/-- Step 6: the firmware starts on every live die's system core, at word 0. -/
def State.startFirmware (s : State) (image : List Byte) : State :=
  { s with
    boot := 2
    dies := s.dies.map fun (x : Die) =>
      if x.fenced then x else { x with sys := { x.sys with prog := imageWords image, started := true, stream := freshStream } } }

/-- FIRMWARE_VERIFY (R410 steps 1 to 6): from BOOT 0 the boot ROM reads the image, and the CXL port trains or does not (R398; free choice, log 16);
from BOOT 1 it checks the image it has read, or the mailbox has left, and starts firmware. Of an image the program's bytes stand in `image`, its
signature and version beside it (log 16). -/
def execFirmwareVerify (image sig : List Byte) (version : Nat) (s : State) : Host.Outcome State Fault Refusal :=
  if s.boot = 0 then
    let s := { s with cxlDown := Config.freeNat s.free (2 ^ 29 + 4) % 2 = 1 }
    .next (if 2 ^ 26 < image.length then { s with boot := 7, firmware := none } else { s with boot := 1, firmware := some image })
  else if s.boot = 1 then
    let image := s.firmware.getD image
    if Config.slhVerify Config.firmwareKey image sig = false ∨ version < Config.minVersion then .next { s with boot := 7, firmware := none }
    else .next (({ s with firmware := some image }.readAreas.zeroStores.measureAll image).startFirmware image)
  else .next s

/-- Firmware overrides the fused package identity, once, while LOCKDOWN bit 0 is clear everywhere (R406). -/
def State.overrideIdentity (s : State) (id : BitVec 13) : State :=
  if s.idOverridden || s.boot.toNat < 2 || s.boot = 7 || s.dies.any (fun (x : Die) => x.lockstat.getLsbD 0) then s
  else { s with packageId := id, idOverridden := true }

/-- RECOVERY_IMAGE (R410): the mailbox takes an image for a new verification. -/
def execRecoveryImage (image : List Byte) (s : State) : Host.Outcome State Fault Refusal :=
  if s.boot ≠ 7 ∨ s.cxlDown = true ∨ 2 ^ 26 < image.length then .next s else .next { s with boot := 1, firmware := some image }

/-! ## SPDM (R411, R412) -/

/-- A request answered: request and reply enter the transcript. -/
def State.answer (s : State) (req reply : List Byte) : State :=
  { s with spdm := { s.spdm with transcript := s.spdm.transcript ++ req ++ reply, reply := reply } }

/-- A request that comes out of order gets no payload. -/
def State.unexpected (s : State) : State := { s with spdm := { s.spdm with reply := [] } }

/-- The reply to a request once the version and the algorithms are agreed. -/
def State.answerIf (s : State) (ok : Bool) (req : List Byte) (reply : Unit → List Byte) : State := if ok then s.answer req (reply ()) else s.unexpected

/-- GET_VERSION (R411): version 1.3; it begins a new transcript. -/
def execGetVersion (req : List Byte) (s : State) : Host.Outcome State Fault Refusal :=
  .next ({ s with spdm := { s.spdm with version := some 0x13, algorithms := false, transcript := [] } }.answer req [0x13])

/-- GET_CAPABILITIES (R411). -/
def execGetCapabilities (req : List Byte) (s : State) : Host.Outcome State Fault Refusal :=
  .next (s.answerIf s.spdm.version.isSome req fun _ => [])

/-- NEGOTIATE_ALGORITHMS (R411): SLH-DSA-SHAKE-256s, as a vendor-defined algorithm. -/
def execNegotiateAlgorithms (req : List Byte) (s : State) : Host.Outcome State Fault Refusal :=
  .next (if s.spdm.version.isSome then { s with spdm := { s.spdm with algorithms := true } }.answer req [] else s.unexpected)

/-- GET_DIGESTS (R411): the digest of the certificate chain. -/
def execGetDigests (req : List Byte) (s : State) : Host.Outcome State Fault Refusal :=
  .next (s.answerIf s.spdm.algorithms req fun _ => shake256 Config.certificate 64)

/-- GET_CERTIFICATE (R411). -/
def execGetCertificate (req : List Byte) (s : State) : Host.Outcome State Fault Refusal :=
  .next (s.answerIf s.spdm.algorithms req fun _ => Config.certificate)

/-- CHALLENGE (R411): the transcript signed under the device key. -/
def execChallenge (req : List Byte) (s : State) : Host.Outcome State Fault Refusal :=
  .next (s.answerIf s.spdm.algorithms req fun _ => Config.slhSign (s.spdm.transcript ++ req))

/-- The measurements in index order: index, then 64 bytes. -/
def State.measureBytes (s : State) : List Byte := s.measures.flatMap fun e => BitVec.ofNat 8 e.1 :: leBytes 64 e.2.toNat

/-- GET_MEASUREMENTS (R411): a request whose first byte is not zero asks for a new measurement, and the device reads the roots again. -/
def execGetMeasurements (req : List Byte) (s : State) : Host.Outcome State Fault Refusal :=
  if !s.spdm.algorithms then .next s.unexpected
  else
    let s := if req.head?.getD 0 = 0 then s else s.measureRoots
    .next (s.answer req (s.measureBytes ++ Config.slhSign (s.spdm.transcript ++ req ++ s.measureBytes)))

/-- KEY_EXCHANGE (R411, R412): a session's key; the fabric manager's chain must end in the root that FMROOT names. -/
def execKeyExchange (fabric : Bool) (req chain : List Byte) (s : State) : Host.Outcome State Fault Refusal :=
  if !s.spdm.algorithms || (if fabric then digest (Config.rootCertificate chain) != Config.fmRoot else s.cxlDown) then .next s.unexpected
  else
    let s := s.answer req (Config.slhSign (s.spdm.transcript ++ req))
    let ses : Option (List Byte × Bool) := some (Config.sessionKey s.spdm.sessions s.spdm.transcript, false)
    .next { s with spdm := { s.spdm with
      sessions := s.spdm.sessions + 1
      mailbox := if fabric then s.spdm.mailbox else ses
      fabric := if fabric then ses else s.spdm.fabric } }

/-- FINISH (R411, R412): a request that proves the key opens the session. -/
def execFinish (fabric : Bool) (req : List Byte) (s : State) : Host.Outcome State Fault Refusal :=
  match if fabric then s.spdm.fabric else s.spdm.mailbox with
  | none => .next s.unexpected
  | some (key, _) =>
    if Config.finishProves key s.spdm.transcript req then
      let s := s.answer req []
      .next { s with spdm := { s.spdm with
        mailbox := if fabric then s.spdm.mailbox else some (key, true)
        fabric := if fabric then some (key, true) else s.spdm.fabric } }
    else .next s.unexpected

end Sys2Proof.Machine
end

