-- ==== Sys2Proof/Machine/Complete.lean ====
section
/-! DEFINITION. The steps that end most words: RESULT_LANDING, DATA_RETURN and WRITE_ACKNOWLEDGEMENT (spec/02_jobs.md R32, R33,
spec/06_registers_scalar.md R110, spec/11_memories_access.md R242, spec/12_memories_ordering.md R269). -/

namespace Sys2Proof.Machine
open Sys2Proof

/-! ## RESULT_LANDING -/

/-- A TRAP completes, with its loop-end step, and stops (R117): its stream issues nothing in this cycle, so that the job goes on at TRAPPC
(log 132). While its job winds down its stop is not recorded (R41, R203). -/
def State.landTrap (s : State) (w : Who) (f : Flight) (n : BitVec 3) (code : BitVec 16) : State :=
  let late : Bool := match s.jobOf? w with
    | some j => !j.issuing (s.timeOf w)
    | none => false
  let s := (s.complete w f).updStream w Stream.loopEnd
  let pc := match s.stream? w with
    | some st => st.pc
    | none => 0
  let st : Stop := { cause := swTrap n, info0 := code.zeroExtend 64 }
  if late then s else match w with
    | .eng .. => (s.openGate w).stopAt w pc st f.id
    | .sys _ => s.stopAt w pc st f.id

/-- A DEPSET's write, once what it releases is acknowledged (R371, R374). -/
def State.landDepset (s : State) (w : Who) (f : Flight) (die : BitVec 2) (ctr : BitVec 12) (v lrec : Word) : State :=
  let sys : Bool := match w with
    | .sys _ => true
    | .eng .. => false
  if s.released w f 3 then (s.putDc (Fin.ofNat 4 die.toNat) ctr.toNat (depsetDc v lrec (s.asnOf w) sys)).complete w f else s

/-- Writes of T's that end their word, or the stop of a place they cannot reach. -/
def State.landWrites (s : State) (w : Who) (f : Flight) (r : Except CopyStop State) : State :=
  match r with
  | .ok t => t.complete w f
  | .error e => e.halt s w f

/-- XFILL's writes and TQIN's, in their completion cycle (R317, R335). -/
def State.landMoves (s : State) (w : Who) (f : Flight) : State :=
  match f.work with
  | .xfill t v o => s.landWrites w f (s.fillWrite w t v o)
  | .tqin _ t o (some img) => s.landWrites w f (s.tqWrite w t o img)
  | _ => s

/-- The writes of XFILL or TQIN are acknowledged before its completion cycle (R317, R335): the word has then only that cycle to wait for. -/
def State.earlyWrites (s : State) (w : Who) (f : Flight) (r : Except CopyStop State) : State :=
  match r with
  | .ok n => n.updStream w fun st => st.updFlight f.id fun y => { y with work := .fixed }
  | .error e => e.halt s w f

/-- The writes of XFILL or TQIN are acknowledged, in its completion cycle or before it (R317, R335). -/
def State.moveStep (s : State) (w : Who) (f : Flight) : State :=
  if f.landed (s.timeOf w) then s.landMoves w f
  else match f.work with
    | .xfill t v o => s.earlyWrites w f (s.fillWrite w t v o)
    | .tqin _ t o (some img) => s.earlyWrites w f (s.tqWrite w t o img)
    | _ => s

/-- May a SEEDSCAN's results land: its job runs, or its last candidate was scored before the stop (R42)? -/
def State.seedMayLand (s : State) (w : Who) (f : Flight) : Bool :=
  s.mayStep w || (match s.jobOf? w with
    | none => true
    | some j => match j.phase with
      | .stopping _ t => f.landed t
      | _ => false)

/-- RESULT_LANDING (R32, R33): the result of a word lands at its cycle and the word completes. -/
def execResultLanding (w : Who) (id : Nat) (s : State) : Host.Outcome State Fault Refusal :=
  match s.flight? w id with
  | none => .next s
  | some f =>
    if f.halted then .next s
    else match f.work with
    | .sysRead a rd => .next (s.sysReadLand w f a rd)
    | .tlbinv cb rng scope => .next (s.tlbinvLand w f cb rng scope)
    | .route keys i v => .next (s.routeLand w f keys i v)
    | .xcancel k before bufs rec => .next (if f.landed (s.timeOf w) then s.cancelStep w f k.toNat before bufs rec else s)
    | .sysAccess => .next (if (s.sysc (whoDie w)).hold.isNone then s.complete w f else s)
    | .mrd z t fmt mode sat o done => .next (if s.mayStep w then s.mrdStep w f z t fmt mode sat o done else s)
    | _ =>
      if !f.landed (s.timeOf w) then .next s
      else match f.work with
        | .fixed | .tksend .. | .acq .. | .phase .. | .mma .. => .next (s.complete w f)
        | .hold => match w with
          | .sys _ => .next (s.holdOver w f)
          | .eng .. => .next s
        | .trap n code => .next (s.landTrap w f n code)
        | .depset die ctr v lrec => .next (s.landDepset w f die ctr v lrec)
        | .mopen .. | .mcvt .. => .next (s.landTile w f)
        | .xfill .. | .tqin .. => .next (s.landMoves w f)
        | .tqout q t o true => .next (s.tqAccept w f q t o)
        | .seedscan .. => .next (if s.seedMayLand w f then s.landSeed w f else s.seedProgress w f)
        | .seedfit .. => .next (s.landSeed w f)
        | _ => .next s

/-! ## WRITE_ACKNOWLEDGEMENT -/

/-- A store of the job is acknowledged: the watchdog starts afresh (R40). -/
def State.progress (s : State) (w : Who) : State := s.updJobOf w fun j => { j with stall := 0 }

/-- STX is performed and acknowledged (R249, R269). -/
def State.stxStep (s : State) (w : Who) (f : Flight) (va : Word) (data : List Byte) : State :=
  if !s.mayAccess w f [(va.toNat, data.length)] false then s
  else match s.writeVa w f.id va.toNat (data.map fun b => (b, false)) f.page with
    | .error (st, t) => (if st.cause = .ubNoframe then s else t).stopFlight w f st
    | .ok s => ((s.progress w).updJobOf w fun j => j.moved (bufOf va.toNat) data.length).completeAccess w f

/-- RWB, RINV or UBDISC acts on its whole range and completes (R236, R262). -/
def State.upkeepStep (s : State) (w : Who) (f : Flight) (va len : Word) (reads : Bool) (act : State → Except (Stop × State) State) : State :=
  if !s.mayAccess w f [(va.toNat, len.toNat)] reads then s
  else match act s with
    | .error (st, t) => t.stopFlight w f st
    | .ok s => s.completeAccess w f

/-- A stream's packet that is out, by its name. -/
def State.outOf (s : State) (w : Who) (id : Nat) (o : RemoteOut) : Bool := o.die == whoDie w && o.jrec == s.recOf w && o.wid == (whoNum w, id)

/-- The target of a remote write acknowledges it (R269), or its ingress port refuses the packet (R365): a store is lost like one to a dead target,
a credit request stops its instruction. -/
def State.remoteAck (s : State) (w : Who) (id : Nat) (lost : Bool) : State :=
  match s.remoteOut.find? (s.outOf w id) with
  | none => s
  | some o =>
    let t := s.ackOut (whoDie w) (s.outOf w id)
    if !o.write then (if lost then t.refuseMsend (whoDie w) (s.recOf w) (BitVec.ofNat 64 (id - creditRequest 0)) .partition else s)
    else if lost then (t.progress w).gone w o.pkg o.incarn true
    else t.progress w

/-- DATA_RETURN (R242): the read data of a word in flight returns. `got` holds what another package supplies; for a
word that is over, the lines PREF asked for (R263), or one byte where the target refused its write or credit request (R365). -/
def execDataReturn (w : Who) (id : Nat) (got : List Byte) (s : State) : Host.Outcome State Fault Refusal :=
  match s.flight? w id with
  | none =>
    let t := s.fillReturn w id got
    .next (if got.length = 1 then t.remoteAck w id true else t)
  | some f =>
    if f.halted || (f.work.buf?.any fun b => s.ordHeld w b) then .next s
    else match f.work with
      | .ldx va size sx d => .next (s.ldxStep w f va size sx d (some got))
      | .atomic op va size x cmp scope d => .next (s.atomicStep w f op va size x cmp scope d (some got))
      | .load q va bpr rows stride n done => .next (if !s.mayStep w then s else s.loadStep w f q va bpr rows stride n done (some got))
      | .index op dq iq t tnum isz n done cur =>
        if done = n || !s.mayStep w then .next s else .next (s.indexStep w f op dq iq t tnum isz n done cur (some got))
      | .probe .. | .lock .. => .next (s.completeAccess w f)
      | _ => .next s

/-- WRITE_ACKNOWLEDGEMENT (R242, R269): a word's write is performed and acknowledged, or its next part; for a word that is over, the target of its
remote write answers. -/
def execWriteAcknowledgement (w : Who) (id : Nat) (s : State) : Host.Outcome State Fault Refusal :=
  match s.flight? w id with
  | none => .next (s.remoteAck w id false)
  | some f =>
    if f.halted || (f.work.buf?.any fun b => s.ordHeld w b) then .next s
    else match f.work with
      | .stx va data => .next (s.stxStep w f va data)
      | .store q va bpr rows stride n done => .next (if s.mayStep w then s.storeStep w f q va bpr rows stride n done else s)
      | .index op _ _ _ _ _ n done _ => .next (if op ≠ 0 ∧ done = n then (s.progress w).completeAccess w f else s)
      | .wback inv va len scope level => .next (s.upkeepStep w f va len true fun s => s.backRange w inv va.toNat len.toNat scope level)
      | .ubdisc va len => .next (s.upkeepStep w f va len false fun s => s.discard w va.toNat len.toNat)
      | .msend q tgt n (some (gen, esz)) popped => .next (if s.mayStep w then s.msendStep w f q tgt n gen esz popped else s)
      | .xfill .. | .tqin .. => .next (s.moveStep w f)
      | .mrd z t fmt mode sat o done => .next (if s.mayStep w then s.mrdStep w f z t fmt mode sat o done else s)
      | .sysWrite a v => .next (s.sysWriteLand w f a v)
      | _ => .next s

end Sys2Proof.Machine
end

