-- ==== Sys2Proof/Machine/Scalar.lean ====
section
/-! DEFINITION. The scalar group: integer, predicate and scalar floating-point instructions (spec/06_registers_scalar.md R125-R136). -/

namespace Sys2Proof.Machine
open Sys2Proof

/-- One two-operand integer instruction with a register operand (R126): result f(a, b) lands after lat cycles (R110). -/
def intRR (i : Instr) (op lat : Nat) (h : Hdr) (g : Guard) (d s1 s2 : BitVec 5) (s : State) : Host.Outcome State Fault Refusal :=
  runGuarded i h g always (fun s => results h lat [.x d (intOp op (s.readX 0 s1) (s.readX 1 s2))] s) s

/-- One integer instruction with an immediate operand b (R126). -/
def intRI (i : Instr) (op lat : Nat) (h : Hdr) (g : Guard) (d s1 : BitVec 5) (b : Word) (s : State) : Host.Outcome State Fault Refusal :=
  runGuarded i h g always (fun s => results h lat [.x d (intOp op (s.readX 0 s1) b)] s) s

/-- One compare (R129): the condition of a and b written to a predicate a cycle after issue. -/
def cmpTo (i : Instr) (cond : Word → Word → Bool) (h : Hdr) (g : Guard) (pd : BitVec 3) (s1 : BitVec 5) (b : State → Word) (s : State) :
    Host.Outcome State Fault Refusal :=
  runGuarded i h g always (fun s => results h 1 [.p pd (cond (s.readX 0 s1) (b s))] s) s

/-- One predicate operation (R130). -/
def predOp (i : Instr) (f : Bool → Bool → Bool) (h : Hdr) (g : Guard) (pd ps1 ps2 : BitVec 3) (s : State) : Host.Outcome State Fault Refusal :=
  runGuarded i h g always (fun s => results h 1 [.p pd (f (s.readP 0 ps1) (s.readP 1 ps2))] s) s

/-- The operand of a scalar floating-point instruction (R132). -/
def fpArg (f : BitVec 5) (v : Word) : Val := fmtValue f (v.toNat % 2 ^ fmtWidth f)

/-- One scalar floating-point operation with flags (R133, R134): written after 4 cycles. -/
def fpOp (i : Instr) (h : Hdr) (g : Guard) (d : BitVec 5) (f : State → Nat × FlagSet) (s : State) : Host.Outcome State Fault Refusal :=
  runGuarded i h g always (fun s => let r := f s; results h 4 (.x d (BitVec.ofNat 64 r.1) :: flagEff r.2) s) s

/-- One floating-point compare (R135). -/
def fpCmp (i : Instr) (cond : Nat) (h : Hdr) (g : Guard) (pd : BitVec 3) (s1 s2 : BitVec 5) (fmt2 : BitVec 2) (s : State) :
    Host.Outcome State Fault Refusal :=
  runGuarded i h g always (fun s => results h 4 [.p pd (fpCond cond (fpArg (scalarFmt fmt2) (s.readX 0 s1)) (fpArg (scalarFmt fmt2) (s.readX 1 s2)))] s) s

/-- ADD (R126). -/
def execAdd (h : Hdr) (g : Guard) (d s1 s2 : BitVec 5) (s : State) : Host.Outcome State Fault Refusal := intRR (.add h g d s1 s2) 0 1 h g d s1 s2 s
/-- SUB (R126). -/
def execSub (h : Hdr) (g : Guard) (d s1 s2 : BitVec 5) (s : State) : Host.Outcome State Fault Refusal := intRR (.sub h g d s1 s2) 1 1 h g d s1 s2 s
/-- MUL (R126). -/
def execMul (h : Hdr) (g : Guard) (d s1 s2 : BitVec 5) (s : State) : Host.Outcome State Fault Refusal := intRR (.mul h g d s1 s2) 2 3 h g d s1 s2 s
/-- MULH (R126). -/
def execMulh (h : Hdr) (g : Guard) (d s1 s2 : BitVec 5) (s : State) : Host.Outcome State Fault Refusal := intRR (.mulh h g d s1 s2) 3 3 h g d s1 s2 s
/-- MULHU (R126). -/
def execMulhu (h : Hdr) (g : Guard) (d s1 s2 : BitVec 5) (s : State) : Host.Outcome State Fault Refusal := intRR (.mulhu h g d s1 s2) 4 3 h g d s1 s2 s
/-- DIV (R126). -/
def execDiv (h : Hdr) (g : Guard) (d s1 s2 : BitVec 5) (s : State) : Host.Outcome State Fault Refusal := intRR (.div h g d s1 s2) 5 20 h g d s1 s2 s
/-- DIVU (R126). -/
def execDivu (h : Hdr) (g : Guard) (d s1 s2 : BitVec 5) (s : State) : Host.Outcome State Fault Refusal := intRR (.divu h g d s1 s2) 6 20 h g d s1 s2 s
/-- REM (R126). -/
def execRem (h : Hdr) (g : Guard) (d s1 s2 : BitVec 5) (s : State) : Host.Outcome State Fault Refusal := intRR (.rem h g d s1 s2) 7 20 h g d s1 s2 s
/-- REMU (R126). -/
def execRemu (h : Hdr) (g : Guard) (d s1 s2 : BitVec 5) (s : State) : Host.Outcome State Fault Refusal := intRR (.remu h g d s1 s2) 8 20 h g d s1 s2 s
/-- AND (R126). -/
def execAnd (h : Hdr) (g : Guard) (d s1 s2 : BitVec 5) (s : State) : Host.Outcome State Fault Refusal := intRR (.and h g d s1 s2) 9 1 h g d s1 s2 s
/-- OR (R126). -/
def execOr (h : Hdr) (g : Guard) (d s1 s2 : BitVec 5) (s : State) : Host.Outcome State Fault Refusal := intRR (.or h g d s1 s2) 10 1 h g d s1 s2 s
/-- XOR (R126). -/
def execXor (h : Hdr) (g : Guard) (d s1 s2 : BitVec 5) (s : State) : Host.Outcome State Fault Refusal := intRR (.xor h g d s1 s2) 11 1 h g d s1 s2 s
/-- SHL (R126). -/
def execShl (h : Hdr) (g : Guard) (d s1 s2 : BitVec 5) (s : State) : Host.Outcome State Fault Refusal := intRR (.shl h g d s1 s2) 12 1 h g d s1 s2 s
/-- SHR (R126). -/
def execShr (h : Hdr) (g : Guard) (d s1 s2 : BitVec 5) (s : State) : Host.Outcome State Fault Refusal := intRR (.shr h g d s1 s2) 13 1 h g d s1 s2 s
/-- SAR (R126). -/
def execSar (h : Hdr) (g : Guard) (d s1 s2 : BitVec 5) (s : State) : Host.Outcome State Fault Refusal := intRR (.sar h g d s1 s2) 14 1 h g d s1 s2 s
/-- MIN (R126). -/
def execMin (h : Hdr) (g : Guard) (d s1 s2 : BitVec 5) (s : State) : Host.Outcome State Fault Refusal := intRR (.min h g d s1 s2) 15 1 h g d s1 s2 s
/-- MINU (R126). -/
def execMinu (h : Hdr) (g : Guard) (d s1 s2 : BitVec 5) (s : State) : Host.Outcome State Fault Refusal := intRR (.minu h g d s1 s2) 16 1 h g d s1 s2 s
/-- MAX (R126). -/
def execMax (h : Hdr) (g : Guard) (d s1 s2 : BitVec 5) (s : State) : Host.Outcome State Fault Refusal := intRR (.max h g d s1 s2) 17 1 h g d s1 s2 s
/-- MAXU (R126). -/
def execMaxu (h : Hdr) (g : Guard) (d s1 s2 : BitVec 5) (s : State) : Host.Outcome State Fault Refusal := intRR (.maxu h g d s1 s2) 18 1 h g d s1 s2 s
/-- SEL (R127). -/
def execSel (h : Hdr) (g : Guard) (d s1 s2 : BitVec 5) (sp : BitVec 3) (s : State) : Host.Outcome State Fault Refusal :=
  runGuarded (.sel h g d s1 s2 sp) h g always (fun s => results h 1 [.x d (if s.readP 2 sp then s.readX 0 s1 else s.readX 1 s2)] s) s
/-- CLZ (R127). -/
def execClz (h : Hdr) (g : Guard) (d s1 : BitVec 5) (s : State) : Host.Outcome State Fault Refusal :=
  runGuarded (.clz h g d s1) h g always (fun s => results h 1 [.x d (clz (s.readX 0 s1))] s) s
/-- CTZ (R127). -/
def execCtz (h : Hdr) (g : Guard) (d s1 : BitVec 5) (s : State) : Host.Outcome State Fault Refusal :=
  runGuarded (.ctz h g d s1) h g always (fun s => results h 1 [.x d (ctz (s.readX 0 s1))] s) s
/-- POPC (R127). -/
def execPopc (h : Hdr) (g : Guard) (d s1 : BitVec 5) (s : State) : Host.Outcome State Fault Refusal :=
  runGuarded (.popc h g d s1) h g always (fun s => results h 1 [.x d (popc (s.readX 0 s1))] s) s
/-- ADDI: the immediate is sign-extended (R126). -/
def execAddi (h : Hdr) (g : Guard) (d s1 : BitVec 5) (imm22 : BitVec 22) (s : State) : Host.Outcome State Fault Refusal :=
  intRI (.addi h g d s1 imm22) 0 1 h g d s1 (sx64 imm22) s
/-- ANDI: the immediate is sign-extended (R126). -/
def execAndi (h : Hdr) (g : Guard) (d s1 : BitVec 5) (imm22 : BitVec 22) (s : State) : Host.Outcome State Fault Refusal :=
  intRI (.andi h g d s1 imm22) 9 1 h g d s1 (sx64 imm22) s
/-- ORI: the immediate is sign-extended (R126). -/
def execOri (h : Hdr) (g : Guard) (d s1 : BitVec 5) (imm22 : BitVec 22) (s : State) : Host.Outcome State Fault Refusal :=
  intRI (.ori h g d s1 imm22) 10 1 h g d s1 (sx64 imm22) s
/-- XORI: the immediate is sign-extended (R126). -/
def execXori (h : Hdr) (g : Guard) (d s1 : BitVec 5) (imm22 : BitVec 22) (s : State) : Host.Outcome State Fault Refusal :=
  intRI (.xori h g d s1 imm22) 11 1 h g d s1 (sx64 imm22) s
/-- MULI: the immediate is sign-extended (R126). -/
def execMuli (h : Hdr) (g : Guard) (d s1 : BitVec 5) (imm22 : BitVec 22) (s : State) : Host.Outcome State Fault Refusal :=
  intRI (.muli h g d s1 imm22) 2 3 h g d s1 (sx64 imm22) s
/-- SHLI (R126). -/
def execShli (h : Hdr) (g : Guard) (d s1 : BitVec 5) (sh : BitVec 6) (s : State) : Host.Outcome State Fault Refusal :=
  intRI (.shli h g d s1 sh) 12 1 h g d s1 (zx64 sh) s
/-- SHRI (R126). -/
def execShri (h : Hdr) (g : Guard) (d s1 : BitVec 5) (sh : BitVec 6) (s : State) : Host.Outcome State Fault Refusal :=
  intRI (.shri h g d s1 sh) 13 1 h g d s1 (zx64 sh) s
/-- SARI (R126). -/
def execSari (h : Hdr) (g : Guard) (d s1 : BitVec 5) (sh : BitVec 6) (s : State) : Host.Outcome State Fault Refusal :=
  intRI (.sari h g d s1 sh) 14 1 h g d s1 (zx64 sh) s
/-- MOVI (R128). -/
def execMovi (h : Hdr) (d : BitVec 5) (imm31 : BitVec 31) (s : State) : Host.Outcome State Fault Refusal :=
  runWord (.movi h d imm31) h always (fun s => results h 1 [.x d (sx64 imm31)] s) s
/-- MOVHI: bits 63:31 replaced, bits 30:0 of its own D kept (R128). -/
def execMovhi (h : Hdr) (d : BitVec 5) (imm31 : BitVec 31) (s : State) : Host.Outcome State Fault Refusal :=
  runWord (.movhi h d imm31) h always
    (fun s => results h 1 [.x d ((imm31.signExtend 33 ++ (s.readX 0 d).extractLsb' 0 31 : BitVec 64))] s) s
/-- CEQ (R129). -/
def execCeq (h : Hdr) (g : Guard) (pd : BitVec 3) (s1 s2 : BitVec 5) (s : State) : Host.Outcome State Fault Refusal :=
  cmpTo (.ceq h g pd s1 s2) (fun a b => a == b) h g pd s1 (fun s => s.readX 1 s2) s
/-- CNE (R129). -/
def execCne (h : Hdr) (g : Guard) (pd : BitVec 3) (s1 s2 : BitVec 5) (s : State) : Host.Outcome State Fault Refusal :=
  cmpTo (.cne h g pd s1 s2) (fun a b => a != b) h g pd s1 (fun s => s.readX 1 s2) s
/-- CLT (R129). -/
def execClt (h : Hdr) (g : Guard) (pd : BitVec 3) (s1 s2 : BitVec 5) (s : State) : Host.Outcome State Fault Refusal :=
  cmpTo (.clt h g pd s1 s2) (fun a b => decide (a.toInt < b.toInt)) h g pd s1 (fun s => s.readX 1 s2) s
/-- CLTU (R129). -/
def execCltu (h : Hdr) (g : Guard) (pd : BitVec 3) (s1 s2 : BitVec 5) (s : State) : Host.Outcome State Fault Refusal :=
  cmpTo (.cltu h g pd s1 s2) (fun a b => decide (a.toNat < b.toNat)) h g pd s1 (fun s => s.readX 1 s2) s
/-- CLE (R129). -/
def execCle (h : Hdr) (g : Guard) (pd : BitVec 3) (s1 s2 : BitVec 5) (s : State) : Host.Outcome State Fault Refusal :=
  cmpTo (.cle h g pd s1 s2) (fun a b => decide (a.toInt ≤ b.toInt)) h g pd s1 (fun s => s.readX 1 s2) s
/-- CLEU (R129). -/
def execCleu (h : Hdr) (g : Guard) (pd : BitVec 3) (s1 s2 : BitVec 5) (s : State) : Host.Outcome State Fault Refusal :=
  cmpTo (.cleu h g pd s1 s2) (fun a b => decide (a.toNat ≤ b.toNat)) h g pd s1 (fun s => s.readX 1 s2) s
/-- CEQI (R129). -/
def execCeqi (h : Hdr) (g : Guard) (pd : BitVec 3) (s1 : BitVec 5) (imm22 : BitVec 22) (s : State) : Host.Outcome State Fault Refusal :=
  cmpTo (.ceqi h g pd s1 imm22) (fun a b => a == b) h g pd s1 (fun _ => sx64 imm22) s
/-- CNEI (R129). -/
def execCnei (h : Hdr) (g : Guard) (pd : BitVec 3) (s1 : BitVec 5) (imm22 : BitVec 22) (s : State) : Host.Outcome State Fault Refusal :=
  cmpTo (.cnei h g pd s1 imm22) (fun a b => a != b) h g pd s1 (fun _ => sx64 imm22) s
/-- CLTI (R129). -/
def execClti (h : Hdr) (g : Guard) (pd : BitVec 3) (s1 : BitVec 5) (imm22 : BitVec 22) (s : State) : Host.Outcome State Fault Refusal :=
  cmpTo (.clti h g pd s1 imm22) (fun a b => decide (a.toInt < b.toInt)) h g pd s1 (fun _ => sx64 imm22) s
/-- CGEI (R129). -/
def execCgei (h : Hdr) (g : Guard) (pd : BitVec 3) (s1 : BitVec 5) (imm22 : BitVec 22) (s : State) : Host.Outcome State Fault Refusal :=
  cmpTo (.cgei h g pd s1 imm22) (fun a b => decide (b.toInt ≤ a.toInt)) h g pd s1 (fun _ => sx64 imm22) s
/-- PAND (R130). -/
def execPand (h : Hdr) (g : Guard) (pd ps1 ps2 : BitVec 3) (s : State) : Host.Outcome State Fault Refusal := predOp (.pand h g pd ps1 ps2) (fun a b => a && b) h g pd ps1 ps2 s
/-- POR (R130). -/
def execPor (h : Hdr) (g : Guard) (pd ps1 ps2 : BitVec 3) (s : State) : Host.Outcome State Fault Refusal := predOp (.por h g pd ps1 ps2) (fun a b => a || b) h g pd ps1 ps2 s
/-- PXOR (R130). -/
def execPxor (h : Hdr) (g : Guard) (pd ps1 ps2 : BitVec 3) (s : State) : Host.Outcome State Fault Refusal := predOp (.pxor h g pd ps1 ps2) (fun a b => a != b) h g pd ps1 ps2 s
/-- PANDN (R130). -/
def execPandn (h : Hdr) (g : Guard) (pd ps1 ps2 : BitVec 3) (s : State) : Host.Outcome State Fault Refusal := predOp (.pandn h g pd ps1 ps2) (fun a b => a && !b) h g pd ps1 ps2 s
/-- PSET (R130). -/
def execPset (h : Hdr) (g : Guard) (pd : BitVec 3) (s1 : BitVec 5) (s : State) : Host.Outcome State Fault Refusal :=
  runGuarded (.pset h g pd s1) h g always (fun s => results h 1 [.p pd (s.readX 0 s1 != 0)] s) s
/-- PGET (R130). -/
def execPget (h : Hdr) (g : Guard) (d : BitVec 5) (ps1 : BitVec 3) (s : State) : Host.Outcome State Fault Refusal :=
  runGuarded (.pget h g d ps1) h g always (fun s => results h 1 [.x d (if s.readP 0 ps1 then 1 else 0)] s) s
/-- FADD (R133). -/
def execFadd (h : Hdr) (g : Guard) (d s1 s2 : BitVec 5) (fmt2 : BitVec 2) (s : State) : Host.Outcome State Fault Refusal :=
  fpOp (.fadd h g d s1 s2 fmt2) h g d (fun s => fpAdd (scalarFmt fmt2) s.rmode.toNat (fpArg (scalarFmt fmt2) (s.readX 0 s1)) (fpArg (scalarFmt fmt2) (s.readX 1 s2))) s
/-- FSUB (R133). -/
def execFsub (h : Hdr) (g : Guard) (d s1 s2 : BitVec 5) (fmt2 : BitVec 2) (s : State) : Host.Outcome State Fault Refusal :=
  fpOp (.fsub h g d s1 s2 fmt2) h g d (fun s => fpAdd (scalarFmt fmt2) s.rmode.toNat (fpArg (scalarFmt fmt2) (s.readX 0 s1)) (fpArg (scalarFmt fmt2) (s.readX 1 s2)).neg) s
/-- FMUL (R133). -/
def execFmul (h : Hdr) (g : Guard) (d s1 s2 : BitVec 5) (fmt2 : BitVec 2) (s : State) : Host.Outcome State Fault Refusal :=
  fpOp (.fmul h g d s1 s2 fmt2) h g d (fun s => fpMul (scalarFmt fmt2) s.rmode.toNat (fpArg (scalarFmt fmt2) (s.readX 0 s1)) (fpArg (scalarFmt fmt2) (s.readX 1 s2))) s
/-- FMIN (R134). -/
def execFmin (h : Hdr) (g : Guard) (d s1 s2 : BitVec 5) (fmt2 : BitVec 2) (s : State) : Host.Outcome State Fault Refusal :=
  fpOp (.fmin h g d s1 s2 fmt2) h g d (fun s => (fpMinMax (scalarFmt fmt2) false ((s.readX 0 s1).toNat % 2 ^ fmtWidth (scalarFmt fmt2)) ((s.readX 1 s2).toNat % 2 ^ fmtWidth (scalarFmt fmt2)), 0)) s
/-- FMAX (R134). -/
def execFmax (h : Hdr) (g : Guard) (d s1 s2 : BitVec 5) (fmt2 : BitVec 2) (s : State) : Host.Outcome State Fault Refusal :=
  fpOp (.fmax h g d s1 s2 fmt2) h g d (fun s => (fpMinMax (scalarFmt fmt2) true ((s.readX 0 s1).toNat % 2 ^ fmtWidth (scalarFmt fmt2)) ((s.readX 1 s2).toNat % 2 ^ fmtWidth (scalarFmt fmt2)), 0)) s
/-- FFMA: one rounding of S1 x S2 + S3 (R133). -/
def execFfma (h : Hdr) (g : Guard) (d s1 s2 : BitVec 5) (fmt2 : BitVec 2) (s3 : BitVec 5) (s : State) : Host.Outcome State Fault Refusal :=
  fpOp (.ffma h g d s1 s2 fmt2 s3) h g d
    (fun s => fpFma (scalarFmt fmt2) s.rmode.toNat (fpArg (scalarFmt fmt2) (s.readX 0 s1)) (fpArg (scalarFmt fmt2) (s.readX 1 s2)) (fpArg (scalarFmt fmt2) (s.readX 2 s3))) s
/-- FCVT (R136): FROM and TO beyond 0x08 stop with TYPE_BAD at issue. -/
def execFcvt (h : Hdr) (g : Guard) (d s1 : BitVec 5) (from5 to5 : BitVec 5) (rnd : BitVec 3) (sat fin : Bool) (s : State) : Host.Outcome State Fault Refusal :=
  runGuarded (.fcvt h g d s1 from5 to5 rnd sat fin) h g always (fun s =>
    if 8 < from5.toNat ∨ 8 < to5.toNat then
      .error { cause := .typeBad, info0 := BitVec.ofNat 64 (from5.toNat + to5.toNat * 32) }
    else
      let r := convert from5 to5 ((s.readX 0 s1).toNat % 2 ^ fmtWidth from5) (effMode rnd.toNat fin s.rmode) sat
      results h 3 (.x d (placeX to5 r.1) :: flagEff r.2) s) s
/-- FCEQ (R135). -/
def execFceq (h : Hdr) (g : Guard) (pd : BitVec 3) (s1 s2 : BitVec 5) (fmt2 : BitVec 2) (s : State) : Host.Outcome State Fault Refusal :=
  fpCmp (.fceq h g pd s1 s2 fmt2) 0 h g pd s1 s2 fmt2 s
/-- FCLT (R135). -/
def execFclt (h : Hdr) (g : Guard) (pd : BitVec 3) (s1 s2 : BitVec 5) (fmt2 : BitVec 2) (s : State) : Host.Outcome State Fault Refusal :=
  fpCmp (.fclt h g pd s1 s2 fmt2) 2 h g pd s1 s2 fmt2 s
/-- FCLE (R135). -/
def execFcle (h : Hdr) (g : Guard) (pd : BitVec 3) (s1 s2 : BitVec 5) (fmt2 : BitVec 2) (s : State) : Host.Outcome State Fault Refusal :=
  fpCmp (.fcle h g pd s1 s2 fmt2) 3 h g pd s1 s2 fmt2 s

end Sys2Proof.Machine
end

