-- ==== Sys2Proof/Machine/Dispatch.lean ====
section
/-! DEFINITION. The dispatch of every instruction and step to its meaning, one arm per constructor of Instr. -/

namespace Sys2Proof.Machine
open Sys2Proof

def exec (i : Instr) (s : State) : Host.Outcome State Fault Refusal :=
  match i with
  | .nop h => Sys2Proof.Machine.execNop h s
  | .prep h b off24 => Sys2Proof.Machine.execPrep h b off24 s
  | .prepr h b r_ => Sys2Proof.Machine.execPrepr h b r_ s
  | .br h g b => Sys2Proof.Machine.execBr h g b s
  | .brl h g b => Sys2Proof.Machine.execBrl h g b s
  | .loop h l r_ end16 => Sys2Proof.Machine.execLoop h l r_ end16 s
  | .loopi h l cnt18 end16 => Sys2Proof.Machine.execLoopi h l cnt18 end16 s
  | .lbrk h g l => Sys2Proof.Machine.execLbrk h g l s
  | .endw h => Sys2Proof.Machine.execEndw h s
  | .hold h g cyc24 => Sys2Proof.Machine.execHold h g cyc24 s
  | .trap h g code16 n => Sys2Proof.Machine.execTrap h g code16 n s
  | .mark h g tag16 => Sys2Proof.Machine.execMark h g tag16 s
  | .tksend h eng cnt => Sys2Proof.Machine.execTksend h eng cnt s
  | .tkwait h eng cnt => Sys2Proof.Machine.execTkwait h eng cnt s
  | .qpop h g d q size => Sys2Proof.Machine.execQpop h g d q size s
  | .qpush h g r_ q size => Sys2Proof.Machine.execQpush h g r_ q size s
  | .waitv h kind index cond mode arg => Sys2Proof.Machine.execWaitv h kind index cond mode arg s
  | .tsread h g d => Sys2Proof.Machine.execTsread h g d s
  | .csrr h g d csrn => Sys2Proof.Machine.execCsrr h g d csrn s
  | .csrw h g r_ csrn => Sys2Proof.Machine.execCsrw h g r_ csrn s
  | .csrx h g d r_ csrn => Sys2Proof.Machine.execCsrx h g d r_ csrn s
  | .add h g d s1 s2 => Sys2Proof.Machine.execAdd h g d s1 s2 s
  | .sub h g d s1 s2 => Sys2Proof.Machine.execSub h g d s1 s2 s
  | .mul h g d s1 s2 => Sys2Proof.Machine.execMul h g d s1 s2 s
  | .mulh h g d s1 s2 => Sys2Proof.Machine.execMulh h g d s1 s2 s
  | .mulhu h g d s1 s2 => Sys2Proof.Machine.execMulhu h g d s1 s2 s
  | .div h g d s1 s2 => Sys2Proof.Machine.execDiv h g d s1 s2 s
  | .divu h g d s1 s2 => Sys2Proof.Machine.execDivu h g d s1 s2 s
  | .rem h g d s1 s2 => Sys2Proof.Machine.execRem h g d s1 s2 s
  | .remu h g d s1 s2 => Sys2Proof.Machine.execRemu h g d s1 s2 s
  | .and h g d s1 s2 => Sys2Proof.Machine.execAnd h g d s1 s2 s
  | .or h g d s1 s2 => Sys2Proof.Machine.execOr h g d s1 s2 s
  | .xor h g d s1 s2 => Sys2Proof.Machine.execXor h g d s1 s2 s
  | .shl h g d s1 s2 => Sys2Proof.Machine.execShl h g d s1 s2 s
  | .shr h g d s1 s2 => Sys2Proof.Machine.execShr h g d s1 s2 s
  | .sar h g d s1 s2 => Sys2Proof.Machine.execSar h g d s1 s2 s
  | .min h g d s1 s2 => Sys2Proof.Machine.execMin h g d s1 s2 s
  | .minu h g d s1 s2 => Sys2Proof.Machine.execMinu h g d s1 s2 s
  | .max h g d s1 s2 => Sys2Proof.Machine.execMax h g d s1 s2 s
  | .maxu h g d s1 s2 => Sys2Proof.Machine.execMaxu h g d s1 s2 s
  | .sel h g d s1 s2 sp => Sys2Proof.Machine.execSel h g d s1 s2 sp s
  | .clz h g d s1 => Sys2Proof.Machine.execClz h g d s1 s
  | .ctz h g d s1 => Sys2Proof.Machine.execCtz h g d s1 s
  | .popc h g d s1 => Sys2Proof.Machine.execPopc h g d s1 s
  | .addi h g d s1 imm22 => Sys2Proof.Machine.execAddi h g d s1 imm22 s
  | .andi h g d s1 imm22 => Sys2Proof.Machine.execAndi h g d s1 imm22 s
  | .ori h g d s1 imm22 => Sys2Proof.Machine.execOri h g d s1 imm22 s
  | .xori h g d s1 imm22 => Sys2Proof.Machine.execXori h g d s1 imm22 s
  | .shli h g d s1 sh => Sys2Proof.Machine.execShli h g d s1 sh s
  | .shri h g d s1 sh => Sys2Proof.Machine.execShri h g d s1 sh s
  | .sari h g d s1 sh => Sys2Proof.Machine.execSari h g d s1 sh s
  | .muli h g d s1 imm22 => Sys2Proof.Machine.execMuli h g d s1 imm22 s
  | .movi h d imm31 => Sys2Proof.Machine.execMovi h d imm31 s
  | .movhi h d imm31 => Sys2Proof.Machine.execMovhi h d imm31 s
  | .ceq h g pd s1 s2 => Sys2Proof.Machine.execCeq h g pd s1 s2 s
  | .cne h g pd s1 s2 => Sys2Proof.Machine.execCne h g pd s1 s2 s
  | .clt h g pd s1 s2 => Sys2Proof.Machine.execClt h g pd s1 s2 s
  | .cltu h g pd s1 s2 => Sys2Proof.Machine.execCltu h g pd s1 s2 s
  | .cle h g pd s1 s2 => Sys2Proof.Machine.execCle h g pd s1 s2 s
  | .cleu h g pd s1 s2 => Sys2Proof.Machine.execCleu h g pd s1 s2 s
  | .ceqi h g pd s1 imm22 => Sys2Proof.Machine.execCeqi h g pd s1 imm22 s
  | .cnei h g pd s1 imm22 => Sys2Proof.Machine.execCnei h g pd s1 imm22 s
  | .clti h g pd s1 imm22 => Sys2Proof.Machine.execClti h g pd s1 imm22 s
  | .cgei h g pd s1 imm22 => Sys2Proof.Machine.execCgei h g pd s1 imm22 s
  | .pand h g pd ps1 ps2 => Sys2Proof.Machine.execPand h g pd ps1 ps2 s
  | .por h g pd ps1 ps2 => Sys2Proof.Machine.execPor h g pd ps1 ps2 s
  | .pxor h g pd ps1 ps2 => Sys2Proof.Machine.execPxor h g pd ps1 ps2 s
  | .pandn h g pd ps1 ps2 => Sys2Proof.Machine.execPandn h g pd ps1 ps2 s
  | .pset h g pd s1 => Sys2Proof.Machine.execPset h g pd s1 s
  | .pget h g d ps1 => Sys2Proof.Machine.execPget h g d ps1 s
  | .fadd h g d s1 s2 fmt2 => Sys2Proof.Machine.execFadd h g d s1 s2 fmt2 s
  | .fsub h g d s1 s2 fmt2 => Sys2Proof.Machine.execFsub h g d s1 s2 fmt2 s
  | .fmul h g d s1 s2 fmt2 => Sys2Proof.Machine.execFmul h g d s1 s2 fmt2 s
  | .ffma h g d s1 s2 fmt2 s3 => Sys2Proof.Machine.execFfma h g d s1 s2 fmt2 s3 s
  | .fmin h g d s1 s2 fmt2 => Sys2Proof.Machine.execFmin h g d s1 s2 fmt2 s
  | .fmax h g d s1 s2 fmt2 => Sys2Proof.Machine.execFmax h g d s1 s2 fmt2 s
  | .fcvt h g d s1 from5 to5 rnd sat fin => Sys2Proof.Machine.execFcvt h g d s1 from5 to5 rnd sat fin s
  | .fceq h g pd s1 s2 fmt2 => Sys2Proof.Machine.execFceq h g pd s1 s2 fmt2 s
  | .fclt h g pd s1 s2 fmt2 => Sys2Proof.Machine.execFclt h g pd s1 s2 fmt2 s
  | .fcle h g pd s1 s2 fmt2 => Sys2Proof.Machine.execFcle h g pd s1 s2 fmt2 s
  | .ldq h g q base len off18 => Sys2Proof.Machine.execLdq h g q base len off18 s
  | .ldsq h g q base shape stride => Sys2Proof.Machine.execLdsq h g q base shape stride s
  | .stq h g q base len off18 => Sys2Proof.Machine.execStq h g q base len off18 s
  | .stsq h g q base shape stride => Sys2Proof.Machine.execStsq h g q base shape stride s
  | .ldx h g d base size sx off19 => Sys2Proof.Machine.execLdx h g d base size sx off19 s
  | .stx h g r_ base size off19 => Sys2Proof.Machine.execStx h g r_ base size off19 s
  | .gather h g dq iq tensor cnt isz => Sys2Proof.Machine.execGather h g dq iq tensor cnt isz s
  | .scatter h g dq iq tensor cnt isz => Sys2Proof.Machine.execScatter h g dq iq tensor cnt isz s
  | .scadd h g dq iq tensor cnt isz => Sys2Proof.Machine.execScadd h g dq iq tensor cnt isz s
  | .aadd h g d base r_ size scope off12 => Sys2Proof.Machine.execAadd h g d base r_ size scope off12 s
  | .amin h g d base r_ size scope off12 => Sys2Proof.Machine.execAmin h g d base r_ size scope off12 s
  | .amax h g d base r_ size scope off12 => Sys2Proof.Machine.execAmax h g d base r_ size scope off12 s
  | .aand h g d base r_ size scope off12 => Sys2Proof.Machine.execAand h g d base r_ size scope off12 s
  | .aor h g d base r_ size scope off12 => Sys2Proof.Machine.execAor h g d base r_ size scope off12 s
  | .axor h g d base r_ size scope off12 => Sys2Proof.Machine.execAxor h g d base r_ size scope off12 s
  | .axchg h g d base r_ size scope off12 => Sys2Proof.Machine.execAxchg h g d base r_ size scope off12 s
  | .acas h g d base r_ size scope off12 => Sys2Proof.Machine.execAcas h g d base r_ size scope off12 s
  | .afadd h g d base r_ size scope off12 => Sys2Proof.Machine.execAfadd h g d base r_ size scope off12 s
  | .rprobe h g d base len kind => Sys2Proof.Machine.execRprobe h g d base len kind s
  | .lock h g d base len => Sys2Proof.Machine.execLock h g d base len s
  | .unlock h g d base len => Sys2Proof.Machine.execUnlock h g d base len s
  | .rwb h g base len scope level => Sys2Proof.Machine.execRwb h g base len scope level s
  | .rinv h g base len scope level => Sys2Proof.Machine.execRinv h g base len scope level s
  | .ubdisc h g base len scope level => Sys2Proof.Machine.execUbdisc h g base len scope level s
  | .pref h g base len scope level => Sys2Proof.Machine.execPref h g base len scope level s
  | .msend h g q tgt bytes => Sys2Proof.Machine.execMsend h g q tgt bytes s
  | .acq h scope => Sys2Proof.Machine.execAcq h scope s
  | .rel h scope => Sys2Proof.Machine.execRel h scope s
  | .phase h scope => Sys2Proof.Machine.execPhase h scope s
  | .tdef h g tensor r_ => Sys2Proof.Machine.execTdef h g tensor r_ s
  | .xcopy h g k st dt xs sorg dorg => Sys2Proof.Machine.execXcopy h g k st dt xs sorg dorg s
  | .xset h g xs r_ => Sys2Proof.Machine.execXset h g xs r_ s
  | .xchain h g k head => Sys2Proof.Machine.execXchain h g k head s
  | .xstat h g d k => Sys2Proof.Machine.execXstat h g d k s
  | .xcancel h g k => Sys2Proof.Machine.execXcancel h g k s
  | .xfill h g dt val org => Sys2Proof.Machine.execXfill h g dt val org s
  | .tqin h g tq tensor org => Sys2Proof.Machine.execTqin h g tq tensor org s
  | .tqout h g tq tensor org => Sys2Proof.Machine.execTqout h g tq tensor org s
  | .pgmrow h g row tensor off dc => Sys2Proof.Machine.execPgmrow h g row tensor off dc s
  | .pgmtile h g idx tensor kl dc => Sys2Proof.Machine.execPgmtile h g idx tensor kl dc s
  | .pgmstat h g d tag => Sys2Proof.Machine.execPgmstat h g d tag s
  | .pgmret h g prow => Sys2Proof.Machine.execPgmret h g prow s
  | .mopen h g z zf type5 => Sys2Proof.Machine.execMopen h g z zf type5 s
  | .mma h g z ta tb idx kr ck => Sys2Proof.Machine.execMma h g z ta tb idx kr ck s
  | .tstart h g z k we thr => Sys2Proof.Machine.execTstart h g z k we thr s
  | .tend h g z => Sys2Proof.Machine.execTend h g z s
  | .mrd h g z dt fmt rnd sat fin org => Sys2Proof.Machine.execMrd h g z dt fmt rnd sat fin org s
  | .mcvt h g z fmt rnd sat fin => Sys2Proof.Machine.execMcvt h g z fmt rnd sat fin s
  | .mchk h g d pd z => Sys2Proof.Machine.execMchk h g d pd z s
  | .seedscan h g z tt fs cnt j1 d => Sys2Proof.Machine.execSeedscan h g z tt fs cnt j1 d s
  | .seedfit h g z tt seed j1 rt d => Sys2Proof.Machine.execSeedfit h g z tt seed j1 rt d s
  | .vadd h g vd vs1 vs2 mask => Sys2Proof.Machine.execVadd h g vd vs1 vs2 mask s
  | .vsub h g vd vs1 vs2 mask => Sys2Proof.Machine.execVsub h g vd vs1 vs2 mask s
  | .vmul h g vd vs1 vs2 mask => Sys2Proof.Machine.execVmul h g vd vs1 vs2 mask s
  | .vfma h g vd vs1 vs2 mask => Sys2Proof.Machine.execVfma h g vd vs1 vs2 mask s
  | .vmin h g vd vs1 vs2 mask => Sys2Proof.Machine.execVmin h g vd vs1 vs2 mask s
  | .vmax h g vd vs1 vs2 mask => Sys2Proof.Machine.execVmax h g vd vs1 vs2 mask s
  | .vabs h g vd vs1 mask => Sys2Proof.Machine.execVabs h g vd vs1 mask s
  | .vneg h g vd vs1 mask => Sys2Proof.Machine.execVneg h g vd vs1 mask s
  | .vand h g vd vs1 vs2 mask => Sys2Proof.Machine.execVand h g vd vs1 vs2 mask s
  | .vor h g vd vs1 vs2 mask => Sys2Proof.Machine.execVor h g vd vs1 vs2 mask s
  | .vxor h g vd vs1 vs2 mask => Sys2Proof.Machine.execVxor h g vd vs1 vs2 mask s
  | .vshl h g vd vs1 vs2 mask => Sys2Proof.Machine.execVshl h g vd vs1 vs2 mask s
  | .vshr h g vd vs1 vs2 mask => Sys2Proof.Machine.execVshr h g vd vs1 vs2 mask s
  | .vsar h g vd vs1 vs2 mask => Sys2Proof.Machine.execVsar h g vd vs1 vs2 mask s
  | .vcmp h g md vs1 vs2 mask cond => Sys2Proof.Machine.execVcmp h g md vs1 vs2 mask cond s
  | .vsel h g vd vs1 vs2 mask => Sys2Proof.Machine.execVsel h g vd vs1 vs2 mask s
  | .vmov h g vd vs1 mask => Sys2Proof.Machine.execVmov h g vd vs1 mask s
  | .vbcast h g vd val mask => Sys2Proof.Machine.execVbcast h g vd val mask s
  | .vcvt h g vd vs1 mask rnd sat fin => Sys2Proof.Machine.execVcvt h g vd vs1 mask rnd sat fin s
  | .vrnd h g vd vs1 mask rnd sat fin => Sys2Proof.Machine.execVrnd h g vd vs1 mask rnd sat fin s
  | .vred h g vd vs1 vs2 mask opr seg => Sys2Proof.Machine.execVred h g vd vs1 vs2 mask opr seg s
  | .vscan h g vd vs1 vs2 mask opr seg => Sys2Proof.Machine.execVscan h g vd vs1 vs2 mask opr seg s
  | .vperm h g vd vs1 vs2 mask => Sys2Proof.Machine.execVperm h g vd vs1 vs2 mask s
  | .vrot h g vd vs1 amt mask => Sys2Proof.Machine.execVrot h g vd vs1 amt mask s
  | .vexp2 h g vd vs1 mask => Sys2Proof.Machine.execVexp2 h g vd vs1 mask s
  | .vlog2 h g vd vs1 mask => Sys2Proof.Machine.execVlog2 h g vd vs1 mask s
  | .vrcp h g vd vs1 mask => Sys2Proof.Machine.execVrcp h g vd vs1 mask s
  | .vrsq h g vd vs1 mask => Sys2Proof.Machine.execVrsq h g vd vs1 mask s
  | .vsqrt h g vd vs1 mask => Sys2Proof.Machine.execVsqrt h g vd vs1 mask s
  | .vtanh h g vd vs1 mask => Sys2Proof.Machine.execVtanh h g vd vs1 mask s
  | .vsigm h g vd vs1 mask => Sys2Proof.Machine.execVsigm h g vd vs1 mask s
  | .verf h g vd vs1 mask => Sys2Proof.Machine.execVerf h g vd vs1 mask s
  | .vsin h g vd vs1 mask => Sys2Proof.Machine.execVsin h g vd vs1 mask s
  | .vcos h g vd vs1 mask => Sys2Proof.Machine.execVcos h g vd vs1 mask s
  | .vpop h g vd q6 => Sys2Proof.Machine.execVpop h g vd q6 s
  | .vpush h g q6 vs => Sys2Proof.Machine.execVpush h g q6 vs s
  | .chain h g iq6 oq6 ct cnt => Sys2Proof.Machine.execChain h g iq6 oq6 ct cnt s
  | .mand h g md ms1 ms2 => Sys2Proof.Machine.execMand h g md ms1 ms2 s
  | .mor h g md ms1 ms2 => Sys2Proof.Machine.execMor h g md ms1 ms2 s
  | .mnot h g md ms1 => Sys2Proof.Machine.execMnot h g md ms1 s
  | .mseti h g md first count => Sys2Proof.Machine.execMseti h g md first count s
  | .vget h g d vs lane => Sys2Proof.Machine.execVget h g d vs lane s
  | .vput h g vd val lane => Sys2Proof.Machine.execVput h g vd val lane s
  | .vsnap h g vd vs d => Sys2Proof.Machine.execVsnap h g vd vs d s
  | .cset h g ct r_ => Sys2Proof.Machine.execCset h g ct r_ s
  | .launch h g rec lq d => Sys2Proof.Machine.execLaunch h g rec lq d s
  | .depdec h g ctr amt => Sys2Proof.Machine.execDepdec h g ctr amt s
  | .depset h g ctr val lrec => Sys2Proof.Machine.execDepset h g ctr val lrec s
  | .depread h g d ctr => Sys2Proof.Machine.execDepread h g d ctr s
  | .abort h g code => Sys2Proof.Machine.execAbort h g code s
  | .resume h g hreg => Sys2Proof.Machine.execResume h g hreg s
  | .kill h g hreg => Sys2Proof.Machine.execKill h g hreg s
  | .suspend h g hreg => Sys2Proof.Machine.execSuspend h g hreg s
  | .tlbinv h g cb rng scope => Sys2Proof.Machine.execTlbinv h g cb rng scope s
  | .segset h g cb r_ => Sys2Proof.Machine.execSegset h g cb r_ s
  | .frame h g va fs => Sys2Proof.Machine.execFrame h g va fs s
  | .migrate h g buf die => Sys2Proof.Machine.execMigrate h g buf die s
  | .sysrd h g d addr => Sys2Proof.Machine.execSysrd h g d addr s
  | .syswr h g val addr => Sys2Proof.Machine.execSyswr h g val addr s
  | .eret h => Sys2Proof.Machine.execEret h s
  | .routew h g idx r_ => Sys2Proof.Machine.execRoutew h g idx r_ s
  | .lockdown h g mask16 => Sys2Proof.Machine.execLockdown h g mask16 s
  | .holdExpire d c k e => Sys2Proof.Machine.execHoldExpire d c k e s
  | .evtheadRead d => Sys2Proof.Machine.execEvtheadRead d s
  | .indexStep d c k => Sys2Proof.Machine.execIndexStep d c k s
  | .releaseDone w id => Sys2Proof.Machine.execReleaseDone w id s
  | .channelAccept d c k => Sys2Proof.Machine.execChannelAccept d c k s
  | .channelGranule d c k ch got => Sys2Proof.Machine.execChannelGranule d c k ch got s
  | .recordRun d c k ch got => Sys2Proof.Machine.execRecordRun d c k ch got s
  | .recordDone d c k ch => Sys2Proof.Machine.execRecordDone d c k ch s
  | .tqWaitEnd d c k => Sys2Proof.Machine.execTqWaitEnd d c k s
  | .pgmAccept d c k => Sys2Proof.Machine.execPgmAccept d c k s
  | .pgmRequestStart d col => Sys2Proof.Machine.execPgmRequestStart d col s
  | .pgmIteration d col ok => Sys2Proof.Machine.execPgmIteration d col ok s
  | .govWindow d g => Sys2Proof.Machine.execGovWindow d g s
  | .pgmRate d col => Sys2Proof.Machine.execPgmRate d col s
  | .mmaStart d c => Sys2Proof.Machine.execMmaStart d c s
  | .mmaKstep d c => Sys2Proof.Machine.execMmaKstep d c s
  | .tendCheck d c k => Sys2Proof.Machine.execTendCheck d c k s
  | .chainRow d c k => Sys2Proof.Machine.execChainRow d c k s
  | .counterDecrement d => Sys2Proof.Machine.execCounterDecrement d s
  | .abortComplete d r => Sys2Proof.Machine.execAbortComplete d r s
  | .killComplete d r => Sys2Proof.Machine.execKillComplete d r s
  | .segsetApply d => Sys2Proof.Machine.execSegsetApply d s
  | .migrateMove d => Sys2Proof.Machine.execMigrateMove d s
  | .registerWrite d a v => Sys2Proof.Machine.execRegisterWrite d a v s
  | .tqBindingWrite d g q v => Sys2Proof.Machine.execTqBindingWrite d g q v s
  | .mqBindingWrite d c q second v => Sys2Proof.Machine.execMqBindingWrite d c q second v s
  | .monitorClear d n => Sys2Proof.Machine.execMonitorClear d n s
  | .fenceWrite d v => Sys2Proof.Machine.execFenceWrite d v s
  | .lqTailWrite d q v => Sys2Proof.Machine.execLqTailWrite d q v s
  | .hostRingPull d q => Sys2Proof.Machine.execHostRingPull d q s
  | .onZeroEnqueue d => Sys2Proof.Machine.execOnZeroEnqueue d s
  | .launchCheck d q => Sys2Proof.Machine.execLaunchCheck d q s
  | .launchReady d q => Sys2Proof.Machine.execLaunchReady d q s
  | .dispatch d => Sys2Proof.Machine.execDispatch d s
  | .priorityAge d => Sys2Proof.Machine.execPriorityAge d s
  | .jobStart d r => Sys2Proof.Machine.execJobStart d r s
  | .preempt d => Sys2Proof.Machine.execPreempt d s
  | .jobSave d r => Sys2Proof.Machine.execJobSave d r s
  | .jobRestore d r => Sys2Proof.Machine.execJobRestore d r s
  | .jobRetire d r => Sys2Proof.Machine.execJobRetire d r s
  | .jobStall d r => Sys2Proof.Machine.execJobStall d r s
  | .stopDelivery d r => Sys2Proof.Machine.execStopDelivery d r s
  | .eventEnter d => Sys2Proof.Machine.execEventEnter d s
  | .systemCoreWake d => Sys2Proof.Machine.execSystemCoreWake d s
  | .mqCreditRequest d c q => Sys2Proof.Machine.execMqCreditRequest d c q s
  | .mqAppend d c q => Sys2Proof.Machine.execMqAppend d c q s
  | .mqHeadWrite d c q head => Sys2Proof.Machine.execMqHeadWrite d c q head s
  | .msendCredit d c k => Sys2Proof.Machine.execMsendCredit d c k s
  | .monitorSample d n unit x => Sys2Proof.Machine.execMonitorSample d n unit x s
  | .droopAlarm d g mv => Sys2Proof.Machine.execDroopAlarm d g mv s
  | .throttleEnd d g => Sys2Proof.Machine.execThrottleEnd d g s
  | .powerWindow d watts => Sys2Proof.Machine.execPowerWindow d watts s
  | .thermalSample d temps => Sys2Proof.Machine.execThermalSample d temps s
  | .rowGroupRefresh d g => Sys2Proof.Machine.execRowGroupRefresh d g s
  | .rowgroupSpare d g => Sys2Proof.Machine.execRowgroupSpare d g s
  | .laneRepair b m => Sys2Proof.Machine.execLaneRepair b m s
  | .dieFence d => Sys2Proof.Machine.execDieFence d s
  | .dieLoss d lost => Sys2Proof.Machine.execDieLoss d lost s
  | .linkDown p far => Sys2Proof.Machine.execLinkDown p far s
  | .linkUp p => Sys2Proof.Machine.execLinkUp p s
  | .linkFailureNotice p pkg incarn => Sys2Proof.Machine.execLinkFailureNotice p pkg incarn s
  | .packetIngress p pkt => Sys2Proof.Machine.execPacketIngress p pkt s
  | .auditReplay d first second => Sys2Proof.Machine.execAuditReplay d first second s
  | .coreSpared d g passed => Sys2Proof.Machine.execCoreSpared d g passed s
  | .hostMemAccess a n data => Sys2Proof.Machine.execHostMemAccess a n data s
  | .hostSnoop a data => Sys2Proof.Machine.execHostSnoop a data s
  | .hsdataRead => Sys2Proof.Machine.execHsdataRead s
  | .hsdataWrite v => Sys2Proof.Machine.execHsdataWrite v s
  | .getVersion req => Sys2Proof.Machine.execGetVersion req s
  | .getCapabilities req => Sys2Proof.Machine.execGetCapabilities req s
  | .negotiateAlgorithms req => Sys2Proof.Machine.execNegotiateAlgorithms req s
  | .getDigests req => Sys2Proof.Machine.execGetDigests req s
  | .getCertificate req => Sys2Proof.Machine.execGetCertificate req s
  | .challenge req => Sys2Proof.Machine.execChallenge req s
  | .getMeasurements req => Sys2Proof.Machine.execGetMeasurements req s
  | .keyExchange fabric req chain => Sys2Proof.Machine.execKeyExchange fabric req chain s
  | .finish fabric req => Sys2Proof.Machine.execFinish fabric req s
  | .fabricManagerWrite table n v => Sys2Proof.Machine.execFabricManagerWrite table n v s
  | .measurementExtend d n data => Sys2Proof.Machine.execMeasurementExtend d n data s
  | .packageReset trip => Sys2Proof.Machine.execPackageReset trip s
  | .firmwareVerify image sig version => Sys2Proof.Machine.execFirmwareVerify image sig version s
  | .recoveryImage image => Sys2Proof.Machine.execRecoveryImage image s
  | .powerLoss => Sys2Proof.Machine.execPowerLoss s
  | .dataReturn w id got => Sys2Proof.Machine.execDataReturn w id got s
  | .writeAcknowledgement w id => Sys2Proof.Machine.execWriteAcknowledgement w id s
  | .resultLanding w id => Sys2Proof.Machine.execResultLanding w id s

end Sys2Proof.Machine
end

