-- ==== Sys2Proof/Machine/Upsets.lean ====
section
/-! DEFINITION. What the hardware does of itself: lines that leave a cache, and soft errors by the memory they hit (spec/10_memories_spaces.md R225,
R228, R231, R244, spec/18_containment.md R387-R392, spec/17_counters.md R383; notes/assumptions/21.md). -/

namespace Sys2Proof.Machine
open Sys2Proof

/-- A line that nothing pins leaves a die: its copy there, or its home's own line (R228, R230). -/
def State.evictLine (s : State) (d : DieId) (key : Nat) : State :=
  if !s.live d then s
  else match (s.die d).copies.get? key with
  | some c => if c.locks = [] then s.mergeCopy d key true else s
  | none => match s.masters.get? key with
    | some l => if l.home = d then s.evictMaster key else s
    | none => s

/-- The row group of a line of a die's understory, or of another place there by a number from 2^80 on (R363, R390; log 27). -/
def groupOfKey (key : Nat) : Fin 16384 := Fin.ofNat 16384 (Config.rowGroup key)

/-- A corrected error: counted, and noticed at most once per 1 ms (R387): 0 scratchpads and registers, 1 the understory's caches, 2 LPDDR6. -/
def State.correctedError (s : State) (d : DieId) (what : Fin 3) (group : Fin 16384) : State :=
  if !s.live d then s
  else
    let c : Cause := if what = 0 then .spCe else if what = 1 then .usCe else .lpCe
    let s := if what = 1 then s.updDie d fun x => { x with groupErrs := x.groupErrs.put group.val (s.time :: x.groupErrs.getD group.val []) } else s
    (s.count d (0x048 + 8 * what.val) 1).noticeMs d c.code.toNat c 0xFF

/-- An uncorrectable error in a row group of a die's understory: the group is due for a spare (R390). -/
def State.groupFails (s : State) (d : DieId) (group : Fin 16384) : State :=
  if !s.live d then s else s.updDie d fun x => { x with groupBad := group.val :: x.groupBad.filter (· != group.val) }

/-- Does a die's cache, which its understory holds, have the line (R12)? -/
def State.cachedIn (s : State) (d : DieId) (key : Nat) : Bool :=
  ((s.die d).copies.get? key).isSome || (s.masters.get? key).any fun l => l.home == d

/-- An uncorrectable error in a line of die d, by its state (R389, R231); in no cache, it is the LPDDR6's (R387). -/
def State.upsetLine (s : State) (d : DieId) (key : Nat) : State :=
  if !s.live d then s
  else match (s.die d).copies.get? key with
  | some c =>
    if c.locks = [] ∧ c.dirty = 0 then (s.updDie d fun x => { x with copies := x.copies.del key }).correctedError d 1 (groupOfKey key)
    else if c.locks = [] ∧ key % 3 = 1 then
      match s.masters.get? key with
      | some l => if l.ub then { s.updDie d fun x => { x with copies := x.copies.del key } with masters := s.masters.put key { l with lost := true } } else s
      | none => s
    else s.updDie d fun x => { x with copies := x.copies.put key { c with poison := true } }
  | none =>
    match s.masters.get? key with
    | some l =>
      if l.home ≠ d then s
      else if l.ub then { s with masters := s.masters.put key { l with lost := true } }
      else { s with masters := s.masters.put key { l with poison := true } }
    | none =>
      let a := key / 3 * 128
      if key % 3 ≠ 0 ∨ a / 2 ^ 37 ≠ d.val then s
      else { s with lpPoison := a / 64 :: (a / 64 + 1) :: s.lpPoison.filter fun u => u != a / 64 && u != a / 64 + 1 }

/-- Bits of a canopy row flip: at most 4 are corrected when it is read, more are not (R279, R289). -/
def State.upsetRow (s : State) (d : DieId) (col : CoreId) (prow bits : Nat) : State :=
  if bits = 0 ∨ physicalRows ≤ prow then s
  else s.updColumn d col fun y =>
    if bits ≤ 4 then { y with soft := y.soft.put prow bits } else { y with hard := prow :: y.hard.filter (· != prow) }

/-- An error in slot i of a core's tile cache (R286): a corrected one is noticed and the slot refilled, an uncorrectable one is a miss. -/
def State.upsetCached (s : State) (d : DieId) (c : CoreId) (i : Nat) (fixed : Bool) : State :=
  if !s.live d ∨ (s.core d c).tcache.length ≤ i then s
  else if fixed then
    -- the slot is refilled from the canopy; an image that can no longer be read there leaves it
    (match (s.core d c).tcache[i]? with
    | none => s
    | some t =>
      let (e, _, s) := s.dirEntry d c t.1
      let (l, s) := s.imageDirect d c e 0 (dLen e) none
      let keep := dGen e == t.2.1 && !l.any (·.2)
      (s.updCore d c fun x => { x with
        tcache := if keep then x.tcache.set i (t.1, t.2.1, l.map (·.1)) else x.tcache.eraseIdx i }).notice d .tilecacheCe c.val 0)
  else s.updCore d c fun x => { x with tcache := x.tcache.eraseIdx i }

/-- A row of a die's LPDDR6 is repaired at start-up (R405): the frame keeps its contents. -/
def State.lpRepair (s : State) (d : DieId) : State :=
  if !s.live d ∨ 2 < s.boot.toNat then s else s.notice d .lpddrRepair 0xFF 0

/-- A parity fault in a K-step of the array's first entry (R392): the window's error is seen, or the MMA stops. -/
def State.upsetArray (s : State) (d : DieId) (c : CoreId) : State :=
  match (s.core d c).array with
  | [] => s
  | e :: _ =>
    let w : Who := .eng d c e.slot .m
    let mark (s : State) (z : BitVec 2) : State :=
      s.updJobOf w fun j => j.updTile z fun t => { t with win := t.win.map fun v => { v with err := true } }
    match s.flight? w e.id, s.jobOf? w with
    | some f, some j =>
      match f.work with
      | .mma m done (some _) =>
        if (j.tile m.z).win.isSome then mark s m.z
        else ((s.stopFlight w f { cause := .arrayFault, info0 := zx64 m.z, info1 := BitVec.ofNat 64 done }).noteBadWindow w).leaveArray d c (s.timeOf w)
      | .tend z (some _) .. => mark s z
      | _ => s
    | _, _ => s

/-- A stop at the next word of a stream that may issue it: an error of its instruction memory, or of state it holds (R387). -/
def State.upsetStream (s : State) (w : Who) (st : Stop) : State :=
  let t : State := { s with cur := w }
  if (s.stream? w).isSome && t.streamOpen && t.engineFree then { t.stopIssue st with cur := s.cur } else s

/-- A restore meets an uncorrectable line of its save area (R387). -/
def State.upsetArea (s : State) (d : DieId) (r : RecId) (off : Nat) : State :=
  match s.job? d r.val with
  | none => s
  | some j => match j.home, j.phase with
    | some (c, k), .resuming => s.restoreFails d r.val j c k .stateUe off
    | some (c, k), .restoring _ => s.restoreFails d r.val j c k .stateUe off
    | _, _ => s

/-- An uncorrectable error in one entry of a tile queue (R314). -/
def TileQ.upset (q : TileQ) (i : Nat) : TileQ := { q with entries := q.entries.zipIdx.map fun p => if p.2 = i then { p.1 with ue := true } else p.1 }
/-- An uncorrectable error at byte i of a data queue: the bytes it holds in that 16-byte unit of its memory are marked (R310, R387). -/
def DataQ.upset (q : DataQ) (i : Nat) : DataQ :=
  { q with bytes := q.bytes.zipIdx.map fun p => if (q.pos + p.2) / 16 = (q.pos + i) / 16 then { p.1 with ue := true } else p.1 }

end Sys2Proof.Machine
end

