-- ==== Sys2Proof/Machine/Fetch.lean ====
section
/-! DEFINITION. Fetching a stream's next word, the stop of a word that is no instruction, and the arbitration of two slots on one engine
(spec/02_jobs.md R27, R29, R35; spec/04_encoding.md R82, R83; spec/18_containment.md R389). -/

namespace Sys2Proof.Machine
open Sys2Proof

/-- The program of the current stream. -/
def State.program (s : State) : List Word :=
  match s.cur with
  | .eng _ _ _ e => s.jb.kernel.progs[e.idx.val]?.getD []
  | .sys d => (s.sysc d).prog

/-- The word at the current stream's pc (R76, R108); none at or beyond the program's length. -/
def State.fetch (s : State) : Option Word := if s.str.pc.toNat < s.program.length then s.program[s.str.pc.toNat]? else none

/-- The stop of a word that decode refuses (R82). -/
def decodeStop (w : Word) : DecodeStop → Stop
  | .illegalOpcode => { cause := .illegalOpcode, info0 := w }
  | .priv => { cause := .priv, info0 := w }
  | .illegalStream => { cause := .illegalStream, info0 := w }
  | .illegalField bad => { cause := .illegalField, info0 := w, info1 := bad }
  | .fmtBad => { cause := .fmtBad, info0 := w }
  | .tooShort => { cause := .illegalOpcode, info0 := w }

/-- A stop taken at the current pc as soon as IDLE is met and the engine is free (R83, R120): no tokens, no queue, no interlock; on V
after the hold of a row word (log 122). -/
def State.stopFetched (s : State) (st : Stop) : Host.Outcome State Fault Refusal :=
  if s.streamOpen && s.engineFree && s.gatesOpen &&
      (match s.fetch with
        | some w => decide (s.str.last + 1 + (bits w 63 54 : Int) ≤ (s.now : Int))
        | none => decide (s.str.last + 1 ≤ (s.now : Int))) then .next (s.stopIssue st)
  else .next s

/-- The current stream tries to issue its next word (R29, R82). -/
def State.attempt (s : State) : Host.Outcome State Fault Refusal :=
  match s.fetch with
  -- the spec gives no info for a stream that runs past its last word: it is free (R120, log 38)
  | none => s.stopFetched (stopOf .badTarget)
  | some w =>
    match decode w s.cur.issuer with
    | .error x => s.stopFetched (decodeStop w x)
    | .ok i => exec i s

/-- Did an attempt issue its word, or stop at it? Both draw a free value's number. -/
def issued (s : State) : Host.Outcome State Fault Refusal → Bool
  | .next t => t.free != s.free
  | _ => true

/-- The attempt of a slot on an engine, or the delivery of a stop there; none where the slot holds no job or is not eligible (R35, R439). -/
def State.slotTry (s : State) (d : DieId) (c : CoreId) (e : Engine) (k : SlotId) : Option (Host.Outcome State Fault Refusal) :=
  let s := { s with cur := .eng d c k e }
  match s.slotRec? d c k with
  | none => none
  | some _ =>
    -- a stop that waits for T's boundary is taken when the engine chooses the slot (R439)
    match (if e = .t then s.deliverNext d c k else none) with
    | some t => some (.next t)
    | none => let r := s.attempt; if issued s r then some r else none

/-! ## What waits of A's are counted (R252, R381) -/

/-- A word's destination given up, for asking whether anything but the interlock holds the next word. -/
def Work.freed : Work → Work
  | .ldx va size sx _ => .ldx va size sx 0
  | .atomic op va size x cmp scope _ => .atomic op va size x cmp scope 0
  | .probe va len kind _ => .probe va len kind 0
  | .lock on va len _ => .lock on va len 0
  | w => w

/-- The current state with A's held destinations free. -/
def State.unlocked (s : State) : State := s.updStr fun st => { st with flights := st.flights.map fun f => { f with work := f.work.freed } }

/-- The current state with the data of A's next word present, where that is a QPOP of a queue A itself fills. -/
def State.fed (s : State) : State :=
  match (s.fetch.bind fun w => (decode w s.cur.issuer).toOption) with
  | some (.qpop _ _ _ q _) =>
    if qProd (s.jb.qcfg q.toNat) = 1 then
      s.updJb fun j => j.updDq q.toNat fun x => { x with bytes := List.replicate 64 { b := 0, land := some 0 } }
    else s
  | _ => s

/-- Would the current stream issue its next word from this state? -/
def State.wouldIssue (s : State) : Bool := issued s s.attempt

/-- Notes that A's next word begins to wait for an interlock, or for its own queue's data (R252). -/
def State.noteWait (s : State) : State :=
  let now := s.now
  if s.str.waits.isSome then s
  else if s.unlocked.wouldIssue then s.updStr fun st => { st with waits := some (now, true) }
  else if s.fed.wouldIssue then s.updStr fun st => { st with waits := some (now, false) }
  else s

/-- A's word issued: the wait that it ends is counted. A QPOP counted its event itself. -/
def State.countWait (s : State) (t : State) : State :=
  let t' := t.updStr fun st => { st with waits := none }
  match s.str.waits with
  | none => t
  | some (since, lock) =>
    if t.str.nextId = s.str.nextId then t'
    else
      let n := s.now - since
      t'.updJb fun j => { j with
        lodev := if lock then min (j.lodev + 1) (2 ^ 32 - 1) else j.lodev
        lodcyc := min (j.lodcyc + n) (2 ^ 32 - 1) }

/-- Buffers a slot's accesses are held from in this cycle: A's next word, an XCOPY that is not accepted, its channels' records not begun (R238). -/
def State.heldFrom (s : State) (w : Who) (tried : Bool) : List (BitVec 12) :=
  let s := { s with cur := w }
  let asn := s.asnOf w
  let isHeld (b : BitVec 12) : Bool := s.held.contains (asn, b)
  let id := s.str.nextId
  let word : List (BitVec 12) :=
    if tried || s.held == [] then []
    else match State.attempt { s with held := [] } with
      | .next t => ((t.str.flights.find? fun f => f.id == id).bind fun f => f.work.buf?).toList
      | _ => []
  let chan (c : Channel) : List (BitVec 12) :=
    if c.st != .busy || c.running || c.xfers != [] then []
    else match c.recVa with
      | some va => bufOf va.toNat :: if c.image = [] then [] else (recXfer c.image 0 va).bufs
      | none => []
  let asked : List (BitVec 12) := (s.jb.streams[(2 : Fin 5)]).flights.flatMap fun f => match f.work with
    | .xcopy _ x => x.bufs
    | _ => []
  ((word ++ asked ++ s.jb.chans.toList.flatMap chan).filter isHeld).eraseDups

/-- One held cycle counted for a buffer (R381). -/
def Job.holdCycle (j : Job) (b : BitVec 12) : Job := j.touchBuf b fun e => { e with stall := min (e.stall + 1) (2 ^ 32 - 1) }

/-- A's counts of one cycle of a slot. -/
def State.slotCounts (s : State) (d : DieId) (c : CoreId) (k : SlotId) (tried : Bool) : State :=
  let w : Who := .eng d c k .a
  match s.slotJob? d c k with
  | none => s
  | some _ =>
    let bs := s.heldFrom w tried
    let old := s.cur
    let s := if tried then s else { (State.noteWait { s with cur := w }) with cur := old }
    s.updJobOf w fun j => bs.foldl Job.holdCycle j

/-- The slot an engine picks (R35): current c, the other's wait count. -/
def pickSlot (elig0 elig1 : Bool) (c : SlotId) (waitOther : Nat) : Option SlotId :=
  let el (k : SlotId) : Bool := if k = 0 then elig0 else elig1
  let o : SlotId := 1 - c
  if el o && decide (64 ≤ waitOther) then some o else if el c then some c else if el o then some o else none

/-- One cycle's choice of one engine (R35): at most once a cycle. -/
def State.engineTurn (s : State) (d : DieId) (c : CoreId) (e : Engine) : Host.Outcome State Fault Refusal :=
  let now := (s.grove d (groveOf c)).cyc
  let a := (s.core d c).arbs[e.idx]
  if !s.live d || a.seen == some now then .next s
  else
    let t0 := s.slotTry d c e 0
    let t1 := s.slotTry d c e 1
    let count (k : SlotId) (tried : Bool) (x : State) : State := if e = .a then x.slotCounts d c k tried else x
    let o : SlotId := 1 - a.cur
    let pick := pickSlot t0.isSome t1.isSome a.cur (a.wait[o])
    let sw : Bool := match pick with
      | none => false
      | some k => match State.fetch { s with cur := .eng d c k e } with
        | some w => w.getLsbD 53 && (if k = 0 then t1.isSome else t0.isSome)
        | none => false
    let cnt (k : SlotId) (el : Bool) : Nat := if pick = some k then 0 else if el then a.wait[k] + 1 else 0
    let post (x : State) : State := x.updCore d c fun y => { y with arbs := updAt y.arbs e.idx.val fun b =>
      { b with
        seen := some now
        wait := #v[cnt 0 t0.isSome, cnt 1 t1.isSome]
        cur := match pick with
          | some k => if sw then 1 - k else b.cur
          | none => b.cur } }
    match pick with
    | none => .next (post (count 1 false (count 0 false s)))
    | some k =>
      match (if k = 0 then t0 else t1) with
      | some (.next x) =>
        let x := if e = .a then State.countWait { s with cur := .eng d c k e } x else x
        let other : SlotId := 1 - k
        .next (post (count other (if other = 0 then t0 else t1).isSome (count k true x)))
      | some r => r
      | none => .next (post s)

/-- A die's system core tries to issue (R211). -/
def State.sysTurn (s : State) (d : DieId) : Host.Outcome State Fault Refusal :=
  if !s.live d || !(s.sysc d).started || (s.sysc d).halted || (s.sysc d).asleep then .next s else State.attempt { s with cur := .sys d }

end Sys2Proof.Machine
end

