-- ==== Sys2Proof/Machine/Turns.lean ====
section
/-! DEFINITION. One turn of the agenda, and the turns the machine takes up when its agenda is empty (notes/assumptions/4.md). -/

namespace Sys2Proof.Machine
open Sys2Proof

/-- Does an instruction have a word, issued by a stream? -/
def isWord (i : Instr) : Bool := (encode i).isSome

/-! ## The machine's own steps, as its state may enable them -/

/-- Runs steps one after another, while each answers a next state. -/
def steps (l : List (State → Host.Outcome State Fault Refusal)) (s : State) : Host.Outcome State Fault Refusal :=
  l.foldl (fun r f => match r with
    | .next t => f t
    | e => e) (.next s)

/-- Does a stream read a REMOTE buffer among these, whose data is another package's to give? -/
def State.reachesOut (s : State) (w : Who) (bs : List (BitVec 12)) : Bool := bs.any fun b => segKind (s.seg (whoDie w) (s.asnOf w) b) == 2

/-- The steps that may move or end a word in flight. -/
def State.wordSteps (s : State) (w : Who) (id : Nat) : List (State → Host.Outcome State Fault Refusal) :=
  let out : Bool := match s.flight? w id with
    | some f => (match f.work with
      | .probe .. | .lock .. => false
      | _ => s.reachesOut w f.work.buf?.toList)
    | none => false
  (if out then [] else [execDataReturn w id []]) ++ [execResultLanding w id, execWriteAcknowledgement w id, execReleaseDone w id]

/-- The steps of a job's place in a core: its long words, its channels. -/
def State.slotSteps (s : State) (d : DieId) (c : CoreId) (k : SlotId) : List (State → Host.Outcome State Fault Refusal) :=
  match s.slotJob? d c k with
  | none => []
  | some j =>
    let w : Who := .eng d c k .t
    let chans := (List.finRange 4).flatMap fun ch =>
      let x := j.chan ch.val
      let bs := ((x.xfers.head?.map Xfer.bufs).getD []) ++ x.recVa.toList.map fun va => bufOf va.toNat
      (if s.reachesOut w bs then [] else [execChannelGranule d c k ch [], execRecordRun d c k ch []]) ++ [execRecordDone d c k ch]
    [execIndexStep d c k, execChannelAccept d c k] ++ chans ++
      [execTqWaitEnd d c k, execPgmAccept d c k, execTendCheck d c k, execChainRow d c k, execMsendCredit d c k] ++
      [Engine.c, .a, .t, .m, .v].map fun e => execHoldExpire d c k e

/-- The steps of a core's array and of its message queues. -/
def coreSteps (d : DieId) (c : CoreId) : List (State → Host.Outcome State Fault Refusal) :=
  execMmaStart d c :: List.replicate 4 (execMmaKstep d c) ++ (List.finRange 4).flatMap fun q =>
    [execMqCreditRequest d c q, execMqAppend d c q, fun s => execMqHeadWrite d c q ((s.mq d c q).heads.headD 0) s]

/-- The steps of a canopy column; whether an iteration verifies is a free value (R292, log 3). -/
def State.columnSteps (s : State) (d : DieId) (col : CoreId) : List (State → Host.Outcome State Fault Refusal) :=
  [execPgmRequestStart d col, execPgmIteration d col (Config.freeNat s.free (2 ^ 19 + 64 * d.val + col.val) % 2 == 1), execPgmRate d col]

/-- The refresh engine's steps, in the period with which a unit of the row groups' stamps begins (R362, R363). -/
def State.refreshSteps (s : State) (d : DieId) : List (State → Host.Outcome State Fault Refusal) :=
  if s.time % stampUnits < 10 then (List.finRange 16384).map (execRowGroupRefresh d) else []

/-- The steps of a die's counters, distributor and system core; of a tripped die those of the refresh engine (R415). -/
def State.dieSteps (s : State) (d : DieId) : List (State → Host.Outcome State Fault Refusal) :=
  if s.tripped d then s.refreshSteps d else
  let x := s.die d
  let jobs := (List.finRange 128).flatMap fun r => match x.recs[r].job with
    | none => []
    | some _ => [execJobStart d r, execJobRestore d r, execJobSave d r, execJobRetire d r, execAbortComplete d r, execKillComplete d r,
        execJobStall d r, execStopDelivery d r]
  List.replicate (max 1 x.decs.length) (execCounterDecrement d) ++ [execOnZeroEnqueue d] ++
    ((List.finRange 16).flatMap fun q => [execHostRingPull d q, execLaunchCheck d q, execLaunchReady d q]) ++
    ((List.finRange 16).filter fun n => x.mons[n].wantsHeld).map (fun n => execMonitorSample d n 0 0) ++
    ((List.finRange 8).flatMap fun g => [execGovWindow d g, execThrottleEnd d g]) ++ [execPriorityAge d, execDispatch d, execPreempt d] ++ jobs ++
    [execSegsetApply d, execMigrateMove d, execEventEnter d, execSystemCoreWake d] ++ s.refreshSteps d

/-- Runs the own steps of a part. -/
def State.runOwn (s : State) : Own → Host.Outcome State Fault Refusal
  | .word w id => steps (s.wordSteps w id) s
  | .slot d c k => steps (s.slotSteps d c k) s
  | .core d c => steps (coreSteps d c) s
  | .column d col => steps (s.columnSteps d col) s
  | .die d => steps (s.dieSteps d) s

/-- Runs one turn. -/
def State.runTurn (s : State) : Turn → Host.Outcome State Fault Refusal
  | .tick => .next s.tick
  | .engine d c e => s.engineTurn d c e
  | .sysCore d => s.sysTurn d
  | .event i => if isWord i then .refused .notAnEvent else exec i s
  | .own o => s.runOwn o
  | .evict d key => .next (s.evictLine d key)
  | .l1Drop d c i => .next (s.updCore d c fun x => { x with l1 := x.l1.eraseIdx i })
  | .tlbDrop d c i => .next (s.updCore d c fun x => { x with tlb := x.tlb.eraseIdx i })
  | .upsetLine d key =>
    let t := s.upsetLine d key
    .next (if s.cachedIn d key then t.groupFails d (groupOfKey key) else t)
  | .upsetSp d r unit => .next (s.updJob d r.val fun j => if 16 * unit < j.spBytes then { j with spPoison := unit :: j.spPoison.filter (· != unit) } else j)
  | .upsetSram d g unit => .next (s.updGrove d g fun x => { x with sramPoison := unit :: x.sramPoison.filter (· != unit) })
  | .upsetRow d col prow bits => .next (s.upsetRow d col prow bits)
  | .upsetTile d r z row => .next (s.updJob d r.val fun j => { j with tiles := updAt j.tiles z.val fun t => { t with ue := setBits t.ue row.val 1 1 } })
  | .upsetArray d c => .next (s.upsetArray d c)
  | .upsetCached d c i fixed => .next (s.upsetCached d c i fixed)
  | .identity id => .next (s.overrideIdentity id)
  | .lpRepair d => .next (s.lpRepair d)
  | .upsetState w off => .next (s.upsetStream w { cause := .stateUe, info0 := off })
  | .upsetFetch w => .next (s.upsetStream w { cause := .ifetchUe })
  | .upsetArea d r off => .next ((s.upsetArea d r off).groupFails d (groupOfKey (areaRow r.val off)))
  | .upsetTq d r q i => .next ((s.updJob d r.val fun j => { j with tqs := updAt j.tqs q.val fun x => x.upset i }).groupFails d
      (groupOfKey (localTqRow r.val q.val i)))
  | .upsetGroveTq d g q i => .next ((s.updGrove d g fun x => { x with tqs := updAt x.tqs q.val fun y => y.upset i }).groupFails d
      (groupOfKey (groveTqRow g q.val i)))
  | .upsetDq d r q i => .next (s.updJob d r.val fun j => j.updDq q.val fun x => x.upset i)
  | .upsetTree d col copy => .next (s.updColumn d col fun x => { x with areas := updAt x.areas copy.val fun a => { a with ue := true } })
  | .corrected d what group => .next (s.correctedError d what group)
  | .resent p => .next (s.count (Fin.ofNat 4 (p.val / 4)) (0x118 + 0x40 * (p.val % 4)) 1)

/-! ## The default turns of a period -/

/-- The words in flight of a stream, in issue order. -/
def State.wordTurns (s : State) (w : Who) : List Turn :=
  match s.stream? w with
  | none => []
  | some st => st.flights.map fun f => .own (.word w f.id)

/-- The turns of a core: its slots' own steps, its words in flight, its array and queues. -/
def State.coreTurns (s : State) (d : DieId) (c : CoreId) : List Turn :=
  let x := s.core d c
  let slots : List SlotId := [0, 1]
  (if x.slots.any Option.isSome then
      slots.map (fun k => Turn.own (.slot d c k)) ++ slots.flatMap fun k => [Engine.c, .a, .t, .m, .v].flatMap fun e => s.wordTurns (.eng d c k e)
    else []) ++
    if x.array == [] && x.mqs.all (fun (m : Mq) => m.reqs == [] && m.appends == [] && m.heads == []) then [] else [.own (.core d c)]

/-- The turns of one period when nothing else is asked for: time passes, then every step of the machine that its own state may enable, then
every stream may issue. What comes from outside (data of other packages, samples, host accesses) is not among them. -/
def State.round (s : State) : List Turn :=
  let dies := (List.finRange 4).filter s.live
  let cores := dies.flatMap fun d => (List.finRange 64).map fun c => (d, c)
  .tick :: (cores.flatMap fun p => s.coreTurns p.1 p.2) ++
    (cores.flatMap fun p => if (s.column p.1 p.2).queue == [] && (s.column p.1 p.2).run.isNone then [] else [Turn.own (.column p.1 p.2)]) ++
    (dies.flatMap fun d => s.wordTurns (.sys d) ++ [Turn.own (.die d)]) ++ (((List.finRange 4).filter s.tripped).map fun d => Turn.own (.die d)) ++ dies.map Turn.sysCore ++
    (cores.flatMap fun p => if (s.core p.1 p.2).slots.any Option.isSome then [Engine.c, .a, .t, .m, .v].map (Turn.engine p.1 p.2) else [])

end Sys2Proof.Machine
end

