-- ==== Sys2Proof/Machine/Step.lean ====
section
/-! DEFINITION. The machine's step: the next turn of its agenda (notes/assumptions/4.md), and withFetchWord. -/

namespace Sys2Proof.Machine
open Sys2Proof

/-- Is the turn one that passes time, or a package reset, which starts the clock afresh? Every other turn leaves the clock record. -/
def Turn.timed : Turn → Bool
  | .tick => true
  | _ => false

/-- The outcome of a turn, with the clock record of before it where no time passes; a package reset's own record stands. -/
def keepClock (c : Clock) (timed : Bool) : Host.Outcome State Fault Refusal → Host.Outcome State Fault Refusal
  | .next t => .next (if timed || t.clock == {} then t else { t with clock := c })
  | r => r

/-- One step: the first turn of the agenda runs; an empty agenda takes up a period's turns. -/
def step (s : State) : Host.Outcome State Fault Refusal :=
  match s.agenda with
  | [] => .next { s with agenda := s.round }
  | t :: rest => keepClock s.clock t.timed (State.runTurn { s with agenda := rest } t)

/-- A stream that may issue at once. -/
def openStream (now : Nat) : Stream := { freshStream with last := (now : Int) - 1024 }

/-- s with one word as the next to run (notes/assumptions/23.md): a job in slot 0 of core 0 of die 0, or die 0's system core, holds it as its
program's word 0, and the next turn is that stream's. -/
def State.withFetchWord (s : State) (nbits w : Nat) : State :=
  let word : Word := BitVec.ofNat 64 (w % 2 ^ min nbits 64)
  match someIssuer word with
  | .sys =>
    let sys (x : SysCore) : SysCore :=
      { x with
        prog := [word], started := true, halted := false, asleep := false, hold := none
        stream := openStream s.clock.tick }
    { s.updSys 0 sys with agenda := .sysCore 0 :: s.agenda }
  | .eng e =>
    let now := (s.grove 0 0).cyc
    let j : Job := {
      phase := .running, home := some (0, 0)
      kernel := { progs := (List.range 5).map fun k => if k = e.idx.val then [word] else [0] }
      streams := Vector.replicate 5 (openStream now) }
    let s := s.updDie 0 fun x => { x with recs := x.recs.set 0 { gen := 0, job := some j } }
    { (s.updCore 0 0 fun x => { x with slots := x.slots.set 0 (some 0), arbs := Vector.replicate 5 {} }) with agenda := .engine 0 0 e :: s.agenda }

end Sys2Proof.Machine
end

