-- ==== Sys2Proof/Safety.lean ====
section
/-! DEFINITION. What counts as a safe run and the words the statements are made of: when a word issues, the state its operation sees, the
state an issue leaves, what a frame leaves alone, and the invariants of every step. -/

namespace Sys2Proof.Machine
open Sys2Proof

/-! ## Issue -/

/-- The current stream exists and its next word i, with header h, meets every condition all words share (R29, R35, R275, R386, R414). -/
def State.issues (s : State) (i : Instr) (h : Hdr) : Prop := (s.stream? s.cur).isSome = true ∧ s.canIssue i h = true

/-- The state the operation of a word with header h sees: the tokens it names are popped (R30). -/
def State.opened (s : State) (h : Hdr) : State := s.popped h none

/-- The word issues and its guard is true (R78). -/
def State.opens (s : State) (i : Instr) (h : Hdr) (g : Guard) : Prop := s.issues i h ∧ (s.opened h).guard g = true

/-- The issue of a word that goes on in order: its flight lands its results `effs` in cycle `land`, or goes on with its work. -/
def State.sent (s : State) (h : Hdr) (land : Option Nat) (effs : List Eff) (work : Work) : State :=
  (s.launchWord h.tks land effs work).finish .fall

/-- The issue of a word whose only effect is a result that lands `lat` cycles after it (R110). -/
def State.sends (s : State) (h : Hdr) (lat : Nat) (effs : List Eff) : State := s.sent h (some (s.now + lat)) effs .fixed

/-- The issue of a word whose work goes on after it. -/
def State.starts (s : State) (h : Hdr) (work : Work) : State := s.sent h none [] work

/-- The issue of a taken branch to pc, its result landing the cycle after (R120). -/
def State.jumps (s : State) (h : Hdr) (effs : List Eff) (pc : Word) : State := (s.launchWord h.tks (some (s.now + 1)) effs .fixed).finish (.jump pc)

/-- The word i, with header h and guard g, completes by landing results: whenever it issues, with a true guard `effs` of the state its operation
sees land `lat` cycles later; with a false guard it moves its tokens and nothing else (R78, R110). -/
def landsGuarded (i : Instr) (h : Hdr) (g : Guard) (lat : Nat) (effs : State → List Eff) : Prop :=
  ∀ s, s.issues i h → exec i s = .next (if (s.opened h).guard g then (s.opened h).sends h lat (effs (s.opened h)) else (s.opened h).sends h 1 [])

/-- The same of a word without a guard. -/
def landsAlways (i : Instr) (h : Hdr) (lat : Nat) (effs : State → List Eff) : Prop :=
  ∀ s, s.issues i h → exec i s = .next ((s.opened h).sends h lat (effs (s.opened h)))

/-- A word with a true guard goes on after its issue: whenever it issues and its own conditions hold, it leaves the state `next` names. -/
def goesTo (i : Instr) (h : Hdr) (g : Guard) (ok : State → Prop) (next : State → State) : Prop :=
  ∀ s, s.opens i h g → ok s → exec i s = .next (next (s.opened h))

/-- A word with a true guard stops at issue: nothing of it happens but the stop, tokens not popped (R80). -/
def stopsWith (i : Instr) (h : Hdr) (g : Guard) (bad : State → Prop) (st : State → Stop) : Prop :=
  ∀ s, s.opens i h g → bad s → exec i s = .next (s.stopIssue (st (s.opened h)))

/-- The issue of a word of A that names a buffer: the buffer is busy until the word completes (R381). -/
def State.touched (s : State) (w : Work) : State :=
  match w.buf? with
  | some b => s.updJb fun j => j.busy b
  | none => s

/-- The issue of an RPROBE, LOCK or UNLOCK, whose register is known and returns later (R227, R230). -/
def State.touches (s : State) (h : Hdr) (effs : List Eff) (w : Work) : State := ((s.touched w).launchWord h.tks none effs w).finish .fall

/-- The issue of a memory access: its buffer is busy; the translation of its first page (R223), and whether bytes of an earlier store hold its read
(R251), are noted. -/
def State.accesses (s : State) (h : Hdr) (w : Work) : State :=
  let t := s.touched w
  let id := t.str.nextId
  ((t.launchWord h.tks none [] w).updStr fun st => st.updFlight id fun f => { f with
    page := w.va?.bind fun va => t.tlbOf t.cur va.toNat
    waited := t.behindStore t.cur { id := id, pc := 0, issued := 0, land := none, work := w } w.readRanges }).finish .fall

/-- The word i of V completes by landing results: whenever it issues with a true guard and the checks of R169 on its operands `ops` and its own
check pass, it lands `effs` of the state its operation sees `lat` cycles later, and a row operation holds V for 8 cycles (R34, R169, R174). -/
def landsRows (i : Instr) (h : Hdr) (g : Guard) (lat : Nat) (rowOp : Bool) (ops : State → List VOp) (own : State → Option Stop)
    (effs : State → List Eff) : Prop :=
  ∀ s, s.opens i h g → let u := (s.opened h).seedSync
    u.vCheck (ops u) = none → own u = none →
    exec i s = .next (let v := u.noteRows (ops u)
      let t := v.launchWord h.tks (some (v.now + lat)) (effs v) .fixed
      (if rowOp then t.holdV else t).finish .fall)

/-- A word of V stops at issue with the first check of R169 that fails, or with its own check. -/
def stopsRows (i : Instr) (h : Hdr) (g : Guard) (ops : State → List VOp) (own : State → Option Stop) : Prop :=
  ∀ s e, s.opens i h g → let u := (s.opened h).seedSync
    (u.vCheck (ops u) = some e ∨ (u.vCheck (ops u) = none ∧ own u = some e)) → exec i s = .next (s.stopIssue e)

/-! ## Frames -/

/-- A stream without what every issue may change: its place, its loops, its words in flight, what it acquired, the waits it counts. -/
def Stream.rest (st : Stream) : Stream :=
  { st with pc := 0, last := 0, l := Vector.replicate 4 {}, flights := [], nextId := 0, cov := [], waits := none, gate := 0 }

/-- A job without what the issue of a word on one of its streams may change: its tokens, its streams' places, its stall count, the cycle its
last word ended in. -/
def Job.rest (j : Job) : Job := { j with tokens := Vector.replicate 25 [], streams := j.streams.map Stream.rest, stall := 0, ended := 0 }

/-- A die without what an issue may change; tokens that A pops drop its L1 (R273). -/
def Die.rest (x : Die) : Die :=
  { x with
    recs := x.recs.map fun r => { r with job := r.job.map Job.rest }
    cores := x.cores.map fun (c : Core) => { c with arbs := c.arbs.map fun (a : Arb) => { a with lastIssue := none }, l1 := [], fills := [] }
    sys := { x.sys with stream := x.sys.stream.rest } }

/-- A package without what the issue of a word may change: what is left holds every register, flag, table, tile, mask, queue and control
register, and all of memory but the copies of an L1. -/
def State.rest (s : State) : State := { s with dies := s.dies.map Die.rest, free := 0 }

/-- Byte i of a line as its home holds it: in its die-cache line, or in the memory behind it (R228). Lines are LPDDR6's, the host's and the
unbacked buffers', each under its key. -/
def State.lineByte (s : State) (key i : Nat) : Byte := (bytesOf (s.homeLine key).1 i 1).headD 0

/-- A stream's registers: x, p, b, its flags and its rounding mode. -/
def State.regsOf (s : State) (w : Who) : Option (Vector Word 32 × Vector Bool 8 × Vector Word 4 × BitVec 5 × BitVec 3) :=
  (s.stream? w).map fun st => (st.x, st.p, st.b, st.fstat, st.rmode)

/-- What a job keeps in its core: its scratchpad with its marks, tiles, masks, tables and queues; nothing else. -/
def Job.stores (j : Job) : Job :=
  { sp := j.sp, spPoison := j.spPoison, tiles := j.tiles, masks := j.masks, chains := j.chains, tensors := j.tensors, xspecs := j.xspecs,
    dqs := j.dqs, tqs := j.tqs }

/-- The stores of every die: those of its jobs, its groves' SRAM with its marks, its groves' tile queues. -/
def State.stores (s : State) : Vector (Vector (Option Job) 128 × Vector (Memory × List Nat × Vector TileQ 16) 8) 4 :=
  s.dies.map fun x => (x.recs.map fun r => r.job.map Job.stores, x.groves.map fun g => (g.sram, g.sramPoison, g.tqs))

/-- Are two streams different ones: of different records or engines, or of different dies? -/
def State.apart (s : State) : Who → Who → Prop
  | .eng d c k e, .eng d' c' k' e' => d ≠ d' ∨ s.slotRec? d c k ≠ s.slotRec? d' c' k' ∨ e ≠ e'
  | .sys d, .sys d' => d ≠ d'
  | _, _ => True

/-- The words whose whole effect is a result in their own stream's registers: those of R119 and R126-R136, a FCVT between formats of its own. -/
def registerWord : Instr → Bool
  | .add .. | .sub .. | .mul .. | .mulh .. | .mulhu .. | .div .. | .divu .. | .rem .. | .remu .. | .and .. | .or .. | .xor .. | .shl .. | .shr ..
  | .sar .. | .min .. | .minu .. | .max .. | .maxu .. | .addi .. | .andi .. | .ori .. | .xori .. | .muli .. | .shli .. | .shri .. | .sari ..
  | .sel .. | .clz .. | .ctz .. | .popc .. | .movi .. | .movhi .. | .ceq .. | .cne .. | .clt .. | .cltu .. | .cle .. | .cleu .. | .ceqi ..
  | .cnei .. | .clti .. | .cgei .. | .pand .. | .por .. | .pxor .. | .pandn .. | .pset .. | .pget .. | .fadd .. | .fsub .. | .fmul .. | .ffma ..
  | .fmin .. | .fmax .. | .fceq .. | .fclt .. | .fcle .. | .prep .. | .prepr .. | .tsread .. | .nop .. => true
  | .fcvt _ _ _ _ src dst _ _ _ => decide (src.toNat ≤ 8 ∧ dst.toNat ≤ 8)
  | _ => false

/-- Is the effect one on the registers of its own stream? -/
def streamEff : Eff → Bool
  | .x .. | .p .. | .b .. | .flags .. => true
  | _ => false

/-- The words whose false guard does more than move tokens: they move their rows (R78, R313). -/
def movesRows : Instr → Bool
  | .vpop .. | .vpush .. | .chain .. => true
  | _ => false

/-! ## Invariants -/

/-- Every replica of the global time stands within 1 ns (17 units) of the nominal time, ten units a period (R16, R378). -/
def Clock.near (c : Clock) : Prop := ∀ d : Fin 4, 10 * c.tick ≤ c.rep[d] + 17 ∧ c.rep[d] ≤ 10 * c.tick + 17

/-- The invariant every step keeps: the replicas of the global time agree (R378). -/
def State.Inv (s : State) : Prop := s.clock.near

/-- The package's own memories in canonical form: the LPDDR6 frames and host memory (R6, log 1). -/
def State.memoryWf (s : State) : Prop := s.lpddr.wf = true ∧ s.hostMem.wf = true

/-- A safe step: the machine goes on. A stop of a stream is a next state (R200-R203), so nothing the architecture describes ends a run. -/
def goesOn (o : Host.Outcome State Fault Refusal) : Prop := ∃ t, o = .next t

end Sys2Proof.Machine
end

