-- ==== Sys2Proof/Certificates/Slice0/Obligations.lean ====
section
/-! DEFINITION. The statements for the provers. Where a statement speaks of a word, `u` is the state its operation sees: the current state with
the word's tokens popped (R30). -/

open Sys2Proof Sys2Proof.Machine

/-! ## The scalar group -/

/-- R126: the two-operand integer words and their immediate forms, each with its function of a and b, landing by R110; no trap, no flag. -/
def Obligations.IntegerWordsLandTheirFunction : Prop :=
  (∀ p ∈ ([(.add, 1, fun a b => a + b), (.sub, 1, fun a b => a - b), (.mul, 3, fun a b => a * b),
      (.mulh, 3, fun a b => BitVec.ofInt 64 (a.toInt * b.toInt / 2 ^ 64)),
      (.mulhu, 3, fun a b => BitVec.ofNat 64 (a.toNat * b.toNat / 2 ^ 64)),
      (.div, 20, fun a b => if b = 0 then BitVec.allOnes 64 else if a = 1#64 <<< 63 ∧ b = BitVec.allOnes 64 then 1#64 <<< 63
        else BitVec.ofInt 64 (a.toInt.tdiv b.toInt)),
      (.divu, 20, fun a b => if b = 0 then BitVec.allOnes 64 else BitVec.ofNat 64 (a.toNat / b.toNat)),
      (.rem, 20, fun a b => if b = 0 then a else if a = 1#64 <<< 63 ∧ b = BitVec.allOnes 64 then 0
        else BitVec.ofInt 64 (a.toInt - b.toInt * a.toInt.tdiv b.toInt)),
      (.remu, 20, fun a b => if b = 0 then a else BitVec.ofNat 64 (a.toNat % b.toNat)),
      (.and, 1, fun a b => a &&& b), (.or, 1, fun a b => a ||| b), (.xor, 1, fun a b => a ^^^ b),
      (.shl, 1, fun a b => BitVec.ofNat 64 (a.toNat * 2 ^ (b.toNat % 64))),
      (.shr, 1, fun a b => BitVec.ofNat 64 (a.toNat / 2 ^ (b.toNat % 64))),
      (.sar, 1, fun a b => BitVec.ofInt 64 (a.toInt / 2 ^ (b.toNat % 64))),
      (.min, 1, fun a b => if a.toInt ≤ b.toInt then a else b), (.minu, 1, fun a b => if a.toNat ≤ b.toNat then a else b),
      (.max, 1, fun a b => if a.toInt ≤ b.toInt then b else a), (.maxu, 1, fun a b => if a.toNat ≤ b.toNat then b else a)] :
      List ((Hdr → Guard → BitVec 5 → BitVec 5 → BitVec 5 → Instr) × Nat × (Word → Word → Word))),
    ∀ h g d s1 s2, landsGuarded (p.1 h g d s1 s2) h g p.2.1 fun u => [.x d (p.2.2 (u.readX 0 s1) (u.readX 1 s2))]) ∧
  (∀ p ∈ ([(.addi, 1, fun a b => a + b), (.andi, 1, fun a b => a &&& b), (.ori, 1, fun a b => a ||| b), (.xori, 1, fun a b => a ^^^ b),
      (.muli, 3, fun a b => a * b)] : List ((Hdr → Guard → BitVec 5 → BitVec 5 → BitVec 22 → Instr) × Nat × (Word → Word → Word))),
    ∀ h g d s1 imm, landsGuarded (p.1 h g d s1 imm) h g p.2.1 fun u => [.x d (p.2.2 (u.readX 0 s1) (imm.signExtend 64))]) ∧
  (∀ p ∈ ([(.shli, fun a k => BitVec.ofNat 64 (a.toNat * 2 ^ k)), (.shri, fun a k => BitVec.ofNat 64 (a.toNat / 2 ^ k)),
      (.sari, fun a k => BitVec.ofInt 64 (a.toInt / 2 ^ k))] : List ((Hdr → Guard → BitVec 5 → BitVec 5 → BitVec 6 → Instr) × (Word → Nat → Word))),
    ∀ h g d s1 sh, landsGuarded (p.1 h g d s1 sh) h g 1 fun u => [.x d (p.2 (u.readX 0 s1) sh.toNat)])

/-- R127: SEL, and the three bit counts; CLZ and CTZ of 0 are 64. -/
def Obligations.SelectAndCountWordsLand : Prop :=
  (∀ h g d s1 s2 sp, landsGuarded (.sel h g d s1 s2 sp) h g 1 fun u => [.x d (if u.readP 2 sp then u.readX 0 s1 else u.readX 1 s2)]) ∧
  (∀ h g d s1, landsGuarded (.clz h g d s1) h g 1 fun u =>
    [.x d (BitVec.ofNat 64 ((List.range 64).takeWhile fun i => !(u.readX 0 s1).getMsbD i).length)]) ∧
  (∀ h g d s1, landsGuarded (.ctz h g d s1) h g 1 fun u =>
    [.x d (BitVec.ofNat 64 ((List.range 64).takeWhile fun i => !(u.readX 0 s1).getLsbD i).length)]) ∧
  (∀ h g d s1, landsGuarded (.popc h g d s1) h g 1 fun u => [.x d (BitVec.ofNat 64 ((List.range 64).countP fun i => (u.readX 0 s1).getLsbD i))])

/-- R128: MOVI and MOVHI, which have no guard. -/
def Obligations.ImmediateMovesLand : Prop :=
  (∀ h d imm, landsAlways (.movi h d imm) h 1 fun _ => [.x d (imm.signExtend 64)]) ∧
  (∀ h d imm, landsAlways (.movhi h d imm) h 1 fun u =>
    [.x d (BitVec.ofInt 64 (imm.toInt * 2 ^ 31) + BitVec.ofNat 64 ((u.readX 0 d).toNat % 2 ^ 31))])

/-- R129: each compare writes its condition to one predicate, a cycle after issue. -/
def Obligations.ComparesLandTheirCondition : Prop :=
  (∀ p ∈ ([(.ceq, fun a b => decide (a = b)), (.cne, fun a b => decide (a ≠ b)), (.clt, fun a b => decide (a.toInt < b.toInt)),
      (.cltu, fun a b => decide (a.toNat < b.toNat)), (.cle, fun a b => decide (a.toInt ≤ b.toInt)),
      (.cleu, fun a b => decide (a.toNat ≤ b.toNat))] : List ((Hdr → Guard → BitVec 3 → BitVec 5 → BitVec 5 → Instr) × (Word → Word → Bool))),
    ∀ h g pd s1 s2, landsGuarded (p.1 h g pd s1 s2) h g 1 fun u => [.p pd (p.2 (u.readX 0 s1) (u.readX 1 s2))]) ∧
  (∀ p ∈ ([(.ceqi, fun a b => decide (a = b)), (.cnei, fun a b => decide (a ≠ b)), (.clti, fun a b => decide (a.toInt < b.toInt)),
      (.cgei, fun a b => decide (b.toInt ≤ a.toInt))] : List ((Hdr → Guard → BitVec 3 → BitVec 5 → BitVec 22 → Instr) × (Word → Word → Bool))),
    ∀ h g pd s1 imm, landsGuarded (p.1 h g pd s1 imm) h g 1 fun u => [.p pd (p.2 (u.readX 0 s1) (imm.signExtend 64))])

/-- R130: the predicate words. -/
def Obligations.PredicateWordsLand : Prop :=
  (∀ p ∈ ([(.pand, fun a b => a && b), (.por, fun a b => a || b), (.pxor, fun a b => a ^^ b), (.pandn, fun a b => a && !b)] :
      List ((Hdr → Guard → BitVec 3 → BitVec 3 → BitVec 3 → Instr) × (Bool → Bool → Bool))),
    ∀ h g pd p1 p2, landsGuarded (p.1 h g pd p1 p2) h g 1 fun u => [.p pd (p.2 (u.readP 0 p1) (u.readP 1 p2))]) ∧
  (∀ h g pd s1, landsGuarded (.pset h g pd s1) h g 1 fun u => [.p pd (decide (u.readX 0 s1 ≠ 0))]) ∧
  (∀ h g d p1, landsGuarded (.pget h g d p1) h g 1 fun u => [.x d (if u.readP 0 p1 then 1 else 0)])

/-- R132-R136: the scalar floating-point words: one rounding of the exact result in the stream's RMODE, with the flags it sets, 4 cycles after
issue; compares to a predicate; FCVT after 3 cycles, a fatal TYPE_BAD where a format is beyond 0x08. -/
def Obligations.FloatWordsLandTheirRounding : Prop :=
  let arg (f : BitVec 2) (v : Word) : Val := fmtValue (scalarFmt f) (v.toNat % 2 ^ fmtWidth (scalarFmt f))
  let out (d : BitVec 5) (r : Nat × FlagSet) (invalid : Bool) : List Eff :=
    .x d (BitVec.ofNat 64 r.1) :: flagEff (if invalid then r.2 ||| flInv else r.2)
  (∀ h g d s1 s2 f, landsGuarded (.fadd h g d s1 s2 f) h g 4 fun u =>
    let a := arg f (u.readX 0 s1)
    let b := arg f (u.readX 1 s2)
    out d (roundTo (scalarFmt f) (Val.add u.rmode.toNat a b) u.rmode.toNat false) (addInvalid a b)) ∧
  (∀ h g d s1 s2 f, landsGuarded (.fsub h g d s1 s2 f) h g 4 fun u =>
    let a := arg f (u.readX 0 s1)
    let b := (arg f (u.readX 1 s2)).neg
    out d (roundTo (scalarFmt f) (Val.add u.rmode.toNat a b) u.rmode.toNat false) (addInvalid a b)) ∧
  (∀ h g d s1 s2 f, landsGuarded (.fmul h g d s1 s2 f) h g 4 fun u =>
    let a := arg f (u.readX 0 s1)
    let b := arg f (u.readX 1 s2)
    out d (roundTo (scalarFmt f) (Val.mul a b) u.rmode.toNat false) (mulInvalid a b)) ∧
  (∀ h g d s1 s2 f s3, landsGuarded (.ffma h g d s1 s2 f s3) h g 4 fun u =>
    let a := arg f (u.readX 0 s1)
    let b := arg f (u.readX 1 s2)
    let c := arg f (u.readX 2 s3)
    out d (roundTo (scalarFmt f) (Val.add u.rmode.toNat (Val.mul a b) c) u.rmode.toNat false) (mulInvalid a b || addInvalid (Val.mul a b) c)) ∧
  (∀ p ∈ ([(.fmin, false), (.fmax, true)] : List ((Hdr → Guard → BitVec 5 → BitVec 5 → BitVec 5 → BitVec 2 → Instr) × Bool)),
    ∀ h g d s1 s2 f, landsGuarded (p.1 h g d s1 s2 f) h g 4 fun u =>
      [.x d (BitVec.ofNat 64 (fpMinMax (scalarFmt f) p.2 ((u.readX 0 s1).toNat % 2 ^ fmtWidth (scalarFmt f))
        ((u.readX 1 s2).toNat % 2 ^ fmtWidth (scalarFmt f))))]) ∧
  (∀ p ∈ ([(.fceq, fun a b => Val.eqv a b), (.fclt, fun a b => !a.isNan && !b.isNan && Val.lt a b),
      (.fcle, fun a b => !a.isNan && !b.isNan && !Val.lt b a)] :
      List ((Hdr → Guard → BitVec 3 → BitVec 5 → BitVec 5 → BitVec 2 → Instr) × (Val → Val → Bool))),
    ∀ h g pd s1 s2 f, landsGuarded (p.1 h g pd s1 s2 f) h g 4 fun u => [.p pd (p.2 (arg f (u.readX 0 s1)) (arg f (u.readX 1 s2)))]) ∧
  (∀ h g d s1 src dst rnd sat fin, src.toNat ≤ 8 → dst.toNat ≤ 8 → landsGuarded (.fcvt h g d s1 src dst rnd sat fin) h g 3 fun u =>
    let r := convert src dst ((u.readX 0 s1).toNat % 2 ^ fmtWidth src) (effMode rnd.toNat fin u.rmode) sat
    .x d (placeX dst r.1) :: flagEff r.2) ∧
  (∀ h g d s1 src dst rnd sat fin, stopsWith (.fcvt h g d s1 src dst rnd sat fin) h g (fun _ => 8 < src.toNat ∨ 8 < dst.toNat)
    fun _ => { cause := .typeBad, info0 := BitVec.ofNat 64 (src.toNat + 32 * dst.toNat) })

/-! ## Control -/

/-- R114, R118, R213, R303, R304: the words that move tokens and do one thing beside: NOP, TKSEND, TKWAIT, MARK, LOCKDOWN. -/
def Obligations.PlainWordsComplete : Prop :=
  (∀ h, landsAlways (.nop h) h 1 fun _ => []) ∧
  (∀ h eng cnt e s, s.issues (.tksend h eng cnt) h → Engine.ofIdx eng.toNat = some e →
    exec (.tksend h eng cnt) s = .next ((s.opened h).sent h (some ((s.opened h).now + 1)) [] (.tksend e cnt.toNat))) ∧
  (∀ h eng cnt e s, s.issues (.tkwait h eng cnt) h → Engine.ofIdx eng.toNat = some e →
    exec (.tkwait h eng cnt) s = .next ((s.popped h (some (e, cnt.toNat))).sends h 1 [])) ∧
  (∀ h g tag, goesTo (.mark h g tag) h g (fun _ => True) fun u =>
    (u.capture (whoDie u.cur) (u.str.pc.toNat % 2 ^ 13) tag false (whoNum u.cur) (sourceOf u.cur)).sends h 1 []) ∧
  (∀ h g mask, goesTo (.lockdown h g mask) h g (fun _ => True) fun u =>
    (u.updDie (whoDie u.cur) fun x => { x with lockstat := x.lockstat ||| mask.extractLsb' 0 5 }).sends h 1 [])

/-- R119, R120: PREP and PREPR land a target after two cycles; a taken BR or BRL goes to its target's word, BRL with the word after it in x31; a
target at or beyond the program's length stops with BAD_TARGET. -/
def Obligations.BranchesGoToTheirTarget : Prop :=
  (∀ h b off, landsAlways (.prep h b off) h 2 fun u => [.b b (u.str.pc + off.signExtend 64)]) ∧
  (∀ h b r, landsAlways (.prepr h b r) h 2 fun u => [.b b (u.readX 0 r)]) ∧
  (∀ h g b, goesTo (.br h g b) h g (fun s => ((s.opened h).readB b).toNat < (s.opened h).programLength) fun u => u.jumps h [] (u.readB b)) ∧
  (∀ h g b, goesTo (.brl h g b) h g (fun s => ((s.opened h).readB b).toNat < (s.opened h).programLength) fun u =>
    u.jumps h [.x 31 (u.str.pc + 1)] (u.readB b)) ∧
  (∀ i ∈ ([.br, .brl] : List (Hdr → Guard → BitVec 2 → Instr)), ∀ h g b,
    stopsWith (i h g b) h g (fun s => (s.opened h).programLength ≤ ((s.opened h).readB b).toNat) fun u => { cause := .badTarget, info0 := u.readB b })

/-- R121-R123: LOOP and LOOPI start a loop of n passes over the words after them, or skip it when n is 0; a body that meets an active loop's stops
with LOOP_NEST; LBRK leaves an active loop and every loop inside it. -/
def Obligations.LoopWordsStartAndLeave : Prop :=
  let meets (o : Loop) (first last : Nat) : Bool := o.active && decide (o.last.toNat = last ∨ (first ≤ o.last.toNat ∧ o.first.toNat ≤ last ∧
    ¬(o.first.toNat ≤ first ∧ last ≤ o.last.toNat) ∧ ¬(first ≤ o.first.toNat ∧ o.last.toNat ≤ last)))
  let body (u : State) (l : BitVec 2) (e : BitVec 16) : Option Nat := (List.range 4).find? fun k =>
    k != l.toNat && meets (u.str.l[k]?.getD {}) (u.str.pc.toNat + 1) (u.str.pc.toNat + e.toNat - 1)
  let started (u : State) (h : Hdr) (l : BitVec 2) (n : Nat) (e : BitVec 16) : State :=
    (u.updStr fun st => { st with l := st.l.setIfInBounds l.toNat { count := BitVec.ofNat 32 n, first := BitVec.ofNat 16 (u.str.pc.toNat + 1), last := BitVec.ofNat 16 (u.str.pc.toNat + e.toNat - 1), active := n != 0 } }).launchWord
      h.tks (some u.now) [] .fixed
  let ends (u : State) (l : BitVec 2) : Bool := (List.range 4).any fun k =>
    k != l.toNat && (u.str.l[k]?.getD {}).active && (u.str.l[k]?.getD {}).last.toNat == u.str.pc.toNat
  let after (u : State) (h : Hdr) (l : BitVec 2) (n : Nat) (e : BitVec 16) : State :=
    if n = 0 ∧ ends u l = false then (started u h l n e).finish (.jump (u.str.pc + e.zeroExtend 64)) else (started u h l n e).finish .fall
  (∀ h l r e s, s.issues (.loop h l r e) h → body (s.opened h) l e = none →
    exec (.loop h l r e) s = .next (after (s.opened h) h l (((s.opened h).readX 0 r).toNat % 2 ^ 32) e)) ∧
  (∀ h l n e s, s.issues (.loopi h l n e) h → body (s.opened h) l e = none →
    exec (.loopi h l n e) s = .next (after (s.opened h) h l n.toNat e)) ∧
  (∀ h l r e s k, s.issues (.loop h l r e) h → body (s.opened h) l e = some k →
    exec (.loop h l r e) s = .next (s.stopIssue { cause := .loopNest, info0 := BitVec.ofNat 64 k })) ∧
  (∀ h l n e s k, s.issues (.loopi h l n e) h → body (s.opened h) l e = some k →
    exec (.loopi h l n e) s = .next (s.stopIssue { cause := .loopNest, info0 := BitVec.ofNat 64 k })) ∧
  (∀ h g l, goesTo (.lbrk h g l) h g (fun s => ((s.opened h).str.l[l.toNat]?.getD {}).active = true) fun u =>
    let o := u.str.l[l.toNat]?.getD {}
    ((u.updStr fun st => { st with l := st.l.map fun x =>
      if x.active && (decide (o.first.toNat ≤ x.first.toNat) && decide (x.last.toNat ≤ o.last.toNat)) then { x with count := 0, active := false } else x }).launchWord
        h.tks (some u.now) [] .fixed).finish (.jump (o.last.zeroExtend 64 + 1))) ∧
  (∀ h g l, goesTo (.lbrk h g l) h g (fun s => ((s.opened h).str.l[l.toNat]?.getD {}).active = false) fun u => u.sends h 1 [])

/-- R115-R117, R211, R212: END ends an engine's stream, but an open window of M stops it with WINDOW_LEFT; on the system core it sleeps when no
event waits; HOLD holds the stream; TRAP goes on in flight with its code; ERET returns to TRAPPC with INTRAP clear. That ERET takes
the loop-end step is the model's choice (log 119). -/
def Obligations.EndHoldTrapAndReturn : Prop :=
  (∀ h d c k e s, s.cur = .eng d c k e → s.issues (.endw h) h → endReady s = true →
    (e = .m → ∀ z : Fin 4, ((s.opened h).jb.tiles[z]).win = none) →
    exec (.endw h) s = .next (((s.opened h).updStr fun st => { st with atEnd := true }).jumps h [] (s.opened h).str.pc)) ∧
  (∀ h d c k s z, s.cur = .eng d c k .m → s.issues (.endw h) h → endReady s = true →
    (List.finRange 4).find? (fun z => ((s.opened h).jb.tiles[z]).win.isSome) = some z →
    exec (.endw h) s = .next (s.stopIssue { cause := .windowLeft, info0 := BitVec.ofNat 64 z.val })) ∧
  (∀ h d s, s.cur = .sys d → s.issues (.endw h) h →
    exec (.endw h) s = .next ((if (s.die d).evq = [] then s.updSys d fun x => { x with asleep := true } else s).jumps h [] (s.str.pc + 1))) ∧
  (∀ h g n, n ≠ 0 → goesTo (.hold h g n) h g (fun _ => True) fun u =>
    (u.launchWord h.tks (some (u.now + n.toNat)) [] .hold).finish .fall) ∧
  (∀ h g, goesTo (.hold h g 0) h g (fun _ => True) fun u => u.sends h 1 []) ∧
  (∀ h g code n, goesTo (.trap h g code n) h g (fun _ => True) fun u => (u.launchWord h.tks (some (u.now + 1)) [] (.trap n code)).finish .stay) ∧
  (∀ h d s, s.cur = .sys d → s.issues (.eret h) h →
    let u := s.opened h
    exec (.eret h) s = .next (((((u.launchWord h.tks (some (u.now + 1)) [] .fixed).updStr Stream.loopEnd).exceptionReturn d)).finish (.jump (u.csrValue 0x01A)))) ∧
  (∀ (s : State) d, s.exceptionReturn d = s.updSys d fun x => { x with intrap := false, stream := { x.stream with pc := x.trapPc } })

/-! ## Queues, waits, control registers -/

/-- R309-R313, R376-R378: QPOP delivers one element, landing after two cycles; QPUSH lands its element the cycle after; WAITV issues when its sample
meets its condition, and acquires what it waited for (R273); TSREAD lands the die's global time. -/
def Obligations.QueueAndWaitWordsComplete : Prop :=
  (∀ h g d q size s, s.opens (.qpop h g d q size) h g → qpopReady q size s = true →
    let u := s.opened h
    let c := u.jb.qcfg q.toNat
    let r := (u.jb.dq q.toNat).deliver c 1 u.rmode
    let t := u.updJb fun j => j.updDq q.toNat fun y => y.remove c 1
    u.qxCheck q size false = none → (u.jb.dq q.toNat).badPop c 1 = none →
    exec (.qpop h g d q size) s =
      .next ((if t.eng = 1 ∧ qProd c = 1 then t.updJb fun j => { j with lodev := min (j.lodev + 1) (2 ^ 32 - 1) } else t).sends h 2
        (.x d (placeX (qSnk c) (leNat (r.1.map (·.1)))) :: flagEff r.2))) ∧
  (∀ h g r q size s, s.opens (.qpush h g r q size) h g → qpushReady q size s = true →
    let u := s.opened h
    u.qxCheck q size true = none →
    exec (.qpush h g r q size) s = .next ((u.updJb fun j => (j.dqMake q.toNat (2 ^ size.toNat)).updDq q.toNat fun y =>
      y.push (u.now + 1) ((leBytes (2 ^ size.toNat) (u.readX 0 r).toNat).map fun b => (b, false))).sends h 1 [])) ∧
  (∀ h kind index cond mode arg v s, s.issues (.waitv h kind index cond mode arg) h → s.waitSource kind index = .ok v →
    (s.opened h).waitSource kind index = .ok v → waitCond cond v (s.waitArg mode arg) = true →
    exec (.waitv h kind index cond mode arg) s = .next (((s.opened h).acquireMet kind).sends h 1 [])) ∧
  (∀ h g d, landsGuarded (.tsread h g d) h g 2 fun u => [.x d (u.tsc (whoDie u.cur))])

/-- R195-R199: CSRR, CSRW and CSRX where the stream has access and the value is accepted; CSR_BAD for a register that is not the stream's, CSR_RO
for a write of a read-only one. -/
def Obligations.ControlRegisterWordsComplete : Prop :=
  let popped (n : BitVec 12) (u : State) : State := match u.cur with
    | .sys d => if n.toNat = 0x10A then (u.popEvent d).2 else u
    | .eng .. => u
  let accepts (u : State) (n : BitVec 12) (v : Word) : Prop := csrAccess u.cur.issuer n.toNat = .write ∧ csrRefuses n.toNat v = false ∧
    ¬(0x104 ≤ n.toNat ∧ n.toNat ≤ 0x106 ∧ (u.die (whoDie u.cur)).lockstat.getLsbD 3 = true)
  let taken (n : BitVec 12) (v : Word) : Word := if n.toNat = 0x011 ∧ v.extractLsb' 0 32 = 0x80000000 then 0 else csrClean n.toNat v
  (∀ h g d n, goesTo (.csrr h g d n) h g (fun s => csrAccess (s.opened h).cur.issuer n.toNat ≠ .none) fun u =>
    ((popped n u).launchWord h.tks (some (u.now + 2)) [.x d (u.csrValue n)] .fixed).finish .fall) ∧
  (∀ h g r n, goesTo (.csrw h g r n) h g (fun s => accepts (s.opened h) n ((s.opened h).readX 0 r)) fun u =>
    u.sends h 2 [.csr n (taken n (u.readX 0 r))]) ∧
  (∀ h g d r n, goesTo (.csrx h g d r n) h g (fun s => accepts (s.opened h) n ((s.opened h).readX 0 r)) fun u =>
    (u.launchWord h.tks (some (u.now + 2))
      [.x d (u.csrValue n), if n = 0 then .fstatX u.now (csrClean 0 (u.readX 0 r)) else .csr n (taken n (u.readX 0 r))] .fixed).finish .fall) ∧
  (∀ h g d n, stopsWith (.csrr h g d n) h g (fun s => csrAccess (s.opened h).cur.issuer n.toNat = .none) fun _ => { cause := .csrBad, info0 := n.zeroExtend 64 }) ∧
  (∀ h g r n, stopsWith (.csrw h g r n) h g (fun s => csrAccess (s.opened h).cur.issuer n.toNat = .none) fun _ => { cause := .csrBad, info0 := n.zeroExtend 64 }) ∧
  (∀ h g r n, stopsWith (.csrw h g r n) h g (fun s => csrAccess (s.opened h).cur.issuer n.toNat = .read) fun u =>
    { cause := .csrRo, info0 := n.zeroExtend 64, info1 := u.readX 0 r })

/-! ## A's words -/

/-- R245-R249: LDQ, LDSQ, STQ, STSQ, LDX and STX issue as accesses of their effective address once its first page translates: a load reserves its
places in the queue, a store begins with nothing moved; of no bytes they complete like NOP. -/
def Obligations.LoadAndStoreWordsIssue : Prop :=
  let moves (load : Bool) (t : State) (h : Hdr) (q : BitVec 4) (va bpr rows stride : Word) : State :=
    let n := bpr.toNat * rows.toNat
    if load then (t.updJb fun j => (j.dqMake q.toNat n).updDq q.toNat fun x => x.reserve t.str.nextId n).accesses h (.load q va bpr rows stride n 0)
    else t.accesses h (.store q va bpr rows stride n 0)
  (∀ p ∈ ([(.ldq, true), (.stq, false)] : List ((Hdr → Guard → BitVec 4 → BitVec 5 → BitVec 5 → BitVec 18 → Instr) × Bool)),
    ∀ h g q base len off s, s.opens (p.1 h g q base len off) h g → qtReady q p.2 false (flatArgs base len off) s = true →
      let u := s.opened h
      let va := u.readX 0 base + off.signExtend 64
      let n := u.readX 1 len
      u.qtCheck q p.2 false n.toNat n.toNat = none →
      (n = 0 → exec (p.1 h g q base len off) s = .next (u.sends h 1 [])) ∧
      (∀ t, n ≠ 0 → u.firstPage va.toNat n.toNat (!p.2) = .ok t → exec (p.1 h g q base len off) s = .next (moves p.2 t h q va n 1 0))) ∧
  (∀ p ∈ ([(.ldsq, true), (.stsq, false)] : List ((Hdr → Guard → BitVec 4 → BitVec 5 → BitVec 5 → BitVec 5 → Instr) × Bool)),
    ∀ h g q base shape stride s, s.opens (p.1 h g q base shape stride) h g → qtReady q p.2 true (shapeArgs base shape stride) s = true →
      let u := s.opened h
      let va := u.readX 0 base
      let bpr : Word := BitVec.ofNat 64 (bits (u.readX 1 shape) 31 0)
      let rows : Word := BitVec.ofNat 64 (bits (u.readX 1 shape) 63 32)
      let n := bpr.toNat * rows.toNat
      u.qtCheck q p.2 true bpr.toNat n = none →
      (n = 0 → exec (p.1 h g q base shape stride) s = .next (u.sends h 1 [])) ∧
      (∀ t, n ≠ 0 → u.firstPage va.toNat bpr.toNat (!p.2) = .ok t →
        exec (p.1 h g q base shape stride) s = .next (moves p.2 t h q va bpr rows (u.readX 2 stride)))) ∧
  (∀ h g d base size sx off s t, s.opens (.ldx h g d base size sx off) h g → addrReady base (off.signExtend 64) s = true →
    let u := s.opened h
    let va := u.readX 0 base + off.signExtend 64
    va.toNat % 2 ^ size.toNat = 0 → u.firstPage va.toNat (2 ^ size.toNat) false = .ok t →
    exec (.ldx h g d base size sx off) s = .next (t.accesses h (.ldx va size sx d))) ∧
  (∀ h g r base size off s t, s.opens (.stx h g r base size off) h g → addrReady base (off.signExtend 64) s = true →
    let u := s.opened h
    let va := u.readX 0 base + off.signExtend 64
    va.toNat % 2 ^ size.toNat = 0 → u.firstPage va.toNat (2 ^ size.toNat) true = .ok t →
    exec (.stx h g r base size off) s = .next (t.accesses h (.stx va (leBytes (2 ^ size.toNat) (t.readX 1 r).toNat)))) ∧
  (∀ h g d base size sx off, stopsWith (.ldx h g d base size sx off) h g
    (fun s => addrReady base (off.signExtend 64) s = true ∧ ((s.opened h).readX 0 base + off.signExtend 64).toNat % 2 ^ size.toNat ≠ 0)
    fun u => { cause := .align, info0 := u.readX 0 base + off.signExtend 64 }) ∧
  (∀ h g r base size off, stopsWith (.stx h g r base size off) h g
    (fun s => addrReady base (off.signExtend 64) s = true ∧ ((s.opened h).readX 0 base + off.signExtend 64).toNat % 2 ^ size.toNat ≠ 0)
    fun u => { cause := .align, info0 := u.readX 0 base + off.signExtend 64 })

/-- R253-R258: the nine atomics issue with their operand and comparand cut to their size, and stop with ALIGN or ATOMIC_KIND; GATHER, SCATTER and
SCADD issue with their tensor and count once the checks of R253 pass; of no indices they complete like NOP. -/
def Obligations.AtomicAndIndexWordsIssue : Prop :=
  let cut (size : BitVec 2) (v : Word) : Word := BitVec.ofNat 64 (v.toNat % 2 ^ (8 * 2 ^ size.toNat))
  (∀ p ∈ ([(.aadd, 0), (.amin, 1), (.amax, 2), (.aand, 3), (.aor, 4), (.axor, 5), (.axchg, 6), (.acas, 7), (.afadd, 8)] :
      List ((Hdr → Guard → BitVec 5 → BitVec 5 → BitVec 5 → BitVec 2 → BitVec 3 → BitVec 12 → Instr) × BitVec 4)),
    ∀ h g d base r size scope off s, s.opens (p.1 h g d base r size scope off) h g → addrReady base (off.signExtend 64) s = true →
      let u := s.opened h
      let va := u.readX 0 base + off.signExtend 64
      let odd : Prop := size.toNat < 2 ∨ (p.2 = 8 ∧ size ≠ 2) ∨ va.toNat % 2 ^ size.toNat ≠ 0
      let host : Prop := segKind (u.seg (whoDie u.cur) (u.asnOf u.cur) (bufOf va.toNat)) = 1
      (odd → exec (p.1 h g d base r size scope off) s = .next (s.stopIssue { cause := .align, info0 := va })) ∧
      (¬odd → host → exec (p.1 h g d base r size scope off) s = .next (s.stopIssue { cause := .atomicKind, info0 := va })) ∧
      (∀ t, ¬odd → ¬host → u.firstPage va.toNat (2 ^ size.toNat) true = .ok t →
        exec (p.1 h g d base r size scope off) s = .next (t.accesses h (.atomic p.2 va size (cut size (t.readX 1 r)) (cut size (t.readX 2 d)) scope d)))) ∧
  (∀ p ∈ ([(.gather, 0), (.scatter, 1), (.scadd, 2)] :
      List ((Hdr → Guard → BitVec 4 → BitVec 4 → BitVec 6 → BitVec 5 → BitVec 2 → Instr) × BitVec 2)),
    ∀ h g dq iq tensor cnt isz s, s.opens (p.1 h g dq iq tensor cnt isz) h g → indexReady tensor s = true →
      let u := s.opened h
      let n := (u.readX 0 cnt).toNat
      u.indexCheck p.2 dq iq tensor (u.tensor 3 tensor) n isz = none →
      exec (p.1 h g dq iq tensor cnt isz) s =
        .next (if n = 0 then u.sends h 1 [] else u.accesses h (.index p.2 dq iq (u.tensor 3 tensor) tensor.toNat isz n 0 none)))

/-- R227, R230: RPROBE counts framed pages, or reserves the ABSENT lines of an unbacked buffer within the job's reserve and the pin bound; LOCK pins
the lines its job does not hold yet, status 2 past its quota or the pin bound; UNLOCK gives up those the job holds. -/
def Obligations.ProbeAndLockWordsComplete : Prop :=
  (∀ h g d base len kind s, s.opens (.rprobe h g d base len kind) h g → probeReady base s = true →
    let u := s.opened h
    let va := u.readX 0 base
    let n := u.readX 1 len
    let done (t : State) (v : Nat) : Host.Outcome State Fault Refusal := .next (t.touches h [.x d (BitVec.ofNat 64 v)] (.probe va n kind d))
    (n.toNat = 0 → exec (.rprobe h g d base len kind) s = done u 0) ∧
    (∀ absent framed t, n.toNat ≠ 0 → u.probeRange va.toNat n.toNat (kind != 0) = .ok (absent, framed, t) →
      let reserving : Prop := kind = 2 ∧ segKind (u.seg (whoDie u.cur) (u.asnOf u.cur) (bufOf va.toNat)) = 3 ∧ absent ≠ []
      (¬reserving → exec (.rprobe h g d base len kind) s = done t framed) ∧
      (reserving →
        let need := t.jb.ubused + absent.length
        let grown := max t.jb.ubres.toNat need
        let home := (absent.headD (0, 0)).2
        let short := max (max (t.lockedBy (whoDie t.cur) (t.recOf t.cur) + grown - t.jb.llcq.toNat) (t.pinned home + absent.length - pinBound))
          (grown - (2 ^ 24 - 1))
        let line : Line := { ub := true, charge := some ((whoDie t.cur).val, t.recOf t.cur) }
        let reserved := absent.foldl (fun x k => { x.makeRoom k.2 with masters := (x.makeRoom k.2).masters.put k.1 { line with home := k.2 } }) t
        exec (.rprobe h g d base len kind) s =
          if short = 0 then done (reserved.updJb fun j => { j with ubres := BitVec.ofNat 24 grown, ubused := need }) (absent.length * 2 ^ 32 + framed)
          else .next (s.stopIssue { cause := .ubReserve, info0 := va, info1 := BitVec.ofNat 64 short })))) ∧
  (∀ h g d base len s ps t, s.opens (.lock h g d base len) h g → rangeReady base s = true →
    let va := (s.opened h).readX 0 base
    let n := (s.opened h).readX 1 len
    (s.opened h).lockLines va.toNat n.toNat = .ok (ps, t) →
    let x := whoDie t.cur
    let me := (x.val, t.recOf t.cur)
    let fresh := ((ps.filterMap id).eraseDups).filter fun k => !(t.locksOf x k).contains me
    let newly (y : DieId) : Nat := (fresh.filter fun k => (if k.asCopy then x else k.home) == y && !t.lineKept x k).length
    let over_ : Prop := t.jb.llcq.toNat < t.lockedBy x me.2 + fresh.length + t.jb.ubres.toNat ∨ ∃ y : DieId, pinBound < t.pinned y + newly y ∧ newly y ≠ 0
    (over_ → exec (.lock h g d base len) s = .next (t.touches h [.x d 2] (.lock true va n d))) ∧
    (¬over_ → exec (.lock h g d base len) s = .next ((fresh.foldl (fun u k => u.pinLine x (u.asnOf u.cur) k me) t).touches h
      [.x d (BitVec.ofNat 64 ((if none ∈ ps then 1 else 0) + fresh.length * 2 ^ 32))] (.lock true va n d)))) ∧
  (∀ h g d base len s ps t, s.opens (.unlock h g d base len) h g → rangeReady base s = true →
    let va := (s.opened h).readX 0 base
    let n := (s.opened h).readX 1 len
    (s.opened h).lockLines va.toNat n.toNat = .ok (ps, t) →
    let x := whoDie t.cur
    let me := (x.val, t.recOf t.cur)
    let mine := ((ps.filterMap id).eraseDups).filter fun k => (t.locksOf x k).contains me
    exec (.unlock h g d base len) s = .next ((mine.foldl (fun u k => u.unpinLine x k me) t).touches h [.x d (BitVec.ofNat 64 (mine.length * 2 ^ 32))]
      (.lock false va n d)))

/-- R236, R260-R263: RWB, RINV and UBDISC issue over their range once its first page translates, complete like NOP over no bytes, and RWB and RINV
stop with LEN_RANGE beyond 2^32 bytes, UBDISC with SEG_BAD off an unbacked buffer; PREF only hints. -/
def Obligations.RangeWordsIssue : Prop :=
  (∀ p ∈ ([(.rwb, false), (.rinv, true)] : List ((Hdr → Guard → BitVec 5 → BitVec 5 → BitVec 3 → BitVec 2 → Instr) × Bool)),
    ∀ h g base len scope level s, s.opens (p.1 h g base len scope level) h g → rangeReady base s = true →
      let u := s.opened h
      let va := u.readX 0 base
      let n := u.readX 1 len
      (2 ^ 32 < n.toNat → exec (p.1 h g base len scope level) s = .next (s.stopIssue (stopOf .lenRange))) ∧
      (n = 0 → exec (p.1 h g base len scope level) s = .next (u.sends h 1 [])) ∧
      (∀ t, n.toNat ≤ 2 ^ 32 → n ≠ 0 → u.firstPage va.toNat n.toNat false = .ok t →
        exec (p.1 h g base len scope level) s = .next (t.accesses h (.wback p.2 va n scope level)))) ∧
  (∀ h g base len scope level s, s.opens (.ubdisc h g base len scope level) h g → rangeReady base s = true →
      let u := s.opened h
      let va := u.readX 0 base
      let n := u.readX 1 len
      let unbacked : Prop := segKind (u.seg (whoDie u.cur) (u.asnOf u.cur) (bufOf va.toNat)) = 3
      (n = 0 → exec (.ubdisc h g base len scope level) s = .next (u.sends h 1 [])) ∧
      (n ≠ 0 → ¬unbacked → exec (.ubdisc h g base len scope level) s = .next (s.stopIssue { cause := .segBad, info0 := va })) ∧
      (∀ t, n ≠ 0 → unbacked → u.firstPage va.toNat n.toNat true = .ok t →
        exec (.ubdisc h g base len scope level) s = .next (t.accesses h (.ubdisc va n)))) ∧
  (∀ h g base len scope level, goesTo (.pref h g base len scope level) h g (fun s => rangeReady base s = true) fun u =>
    (prefFills level u.str.nextId ((u.readX 0 base).toNat + (u.readX 1 len).toNat) ((u.readX 1 len).toNat / 128 + 2) (u.readX 0 base).toNat u).sends h 1 [])

/-- R274, R275, R322, R354: REL, ACQ and PHASE go on until their scope's writes are acknowledged; TDEF lands its entry after two cycles or stops with
the cause of R354; MSEND goes on towards its target once its queue and target are good. -/
def Obligations.OrderingTensorAndMessageWordsIssue : Prop :=
  (∀ h scope s, s.issues (.acq h scope) h → exec (.acq h scope) s = .next ((s.opened h).starts h (.acq scope))) ∧
  (∀ h scope s, s.issues (.rel h scope) h → exec (.rel h scope) s = .next ((s.opened h).starts h (.rel scope (s.opened h).str.cov))) ∧
  (∀ h scope s, s.issues (.phase h scope) h → exec (.phase h scope) s = .next ((s.opened h).starts h (.phase scope (s.opened h).str.cov))) ∧
  (∀ h g tensor r s, s.opens (.tdef h g tensor r) h g →
    let u := s.opened h
    let v : BitVec 256 := u.readX 3 (r + 3) ++ u.readX 2 (r + 2) ++ u.readX 1 (r + 1) ++ u.readX 0 r
    ((tValid v = false ∨ tensorBad v u.jb.spBytes = none) → exec (.tdef h g tensor r) s = .next (u.sends h 2 [.tensor tensor v])) ∧
    (∀ c b, tValid v = true → tensorBad v u.jb.spBytes = some (c, b) →
      exec (.tdef h g tensor r) s = .next (s.stopIssue { cause := c, info0 := tensor.zeroExtend 64, info1 := BitVec.ofNat 64 b }))) ∧
  (∀ h g q tgt bytes s, s.opens (.msend h g q tgt bytes) h g →
    let u := s.opened h
    let t := u.readX 0 tgt
    let n := (u.readX 1 bytes).toNat
    queueCheck (u.jb.qcfg q.toNat) false u.eng = none → n < 2 ^ 32 → n % (unitOf (qSnk (u.jb.qcfg q.toNat))).1 = 0 →
    t.toNat / 2 ^ 32 = 0 → tgtCore t ≤ 255 →
    (u.tgtAway t = false → exec (.msend h g q tgt bytes) s = .next (u.starts h (.msend q t n none []))) ∧
    (u.tgtAway t = true → u.egress (whoDie u.cur) (tgtPkg t) 0 false true 0 (.load 0 0) ≠ .error .partition →
      exec (.msend h g q tgt bytes) s = .next (u.starts h (.msend q t n none []))) ∧
    (u.tgtAway t = true → u.egress (whoDie u.cur) (tgtPkg t) 0 false true 0 (.load 0 0) = .error .partition →
      exec (.msend h g q tgt bytes) s = .next (s.stopIssue (stopOf .partition)))) ∧
  (∀ h g q tgt bytes, stopsWith (.msend h g q tgt bytes) h g (fun s =>
      let u := s.opened h
      let t := u.readX 0 tgt
      let n := (u.readX 1 bytes).toNat
      queueCheck (u.jb.qcfg q.toNat) false u.eng = none ∧ n < 2 ^ 32 ∧ n % (unitOf (qSnk (u.jb.qcfg q.toNat))).1 = 0 ∧
        (t.toNat / 2 ^ 32 ≠ 0 ∨ 255 < tgtCore t)) fun u => { cause := .mqBad, info0 := u.readX 0 tgt })

/-! ## T's words -/

/-- R325-R331: XCOPY waits in flight with its transfer once its tensors, transform and first elements are good; XCHAIN starts its channel; XSTAT
lands its state; XCANCEL ends the channel's work; XSET lands a transform; of a channel the kernel did not declare all stop with QUEUE_CFG. -/
def Obligations.CopyWordsIssue : Prop :=
  (∀ h g k st dt xs sorg dorg s t t', s.opens (.xcopy h g k st dt xs sorg dorg) h g →
    let u := s.opened h
    let x := xcopyXfer st dt xs sorg dorg u
    k.toNat < u.jb.kernel.chan → (u.jb.chan k.toNat).recVa = none → u.entryBad st x.src [0, 1, 2, 3] .tensorBad = none →
    u.entryBad dt x.dst [0, 1, 2] .tensorBad = none → u.xferBad u.cur x (u.jb.chan k.toNat).limit = none →
    u.firstElem x.src (x.srcAt 0 0) false = .ok t → t.firstElem x.dst (some (orgRow x.dorg, orgCol x.dorg)) true = .ok t' →
    exec (.xcopy h g k st dt xs sorg dorg) s = .next (t'.starts h (.xcopy k x))) ∧
  (∀ h g xs r, landsGuarded (.xset h g xs r) h g 2 fun u => [.xspec xs (u.readX 1 (r + 1) ++ u.readX 0 r)]) ∧
  (∀ h g k head, goesTo (.xchain h g k head) h g
    (fun s => k.toNat < (s.opened h).jb.kernel.chan ∧ ((s.opened h).jb.chan k.toNat).st = .idle) fun u =>
      (u.updJb fun j => j.updChan k.toNat fun c => { c with st := .busy, recVa := some (u.readX 0 head), running := false, notify := false, cov := u.str.cov }).sends h 1 []) ∧
  (∀ h g d k, goesTo (.xstat h g d k) h g (fun s => k.toNat < (s.opened h).jb.kernel.chan) fun u => u.sends h 2 [.x d (u.jb.chan k.toNat).status]) ∧
  (∀ h g k, goesTo (.xcancel h g k) h g (fun s => k.toNat < (s.opened h).jb.kernel.chan ∧ ((s.opened h).jb.chan k.toNat).isIdle = true) fun u => u.sends h 1 []) ∧
  (∀ h g k, goesTo (.xcancel h g k) h g (fun s => k.toNat < (s.opened h).jb.kernel.chan ∧ ((s.opened h).jb.chan k.toNat).isIdle = false) fun u =>
    (u.cancelChannel u.cur k.toNat h.tks).finish .fall) ∧
  (∀ h g k st dt xs sorg dorg, stopsWith (.xcopy h g k st dt xs sorg dorg) h g (fun s => (s.opened h).jb.kernel.chan ≤ k.toNat) fun _ => stopOf .queueCfg) ∧
  (∀ h g k head, stopsWith (.xchain h g k head) h g (fun s => (s.opened h).jb.kernel.chan ≤ k.toNat) fun _ => stopOf .queueCfg) ∧
  (∀ h g d k, stopsWith (.xstat h g d k) h g (fun s => (s.opened h).jb.kernel.chan ≤ k.toNat) fun _ => stopOf .queueCfg) ∧
  (∀ h g k, stopsWith (.xcancel h g k) h g (fun s => (s.opened h).jb.kernel.chan ≤ k.toNat) fun _ => stopOf .queueCfg) ∧
  (∀ h g k st dt xs sorg dorg, stopsWith (.xcopy h g k st dt xs sorg dorg) h g
    (fun s => k.toNat < (s.opened h).jb.kernel.chan ∧ ((s.opened h).jb.chan k.toNat).recVa ≠ none) fun _ => stopOf .channelBusy) ∧
  (∀ h g k head, stopsWith (.xchain h g k head) h g
    (fun s => k.toNat < (s.opened h).jb.kernel.chan ∧ ((s.opened h).jb.chan k.toNat).st ≠ .idle) fun _ => stopOf .channelBusy)

/-- R316, R317, R335: TQIN and TQOUT wait in flight with their tensor and origin; XFILL writes its value from its origin, in
8 + ceil(bytes / 512) cycles. -/
def Obligations.TileMoveWordsIssue : Prop :=
  (∀ h g tq tensor org, goesTo (.tqin h g tq tensor org) h g
    (fun s => (s.opened h).tqCheck tq tensor ((s.opened h).tensor 3 tensor) ((s.opened h).readX 0 org) = none) fun u =>
      u.starts h (.tqin tq (u.tensor 3 tensor) (u.readX 0 org) none)) ∧
  (∀ h g tq tensor org, goesTo (.tqout h g tq tensor org) h g
    (fun s => (s.opened h).tqCheck tq tensor ((s.opened h).tensor 3 tensor) ((s.opened h).readX 0 org) = none) fun u =>
      u.starts h (.tqout tq (u.tensor 3 tensor) (u.readX 0 org) false)) ∧
  (∀ h g dt val org s, s.opens (.xfill h g dt val org) h g →
    let u := s.opened h
    let t := u.tensor 3 dt
    let o := u.readX 1 org
    u.useTensor dt t [0, 1] .tensorBad = none → fmtIsSb (tFmt t) = false → (tFmt t).toNat < 0x0C →
    ((tRows t ≤ orgRow o ∨ tCols t ≤ orgCol o) → exec (.xfill h g dt val org) s = .next (s.stopIssue (stopOf .originRange))) ∧
    (orgRow o < tRows t → orgCol o < tCols t → u.beyondWindow u.cur t (tRows t - 1) (tCols t - 1) = false →
      exec (.xfill h g dt val org) s = .next (u.sent h
        (some (u.now + 8 + cdiv (fmtBytes (tFmt t) ((tRows t - orgRow o) * (tCols t - orgCol o))) 512)) [] (.xfill t (u.readX 0 val) o))))

/-- R290-R298: PGMROW, PGMTILE and PGMRET of a job that may program hold T with their request; without the permission they stop with PGM_PRIV; a row
or a tile index out of range stops with PGM_RANGE; PGMSTAT lands a request's status after four cycles. -/
def Obligations.ProgrammingWordsIssue : Prop :=
  (∀ h g row tensor off dc s n, s.opens (.pgmrow h g row tensor off dc) h g → pgmRoom s = true →
    let u := s.opened h
    let t := u.tensor 4 tensor
    let l := u.readX 0 row
    let o := u.readX 1 off
    u.mayProgram = true → u.pgmSource tensor t = none → u.pgmCounter 2 dc = .ok n →
    ((l.toNat < 0x10000 ∨ 0x3FFFFF < l.toNat) → exec (.pgmrow h g row tensor off dc) s = .next (s.stopIssue { cause := .pgmRange, info0 := l })) ∧
    (0x10000 ≤ l.toNat → l.toNat ≤ 0x3FFFFF → tRows t * tCols t < o.toNat + 64 →
      exec (.pgmrow h g row tensor off dc) s = .next (s.stopIssue { cause := .pgmRange, info0 := o })) ∧
    (0x10000 ≤ l.toNat → l.toNat ≤ 0x3FFFFF → o.toNat + 64 ≤ tRows t * tCols t →
      exec (.pgmrow h g row tensor off dc) s = .next (u.starts h (.pgm (u.pgmNew (.row l.toNat 0) n) (tBase t + o.toNat) 64)))) ∧
  (∀ h g idx tensor kl dc s n, s.opens (.pgmtile h g idx tensor kl dc) h g → pgmRoom s = true →
    let u := s.opened h
    let t := u.tensor 4 tensor
    let i := u.readX 0 idx
    let k := u.readX 1 kl
    let image : Prop := bits k 63 62 = 1 ∨ bits k 63 62 = 2
    u.mayProgram = true → u.pgmSource tensor t = none → u.pgmCounter 2 dc = .ok n →
    ((262143 < i.toNat ∨ k.getLsbD 61 = true) → exec (.pgmtile h g idx tensor kl dc) s = .next (s.stopIssue { cause := .pgmRange, info0 := i })) ∧
    (i.toNat ≤ 262143 → k.getLsbD 61 = false → image → bits k 31 0 ≤ tRows t * tCols t →
      exec (.pgmtile h g idx tensor kl dc) s = .next (u.starts h (.pgm (u.pgmNew (.tile i.toNat k []) n) (tBase t) (bits k 31 0)))) ∧
    (i.toNat ≤ 262143 → k.getLsbD 61 = false → ¬image →
      exec (.pgmtile h g idx tensor kl dc) s = .next (u.starts h (.pgm (u.pgmNew (.tile i.toNat k []) n) (tBase t) 0)))) ∧
  (∀ h g prow s, s.opens (.pgmret h g prow) h g → pgmRoom s = true → (s.opened h).mayProgram = true →
    let p := (s.opened h).readX 0 prow
    exec (.pgmret h g prow) s = .next (if 0x43FFFF < p.toNat then s.stopIssue { cause := .pgmRange, info0 := p }
      else (s.opened h).starts h (.pgm ((s.opened h).pgmNew (.ret p.toNat) none) 0 0))) ∧
  (∀ h g row tensor off dc, stopsWith (.pgmrow h g row tensor off dc) h g (fun s => pgmRoom s = true ∧ (s.opened h).mayProgram = false) fun _ => { cause := .pgmPriv }) ∧
  (∀ h g idx tensor kl dc, stopsWith (.pgmtile h g idx tensor kl dc) h g (fun s => pgmRoom s = true ∧ (s.opened h).mayProgram = false) fun _ => { cause := .pgmPriv }) ∧
  (∀ h g prow, stopsWith (.pgmret h g prow) h g (fun s => pgmRoom s = true ∧ (s.opened h).mayProgram = false) fun _ => { cause := .pgmPriv }) ∧
  (∀ h g d tag, landsGuarded (.pgmstat h g d tag) h g 4 fun u => [.x d (u.pgmStatus ((u.readX 0 tag).extractLsb' 0 32))])

/-! ## M's words -/

/-- R139-R164: MOPEN, TSTART, TEND, MCVT, MCHK and MRD on a tile whose earlier words are over, and MMA into a free array buffer: each with the
checks of its rule passed issues with its own work; a tile outside the kernel's stops before. That TSTART zeroes its tile and opens its window at issue,
and that MCVT and MCHK read their tile at issue, are the model's choices (log 45). -/
def Obligations.MatrixWordsIssue : Prop :=
  (∀ h g z zf ty, goesTo (.mopen h g z zf ty) h g
    (fun s => matrixReady z false s = true ∧ (s.opened h).tileBad z = none ∧ (tileLanes ty).isSome = true ∧ ((s.opened h).jb.tile z).win = none) fun u =>
      u.sent h (some (u.now + 2)) [] (.mopen z zf ty)) ∧
  (∀ h g z ta tb idx kr ck s us t, s.opens (.mma h g z ta tb idx kr ck) h g → matrixReady z true s = true → s.arrayRoom = true →
    let m := { mmaOf z ta tb idx kr ck (s.opened h) with dirs := us }
    (s.opened h).mmaCheck (mmaOf z ta tb idx kr ck (s.opened h)) ta tb = .ok (us, t) →
    let v := t.updJb fun j => j.updTile z fun x => { x with armed := x.armed && ck, win := x.win.map fun y => y.retain m }
    (m.nk = 0 → exec (.mma h g z ta tb idx kr ck) s = .next (v.sent h (some (v.now + 1)) [] (.mma m 0 none))) ∧
    (∀ d c k e, m.nk ≠ 0 → v.cur = .eng d c k e → exec (.mma h g z ta tb idx kr ck) s =
      .next (((v.launchWord h.tks none [] (.mma m 0 none)).updCore d c fun x => { x with array := x.array ++ [{ slot := k, id := v.str.nextId }] }).finish .fall))) ∧
  (∀ h g z k we thr, goesTo (.tstart h g z k we thr) h g
    (fun s => matrixReady z false s = true ∧ s.tstartBad z k we = none ∧ (s.opened h).tstartBad z k we = none ∧
      (we = true → (s.readX 0 thr).toNat ≤ (s.jb.chan k.toNat).wp)) fun u =>
      (u.updJb fun j => j.writeTile z fun t =>
        { t.zeroed with armed := true, ckRow := Vector.replicate 32 0, ckCol := Vector.replicate 32 0, replayed := 0, win := some { sampled := u.sampled } }).sends h 2 []) ∧
  (∀ h g z, goesTo (.tend h g z) h g
    (fun s => matrixReady z false s = true ∧ (s.opened h).tileBad z = none ∧ ((s.opened h).jb.tile z).win ≠ none) fun u =>
      u.starts h (.tend z none 0 none (u.now + 4))) ∧
  (∀ h g z dt fmt rnd sat fin org, goesTo (.mrd h g z dt fmt rnd sat fin org) h g
    (fun s => matrixReady z false s = true ∧ (s.opened h).mrdBad z dt ((s.opened h).tensor 3 dt) fmt ((s.opened h).readX 0 org) = none) fun u =>
      u.starts h (.mrd z (u.tensor 3 dt) fmt (effMode rnd.toNat fin u.rmode) sat (u.readX 0 org) 0)) ∧
  (∀ h g z fmt rnd sat fin, goesTo (.mcvt h g z fmt rnd sat fin) h g
    (fun s => matrixReady z false s = true ∧ (s.opened h).tileBad z = none ∧ ((s.opened h).jb.tile z).win = none ∧
      ((s.opened h).jb.tile z).ty = 0x0C ∧ (tileLanes fmt).isSome = true ∧ fmt ≠ 0x0C ∧ (s.opened h).jb.tileUe z = none) fun u =>
      let rs := (List.range 1024).map fun k => roundTo fmt ((u.seenTile z).value (k / 32) (k % 32)) (effMode rnd.toNat fin u.rmode) sat
      u.sent h (some (u.now + 32)) (flagEff (rs.foldl (fun a r => a ||| r.2) 0)) (.mcvt z fmt (rowOf (packElems fmt (rs.map (·.1)))))) ∧
  (∀ h g d pd z, goesTo (.mchk h g d pd z) h g
    (fun s => matrixReady z false s = true ∧ (s.opened h).tileBad z = none ∧ (s.opened h).jb.tileUe z = none) fun u =>
      let n := (u.seenTile z).mismatches u.tolSeen
      let v := if (u.jb.tile z).ue = 0 then u else u.updJb fun j => j.updTile z fun t => { t with win := t.win.map fun w => { w with err := true } }
      v.sends h 4 (if (u.jb.tile z).armed then [.x d (BitVec.ofNat 64 n), .p pd (n != 0)] else [.x d (1#64 <<< 63), .p pd false])) ∧
  (∀ h g z zf ty e, stopsWith (.mopen h g z zf ty) h g (fun s => matrixReady z false s = true ∧ (s.opened h).tileBad z = some e) fun _ => e) ∧
  (∀ h g z, stopsWith (.tend h g z) h g
    (fun s => matrixReady z false s = true ∧ (s.opened h).tileBad z = none ∧ ((s.opened h).jb.tile z).win = none) fun _ => stopOf .windowBad)

/-- R164-R166: SEEDSCAN zeroes its tile and scores one candidate each 8 J cycles; SEEDFIT lands its residual 40 +
8 J cycles after issue; a seed of zero stops with SEED_ZERO. -/
def Obligations.SeedWordsIssue : Prop :=
  (∀ h g z tt fs cnt j1 d s l, s.opens (.seedscan h g z tt fs cnt j1 d) h g → matrixReady z false s = true → s.arrayEmpty = true → s.readsNow h = true →
    let u := s.opened h
    let first : BitVec 32 := (u.readX 0 fs).extractLsb' 0 32
    let count : BitVec 32 := (u.readX 1 cnt).extractLsb' 0 32
    let j := j1.toNat + 1
    let land := u.now + 16 + 8 * j * count.toNat
    u.seedCheck z tt (u.tensor 3 tt) = .ok l →
    exec (.seedscan h g z tt fs cnt j1 d) s = .next (if (2 ^ 32 - first.toNat) % 2 ^ 32 < count.toNat then s.stopIssue (stopOf .seedZero)
      else (((u.updJb fun j => j.writeTile z fun t => t.filled []).occupyArray land).sent h (some land) [] (.seedscan z l seedGrid first count j d 0)))) ∧
  (∀ h g z tt seed j1 rt d s l, s.opens (.seedfit h g z tt seed j1 rt d) h g → matrixReady z false s = true → s.arrayEmpty = true → s.readsNow h = true →
    let u := s.opened h
    let sd : BitVec 32 := (u.readX 0 seed).extractLsb' 0 32
    let j := j1.toNat + 1
    let r := u.tensor (if tt = rt then 3 else 4) rt
    let p := projections sd j l
    let y := roundTo 8 (Val.ofInt (seedResidual sd j (seedExp p) p l) (2 * seedGrid)) 0 false
    let land := u.now + 40 + 8 * j
    u.seedCheck z tt (u.tensor 3 tt) = .ok l →
    (sd = 0 → exec (.seedfit h g z tt seed j1 rt d) s = .next (s.stopIssue (stopOf .seedZero))) ∧
    (sd ≠ 0 → u.useTensor rt r [0] .tensorBad = none → tFmt r = 0 → 16 + 28 * j ≤ tCols r →
      exec (.seedfit h g z tt seed j1 rt d) s =
        .next ((u.occupyArray land).sent h (some land) (.x d (BitVec.ofNat 64 y.1) :: flagEff y.2) (.seedfit z l seedGrid sd j r d))))

/-! ## V's words -/

/-- R169, R170, R173, R177: the lane-wise words: every selected lane of VD by the word's function of the lanes of VS1, VS2 (and, in VFMA, of the
old VD), every other lane VS1's; W1024 rows of VADD and VSUB by element, with their classes; twelve cycles after issue. -/
def Obligations.LaneWordsLandTheirRow : Prop :=
  let fp (f : BitVec 5 → Nat → Val → Val → Val → Nat × FlagSet) (g : Nat → Int → Int → Int → Int) (ty : BitVec 5) (mode a b c : Nat) : Nat × FlagSet :=
    let w := laneWidth ty
    if typeKind ty = 1 then f ty mode (fmtValue ty a) (fmtValue ty b) (fmtValue ty c)
    else ((g (b % w) (laneInt w a) (laneInt w b) (laneInt w c) % 2 ^ w).toNat, 0)
  let bitsOf (f : BitVec 5 → Nat → Nat → Nat) (g : Nat → Int → Int → Int) (ty : BitVec 5) (_ a b _ : Nat) : Nat × FlagSet :=
    let w := laneWidth ty
    if typeKind ty = 1 then (f ty a b, 0) else ((g w (laneInt w a) (laneInt w b) % 2 ^ w).toNat, 0)
  let shift (g : Nat → Nat → Nat → Int → Int) (ty : BitVec 5) (_ a b _ : Nat) : Nat × FlagSet :=
    let w := laneWidth ty
    ((g w (b % w) (a % 2 ^ w) (laneInt w a) % 2 ^ w).toNat, 0)
  let logic (f : Nat → Nat → Nat) (_ : BitVec 5) (_ a b _ : Nat) : Nat × FlagSet := (f a b, 0)
  let lands (op : BitVec 5 → Nat → Nat → Nat → Nat → Nat × FlagSet) (third : Bool) (vd vs1 vs2 : BitVec 7) (mask : BitVec 3) (u : State) : List Eff :=
    let ty := u.rowType vd
    let a := rowLanes ty (u.readRow 0 vs1).1
    let b := rowLanes ty (u.readRow 1 vs2).1
    let c := if third then rowLanes ty (u.readRow 2 vd).1 else []
    let r := maskedLanes (u.mask 3 mask) a fun j => op ty u.rmode.toNat (a.getD j 0) (b.getD j 0) (c.getD j 0)
    .row vd (lanesRow ty r.1) 0 :: flagEff r.2
  (∀ p ∈ ([(.vadd, false, fp (fun ty m a b _ => fpAdd ty m a b) fun _ a b _ => a + b),
      (.vsub, true, fp (fun ty m a b _ => fpAdd ty m a b.neg) fun _ a b _ => a - b)] :
      List ((Hdr → Guard → BitVec 7 → BitVec 7 → BitVec 7 → BitVec 3 → Instr) × Bool × (BitVec 5 → Nat → Nat → Nat → Nat → Nat × FlagSet))),
    ∀ h g vd vs1 vs2 mask, landsRows (p.1 h g vd vs1 vs2 mask) h g 12 true (sameOps [0, 1, 2] vd false [vs1, vs2]) noCheck fun u =>
      if typeKind (u.rowType vd) = 0 then
        let r := wideOp p.2.1 (u.readRow 0 vs1) (u.readRow 1 vs2) (u.mask 3 mask)
        .row vd r.1 r.2.1 :: flagEff r.2.2
      else lands p.2.2 false vd vs1 vs2 mask u) ∧
  (∀ p ∈ ([(.vmul, [1, 2], fp (fun ty m a b _ => fpMul ty m a b) fun _ a b _ => a * b),
      (.vmin, [1, 2], bitsOf (fun ty a b => fpMinMax ty false a b) fun _ a b => min a b),
      (.vmax, [1, 2], bitsOf (fun ty a b => fpMinMax ty true a b) fun _ a b => max a b),
      (.vand, [1, 2, 3], logic (· &&& ·)), (.vor, [1, 2, 3], logic (· ||| ·)), (.vxor, [1, 2, 3], logic (· ^^^ ·)),
      (.vshl, [2], shift fun _ k _ a => a * 2 ^ k), (.vshr, [2], shift fun _ k a _ => ((a / 2 ^ k : Nat) : Int)),
      (.vsar, [2], shift fun _ k _ a => a / 2 ^ k)] :
      List ((Hdr → Guard → BitVec 7 → BitVec 7 → BitVec 7 → BitVec 3 → Instr) × List Nat × (BitVec 5 → Nat → Nat → Nat → Nat → Nat × FlagSet))),
    ∀ h g vd vs1 vs2 mask, landsRows (p.1 h g vd vs1 vs2 mask) h g 12 true (sameOps p.2.1 vd false [vs1, vs2]) noCheck (lands p.2.2 false vd vs1 vs2 mask)) ∧
  (∀ h g vd vs1 vs2 mask, landsRows (.vfma h g vd vs1 vs2 mask) h g 12 true (sameOps [1, 2] vd true [vs1, vs2]) noCheck
    (lands (fp (fun ty m a b c => fpFma ty m a b c) fun _ a b c => a * b + c) true vd vs1 vs2 mask)) ∧
  (∀ p ∈ ([(.vabs, bitsOf (fun ty a _ => a % 2 ^ (laneWidth ty - 1)) fun _ a _ => (a.natAbs : Int)),
      (.vneg, bitsOf (fun ty a _ => a ^^^ 2 ^ (laneWidth ty - 1)) fun _ a _ => -a)] :
      List ((Hdr → Guard → BitVec 7 → BitVec 7 → BitVec 3 → Instr) × (BitVec 5 → Nat → Nat → Nat → Nat → Nat × FlagSet))),
    ∀ h g vd vs1 mask, landsRows (p.1 h g vd vs1 mask) h g 12 true (sameOps [1, 2] vd false [vs1, vs1]) noCheck (lands p.2 false vd vs1 vs1 mask))

/-- R170, R173, R178, R179, R182-R184: VCMP lands a mask; VSEL, VMOV, VBCAST, VRED, VSCAN, VPERM and VROT land their row, twelve cycles after
issue; a segment longer than the row stops VRED and VSCAN with LANE_RANGE. -/
def Obligations.RowWordsLandTheirRow : Prop :=
  let lanes (u : State) (site : Nat) (r vd : BitVec 7) : List Nat := rowLanes (u.rowType vd) (u.readRow site r).1
  (∀ h g md vs1 vs2 mask cond, landsRows (.vcmp h g md vs1 vs2 mask cond) h g 12 true
    (fun s => [{ r := vs1, ok := typeKind (s.rowType vs1) != 0 }, { r := vs2, ok := s.rowType vs2 == s.rowType vs1 }]) noCheck fun u =>
      let bs := ((lanes u 0 vs1 vs1).zip (lanes u 1 vs2 vs1)).zipIdx.map fun p => (u.mask 3 mask).getLsbD p.2 && laneCond (u.rowType vs1) cond.toNat p.1.1 p.1.2
      [.mask md (BitVec.ofNat 4096 (bs.foldr (fun b n => (if b then 1 else 0) + 2 * n) 0))]) ∧
  (∀ h g vd vs1 vs2 mask, landsRows (.vsel h g vd vs1 vs2 mask) h g 12 true (sameOps [1, 2, 3] vd false [vs1, vs2]) noCheck fun u =>
    [.row vd (lanesRow (u.rowType vd) (((lanes u 0 vs1 vd).zip (lanes u 1 vs2 vd)).zipIdx.map fun p =>
      if (u.mask 3 mask).getLsbD p.2 then p.1.1 else p.1.2)) 0]) ∧
  (∀ h g vd vs1 mask, landsRows (.vmov h g vd vs1 mask) h g 12 true (sameOps [0, 1, 2] vd false [vs1]) noCheck fun u =>
    [.row vd (u.readRow 0 vs1).1 (u.readRow 0 vs1).2]) ∧
  (∀ h g vd val mask, landsRows (.vbcast h g vd val mask) h g 12 true (sameOps [1, 2, 3] vd true []) noCheck fun u =>
    [.row vd (lanesRow (u.rowType vd) ((lanes u 2 vd vd).zipIdx.map fun p => if (u.mask 3 mask).getLsbD p.2 then (u.readX 4 val).toNat else p.1)) 0]) ∧
  (∀ p ∈ ([(.vred, false), (.vscan, true)] :
      List ((Hdr → Guard → BitVec 7 → BitVec 7 → BitVec 7 → BitVec 3 → BitVec 3 → BitVec 5 → Instr) × Bool)),
    ∀ h g vd vs1 vs2 mask opr seg,
      let ops := sameOps (if opr.toNat ≤ 2 then [1, 2] else [1, 2, 3]) vd false [vs1, vs2]
      let own (u : State) : Option Stop := if laneCount (u.rowType vd) < 2 ^ seg.toNat then some { cause := .laneRange, info0 := zx64 seg } else none
      landsRows (p.1 h g vd vs1 vs2 mask opr seg) h g 12 true ops own (fun u =>
        let r := reduceRow p.2 opr.toNat (u.rowType vd) u.rmode.toNat seg.toNat (lanes u 0 vs1 vd) (if vs2 = vs1 then none else some (lanes u 1 vs2 vd))
          (u.mask 3 mask)
        .row vd (lanesRow (u.rowType vd) r.1) 0 :: flagEff r.2) ∧
      stopsRows (p.1 h g vd vs1 vs2 mask opr seg) h g ops own) ∧
  (∀ h g vd vs1 vs2 mask, landsRows (.vperm h g vd vs1 vs2 mask) h g 12 true
    (fun s => sameOps [1, 2, 3] vd false [vs1] s ++
      [{ r := vs2, ok := typeKind (s.rowType vs2) != 0 && laneWidth (s.rowType vs2) == laneWidth (s.rowType vd) }]) noCheck fun u =>
      let w := laneWidth (u.rowType vd)
      let source (j : Nat) : Option Nat :=
        let i := (lanes u 1 vs2 vs2).getD j 0
        if w = 8 then some (256 * (j / 256) + i) else if i < 32768 / w then some i else none
      let r := maskedLanes (u.mask 3 mask) (lanes u 0 vs1 vd) fun j => (((source j).map fun k => (lanes u 0 vs1 vd).getD k 0).getD 0, 0)
      [.row vd (lanesRow (u.rowType vd) r.1) 0]) ∧
  (∀ h g vd vs1 amt mask, landsRows (.vrot h g vd vs1 amt mask) h g 12 true (sameOps [1, 2, 3] vd false [vs1]) noCheck fun u =>
    let n := laneCount (u.rowType vd)
    let r := maskedLanes (u.mask 3 mask) (lanes u 0 vs1 vd) fun j => ((lanes u 0 vs1 vd).getD ((j + (u.readX 4 amt).toNat % n) % n) 0, 0)
    [.row vd (lanesRow (u.rowType vd) r.1) 0])

/-- R173, R180, R181, R185: VCVT and VRND land their row fourteen cycles after issue, the ten special functions twenty. R173 and R180 do not agree on the
lanes VCVT's mask leaves out between rows of one type: that they take VS1's value is the model's choice (log 83). -/
def Obligations.ConversionAndFunctionWordsLandTheirRow : Prop :=
  (∀ h g vd vs1 mask rnd sat fin, landsRows (.vcvt h g vd vs1 mask rnd sat fin) h g 14 true
    (fun s => [{ r := vd, write := true, ok := typeKind (s.rowType vd) != 0 }, { r := vs1, ok := typeKind (s.rowType vs1) != 0 }]) noCheck fun u =>
      let d := u.rowType vd
      let f := u.rowType vs1
      let src := rowLanes f (u.readRow 0 vs1).1
      let rs := (rowLanes d (u.readRow 2 vd).1).zipIdx.map fun p =>
        if p.2 < min (laneCount d) (laneCount f) ∧ (u.mask 3 mask).getLsbD p.2 then convert f d (src.getD p.2 0) (effMode rnd.toNat fin u.rmode) sat
        else if f = d then (src.getD p.2 0, 0) else (p.1, 0)
      .row vd (lanesRow d (rs.map (·.1))) 0 :: flagEff (rs.foldl (fun a r => a ||| r.2) 0)) ∧
  (∀ h g vd vs1 mask rnd sat fin, landsRows (.vrnd h g vd vs1 mask rnd sat fin) h g 14 true (sameOps [0, 1, 2] vd false [vs1]) noCheck fun u =>
    let ty := u.rowType vd
    let a := u.readRow 0 vs1
    let mode := effMode rnd.toNat fin u.rmode
    if typeKind ty = 0 then
      let rs := (List.range 32).map fun j =>
        let x := a.1.extractLsb' (1024 * j) 1024
        let c := clsOf (a.2.extractLsb' (2 * j) 2)
        if (u.mask 3 mask).getLsbD j then wideRound mode sat x c else (x, c, 0)
      .row vd (rowOfElems (rs.map (·.1))) (clsRow (rs.map (·.2.1))) :: flagEff (rs.foldl (fun f r => f ||| r.2.2) 0)
    else
      let r := maskedLanes (u.mask 3 mask) (rowLanes ty a.1) fun j => laneRound ty mode ((rowLanes ty a.1).getD j 0)
      .row vd (lanesRow ty r.1) 0 :: flagEff r.2) ∧
  (∀ p ∈ ([(.vexp2, 0), (.vlog2, 1), (.vrcp, 2), (.vrsq, 3), (.vsqrt, 4), (.vtanh, 5), (.vsigm, 6), (.verf, 7), (.vsin, 8), (.vcos, 9)] :
      List ((Hdr → Guard → BitVec 7 → BitVec 7 → BitVec 3 → Instr) × Nat)),
    ∀ h g vd vs1 mask, landsRows (p.1 h g vd vs1 mask) h g 20 true (sameOps [1] vd false [vs1]) noCheck fun u =>
      let ty := u.rowType vd
      let a := rowLanes ty (u.readRow 0 vs1).1
      let r := maskedLanes (u.mask 3 mask) a fun j => special p.2 ty (a.getD j 0)
      .row vd (lanesRow ty r.1) 0 :: flagEff r.2)

/-- R187-R189, R191: the mask words land all bits of MD two cycles after issue; VGET and VPUT one lane, four cycles after, and stop with LANE_RANGE
beyond the row; VSNAP a row and what of a busy tile's work it holds; CSET a chain-table entry. -/
def Obligations.MaskAndLaneWordsLand : Prop :=
  let laneStop (r : BitVec 7) (lane : BitVec 5) (u : State) : Option Stop :=
    if laneCount (u.rowType r) ≤ (u.readX 4 lane).toNat then some { cause := .laneRange, info0 := u.readX 4 lane } else none
  (∀ h g md ms1 ms2, landsGuarded (.mand h g md ms1 ms2) h g 2 fun u => [.mask md (u.mask 0 ms1 &&& u.mask 1 ms2)]) ∧
  (∀ h g md ms1 ms2, landsGuarded (.mor h g md ms1 ms2) h g 2 fun u => [.mask md (u.mask 0 ms1 ||| u.mask 1 ms2)]) ∧
  (∀ h g md ms1, landsGuarded (.mnot h g md ms1) h g 2 fun u => [.mask md (~~~u.mask 0 ms1)]) ∧
  (∀ (first count : BitVec 13), ∃ m : BitVec 4096, (∀ j, m.getLsbD j = decide (first.toNat ≤ j ∧ j < first.toNat + count.toNat ∧ j < 4096)) ∧
    ∀ h g md, landsGuarded (.mseti h g md first count) h g 2 fun _ => [.mask md m]) ∧
  (∀ h g ct r, landsGuarded (.cset h g ct r) h g 2 fun u => [.chain ct (u.readX 1 (r + 1) ++ u.readX 0 r)]) ∧
  (∀ h g d vs lane,
    let ops (s : State) : List VOp := [{ r := vs, ok := typeKind (s.rowType vs) != 0 }]
    landsRows (.vget h g d vs lane) h g 4 false ops (laneStop vs lane) (fun u =>
      let w := laneWidth (u.rowType vs)
      [.x d (placeX (u.rowType vs) ((u.readRow 0 vs).1.extractLsb' (w * (u.readX 4 lane).toNat) w).toNat)]) ∧
    stopsRows (.vget h g d vs lane) h g ops (laneStop vs lane)) ∧
  (∀ h g vd val lane,
    let ops (s : State) : List VOp := [{ r := vd, write := true, read := false, ok := typeKind (s.rowType vd) != 0 }]
    landsRows (.vput h g vd val lane) h g 4 false ops (laneStop vd lane) (fun u =>
      let w := laneWidth (u.rowType vd)
      [.lane vd w (u.readX 4 lane).toNat ((u.readX 5 val).toNat % 2 ^ w)]) ∧
    stopsRows (.vput h g vd val lane) h g ops (laneStop vd lane)) ∧
  (∀ h g vd vs d, landsRows (.vsnap h g vd vs d) h g 12 true (sameOps [0, 1, 2, 3] vd false [vs]) noCheck fun u =>
    let a := u.readRow 0 vs
    [.row vd a.1 a.2, .x d (if u.owners (rowTile vs) = [] then 0 else 1#64 <<< 63 ||| BitVec.ofNat 64 (u.snapCount (rowTile vs) % 2 ^ 32))])

/-- R186, R193, R194, R313: VPOP pops one row, into VD with a true guard, to nothing with a false one; VPUSH's row can be popped twelve cycles after
issue; CHAIN of no rows completes like NOP, of more it goes on with the entry and the scalars read at issue. That a VPOP with a
false guard lands no conversion flags is the model's choice (log 82). -/
def Obligations.QueueRowWordsComplete : Prop :=
  (∀ h g vd q s r t, s.issues (.vpop h g vd q) h →
    let u := s.opened h
    let use := u.guard g
    s.vpopCheck (s.guard g) vd q = none → s.rowHere s.cur q s.str.nextId = true → u.vpopCheck use vd q = none →
    (use = true → ∀ e, u.tqHead (qName q) u.now = some e → e.tag = u.rowType vd) →
    u.popRow u.cur q use u.rmode = .ok (r, t) →
    exec (.vpop h g vd q) s = .next (if use then t.holdV.sends h 12 (.row vd r.image 0 :: flagEff r.fl) else t.holdV.sends h 1 [])) ∧
  (∀ h g q vs s, s.issues (.vpush h g q vs) h → s.vpushCheck (s.guard g) q vs = none → s.rowRoom s.cur q = true →
    let u := s.opened h
    u.vpushCheck (u.guard g) q vs = none →
    let v := u.seedSync.noteRows [{ r := vs }]
    let t := (v.pushRow v.cur q (v.readRow 0 vs).1 (v.rowType vs) 0 (v.now + 12)).holdV
    exec (.vpush h g q vs) s = .next (t.sends h (if u.guard g then 12 else 1) [])) ∧
  (∀ h g iq oq ct cnt s, s.issues (.chain h g iq oq ct cnt) h →
    let u := s.opened h
    let use := u.guard g
    let n := (u.readX 4 cnt).toNat % 2 ^ 32
    let e := u.chainEntry 3 ct
    let scalars := (List.range 8).map fun i => u.readX (10 + i) (e.extractLsb' (16 * i + 5) 5)
    u.chainCheck use iq oq e = none →
    (n = 0 → exec (.chain h g iq oq ct cnt) s = .next (u.sends h 1 [])) ∧
    (∀ d c k x, n ≠ 0 → u.cur = .eng d c k x → exec (.chain h g iq oq ct cnt) s =
      .next (((u.launchWord h.tks none [] (.chain iq oq e scalars use n 0 0 none 0)).chainGo d c k u.str.nextId).finish .fall)))

/-! ## C's words and the system core's -/

/-- R369, R372-R375: DEPDEC goes on with what its release covers; DEPSET's write is due two cycles after issue; DEPREAD lands the counter's word six
cycles after; a counter this die may not name stops all three with DEP_RANGE. -/
def Obligations.CounterWordsComplete : Prop :=
  let bad (u : State) (c : Word) : Prop := bits c 63 14 ≠ 0 ∨ u.live (Fin.ofNat 4 (bits c 13 12)) = false ∨
    (bits c 13 12 ≠ (whoDie u.cur).val ∧ (u.dc (Fin.ofNat 4 (bits c 13 12)) (bits c 11 0)).scope = false)
  let word (c : Dc) : Word := BitVec.ofNat 64 (c.value.toNat + 2 ^ 32 * c.act.toNat + 2 ^ 36 * c.scope.toNat + 2 ^ 39 * c.sysrec.toNat +
    2 ^ 40 * c.asn.toNat + 2 ^ 63 * c.under.toNat)
  (∀ h g ctr amt, goesTo (.depdec h g ctr amt) h g
    (fun s => ¬bad (s.opened h) ((s.opened h).readX 0 ctr) ∧ bits ((s.opened h).readX 1 amt) 63 24 = 0) fun u =>
      u.starts h (.depdec ((u.readX 0 ctr).extractLsb' 12 2) ((u.readX 0 ctr).extractLsb' 0 12) ((u.readX 1 amt).extractLsb' 0 24) u.str.cov)) ∧
  (∀ h g ctr val lrec, goesTo (.depset h g ctr val lrec) h g
    (fun s => let u := s.opened h
      ¬bad u (u.readX 0 ctr) ∧ u.readX 1 val &&& ~~~0x1300FFFFFF = 0 ∧ bits (u.readX 1 val) 33 32 ≠ 3 ∧
        (bits (u.readX 1 val) 33 32 = 1 → (u.readX 2 lrec).toNat % 64 = 0 ∧ ∀ d, u.cur = .sys d → (sysFrame d (u.readX 2 lrec).toNat 64).isSome = true)) fun u =>
      u.sent h (some (u.now + 2)) [] (.depset ((u.readX 0 ctr).extractLsb' 12 2) ((u.readX 0 ctr).extractLsb' 0 12) (u.readX 1 val) (u.readX 2 lrec))) ∧
  (∀ h g d ctr, goesTo (.depread h g d ctr) h g (fun s => ¬bad (s.opened h) ((s.opened h).readX 0 ctr)) fun u =>
    u.sends h 6 [.x d (word (u.dc (Fin.ofNat 4 (bits (u.readX 0 ctr) 13 12)) (bits (u.readX 0 ctr) 11 0)))]) ∧
  (∀ h g ctr amt, stopsWith (.depdec h g ctr amt) h g (fun s => bad (s.opened h) ((s.opened h).readX 0 ctr)) fun u => { cause := .depRange, info0 := u.readX 0 ctr }) ∧
  (∀ h g ctr amt, stopsWith (.depdec h g ctr amt) h g
    (fun s => ¬bad (s.opened h) ((s.opened h).readX 0 ctr) ∧ bits ((s.opened h).readX 1 amt) 63 24 ≠ 0) fun u =>
      { cause := .depRange, info0 := u.readX 0 ctr, info1 := u.readX 1 amt }) ∧
  (∀ h g ctr val lrec, stopsWith (.depset h g ctr val lrec) h g (fun s => bad (s.opened h) ((s.opened h).readX 0 ctr)) fun u =>
    { cause := .depRange, info0 := u.readX 0 ctr }) ∧
  (∀ h g d ctr, stopsWith (.depread h g d ctr) h g (fun s => bad (s.opened h) ((s.opened h).readX 0 ctr)) fun u => { cause := .depRange, info0 := u.readX 0 ctr })

/-- R37, R204, R343, R344: LAUNCH of a well-formed record lands 1 where no die of its mask is live, 2 where its queue is disabled, else 0 with the
record in the queue; a malformed record stops with LAUNCH_REC; ABORT cancels the job's channels and ends its issue. -/
def Obligations.LaunchAndAbortWordsComplete : Prop :=
  (∀ h g r lq d s, s.opens (.launch h g r lq d) h g → launchRoom r (Fin.ofNat 16 lq.toNat) s = true → s.readsNow h = true →
    let u := s.opened h
    let a := u.readX 0 r
    let q : Fin 16 := Fin.ofNat 16 lq.toNat
    let l : List (Byte × Bool) := match u.cur with
      | .eng .. => u.jb.spRead a.toNat 64
      | .sys e => (u.sysGet e a.toNat 64).1.map fun b => (b, (u.sysGet e a.toNat 64).2)
    let rec_ := launchOf (l.map (·.1))
    let bad : Prop := l.any (·.2) = true ∨ launchBad (l.map (·.1)) = true ∨ (∃ e c k x, u.cur = .eng e c k x ∧ rec_.asn ≠ u.jb.asn)
    let anyLive : Prop := ∃ i : DieId, rec_.dies.getLsbD i.val = true ∧ u.live i = true
    u.launchPlaceBad a.toNat = false →
    (bad → exec (.launch h g r lq d) s = .next (s.stopIssue { cause := .launchRec, info0 := a })) ∧
    (¬bad → ¬anyLive → exec (.launch h g r lq d) s = .next (u.sends h 4 [.x d 1])) ∧
    (¬bad → anyLive → (u.lq (whoDie u.cur) q).enable = false → exec (.launch h g r lq d) s = .next (u.sends h 4 [.x d 2])) ∧
    (¬bad → anyLive → (u.lq (whoDie u.cur) q).enable = true → exec (.launch h g r lq d) s =
      .next ((u.updLq (whoDie u.cur) q fun y => y.enter { rec_ with cov := (u.covers u.cur u.str.nextId).map fun i => (u.recOf u.cur, i) } u.time (launchRank u.cur)).sends h 4
        [.x d 0]))) ∧
  (∀ h g code, goesTo (.abort h g code) h g (fun _ => True) fun u =>
    let t : Who := match u.cur with
      | .eng d c k _ => .eng d c k .t
      | w => w
    let v := (List.range 4).foldl (fun (v : State) k => if (v.jb.chan k).isIdle then v else v.cancelChannel t k 0) u
    ((v.launchWord h.tks (some (u.now + 1)) [] .fixed).updJb fun j =>
      { (j.untrap u.now) with phase := .stopping .abort u.now, abortCode := code, pgmStop := [] }).finish .fall)

/-- R213, R226: SYSRD and SYSWR of an aligned address within a region go on, with JOBSTAT pending; an unaligned one stops with ALIGN, one of no
region with BAD_TARGET, a write of a locked register with LOCKED; TLBINV goes on with its operands. That the lock is checked at issue is the model's
choice (log 71). -/
def Obligations.SystemAccessWordsComplete : Prop :=
  (∀ h g d addr, goesTo (.sysrd h g d addr) h g
    (fun s => let u := s.opened h
      (u.readX 0 addr).toNat % 8 = 0 ∧ sysMapped (whoDie u.cur) (u.readX 0 addr).toNat = true) fun u =>
      (u.launchWord h.tks none [.csr 0x10C 0] (.sysRead (u.readX 0 addr) d)).finish .fall) ∧
  (∀ h g val addr, goesTo (.syswr h g val addr) h g
    (fun s => let u := s.opened h
      (u.readX 0 addr).toNat % 8 = 0 ∧ sysMapped (whoDie u.cur) (u.readX 0 addr).toNat = true ∧
        u.sysWrite (whoDie u.cur) (u.readX 0 addr).toNat (u.readX 1 val) ≠ .locked) fun u =>
      (u.launchWord h.tks none [.csr 0x10C 0] (.sysWrite (u.readX 0 addr) (u.readX 1 val))).finish .fall) ∧
  (∀ h g d addr, stopsWith (.sysrd h g d addr) h g (fun s => ((s.opened h).readX 0 addr).toNat % 8 ≠ 0) fun u => { cause := .align, info0 := u.readX 0 addr }) ∧
  (∀ h g val addr, stopsWith (.syswr h g val addr) h g (fun s => ((s.opened h).readX 0 addr).toNat % 8 ≠ 0) fun u => { cause := .align, info0 := u.readX 0 addr }) ∧
  (∀ h g d addr, stopsWith (.sysrd h g d addr) h g
    (fun s => ((s.opened h).readX 0 addr).toNat % 8 = 0 ∧ sysMapped (whoDie (s.opened h).cur) ((s.opened h).readX 0 addr).toNat = false) fun u =>
      { cause := .badTarget, info0 := u.readX 0 addr }) ∧
  (∀ h g val addr, stopsWith (.syswr h g val addr) h g
    (fun s => let u := s.opened h
      (u.readX 0 addr).toNat % 8 = 0 ∧ sysMapped (whoDie u.cur) (u.readX 0 addr).toNat = true ∧
        u.sysWrite (whoDie u.cur) (u.readX 0 addr).toNat (u.readX 1 val) = .locked) fun _ => { cause := .locked }) ∧
  (∀ h g cb rng scope, goesTo (.tlbinv h g cb rng scope) h g (fun _ => True) fun u =>
    u.starts h (.tlbinv (u.readX 0 cb) (u.readX 1 rng) scope))

/-- R207, R214: RESUME, KILL and SUSPEND land JOBSTAT four cycles after issue: 1 for a stale GEN, 2 for a job that has ended, 3 while an earlier request on the job is in
progress, 2 for a job in the wrong state, 0 where the action is begun. -/
def Obligations.RequestWordsComplete : Prop :=
  ∀ p ∈ ([(.resume, Job.resumable, State.askResume), (.kill, Job.killable, State.askKill), (.suspend, Job.settled, State.askSuspend)] :
    List ((Hdr → Guard → BitVec 5 → Instr) × (Job → Bool) × (State → DieId → Nat → State))),
    ∀ h g hreg s, s.opens (p.1 h g hreg) h g →
      let u := s.opened h
      let hd := u.readX 0 hreg
      let done (t : State) (v : Word) : Host.Outcome State Fault Refusal := .next (t.sends h 4 [.csr 0x10C v])
      ∀ y, (u.die (whoDie u.cur)).recs[bits hd 6 0]? = some y →
      (y.gen ≠ hd.extractLsb' 8 24 → exec (p.1 h g hreg) s = done u 1) ∧
      (y.gen = hd.extractLsb' 8 24 → y.job = none → exec (p.1 h g hreg) s = done u 2) ∧
      (∀ j, y.gen = hd.extractLsb' 8 24 → y.job = some j →
        exec (p.1 h g hreg) s = if j.requested then done u 3 else if p.2.1 j then done (p.2.2 u (whoDie u.cur) (bits hd 6 0)) 0 else done u 2)

/-- R237, R238, R359, R366: SEGSET and MIGRATE hold the system core and their buffer; FRAME writes its leaves, frames the page's lines and clears the
TLBs; ROUTEW writes its die's replica; each stops as its rule says. That FRAME and ROUTEW act on their own die at issue (log 71), and that MIGRATE of
buffers 0 and 4095 is SEG_BAD (log 58), are the model's choices. -/
def Obligations.TableWordsComplete : Prop :=
  let buf (c : Word) : BitVec 12 := c.extractLsb' 52 12
  let asn (c : Word) : BitVec 8 := c.extractLsb' 0 8
  let held (u : State) (h : Hdr) (c : Word) (x : SysHold) : State :=
    let t := (u.updSys (whoDie u.cur) fun y => { y with hold := some x }).launchWord h.tks none [] .sysAccess
    ({ t with held := t.held ++ [(asn c, buf c)] }).finish .fall
  let value (u : State) (r : BitVec 5) : BitVec 256 := u.readX 4 (r + 3) ++ u.readX 3 (r + 2) ++ u.readX 2 (r + 1) ++ u.readX 1 r
  (∀ h g cb r, goesTo (.segset h g cb r) h g (fun s => segBad (buf ((s.opened h).readX 0 cb)) (value (s.opened h) r) = false) fun u =>
    held u h (u.readX 0 cb) (.segset (buf (u.readX 0 cb)) (asn (u.readX 0 cb)) (value u r))) ∧
  (∀ h g cb r, stopsWith (.segset h g cb r) h g (fun s => segBad (buf ((s.opened h).readX 0 cb)) (value (s.opened h) r) = true) fun _ => stopOf .segBad) ∧
  (∀ h g b die s, s.opens (.migrate h g b die) h g →
    let u := s.opened h
    let c := u.readX 0 b
    let t : DieId := Fin.ofNat 4 (bits (u.readX 1 die) 1 0)
    let e := u.seg (whoDie u.cur) (asn c) (buf c)
    let bad : Prop := buf c = 0 ∨ buf c = 4095 ∨ segLen e = 0 ∨ segKind e = 1 ∨ segKind e = 2
    let short := u.pinned t + u.reservedLines (asn c) (buf c) - pinBound
    (bad → exec (.migrate h g b die) s = .next (s.stopIssue (stopOf .segBad))) ∧
    (¬bad → u.live t = false → exec (.migrate h g b die) s = .next (s.stopIssue (stopOf .badTarget))) ∧
    (¬bad → u.live t = true → segHome e = t → exec (.migrate h g b die) s = .next (u.sends h 1 [])) ∧
    (¬bad → u.live t = true → segHome e ≠ t → segKind e = 3 → short ≠ 0 →
      exec (.migrate h g b die) s = .next (s.stopIssue { cause := .ubReserve, info1 := BitVec.ofNat 64 short })) ∧
    (¬bad → u.live t = true → segHome e ≠ t → (segKind e ≠ 3 ∨ short = 0) →
      exec (.migrate h g b die) s = .next (held u h c (.migrate (buf c) (asn c) t)))) ∧
  (∀ h g va fs s, s.opens (.frame h g va fs) h g →
    let u := s.opened h
    let o := (u.readX 0 va).toNat % 2 ^ 52
    let b : BitVec 12 := BitVec.ofNat 12 ((u.readX 0 va).toNat / 2 ^ 52)
    let f := u.readX 1 fs
    let n := bits f 63 60
    let a : BitVec 8 := f.extractLsb' 52 8
    let die := bits f 51 50
    let e := u.seg (whoDie u.cur) a b
    let size := 4096 * 4 ^ n
    let seg : Prop := b ≠ 0 ∧ b ≠ 4095 ∧ segLen e ≠ 0 ∧ segKind e = 3 ∧ o + size ≤ segLen e ∧ segHasRoot e = true
    let aligned : Prop := o % size = 0 ∧ bits f 24 0 % 4 ^ n = 0
    (¬seg → exec (.frame h g va fs) s = .next (s.stopIssue (stopOf .segBad))) ∧
    (seg → ¬aligned → exec (.frame h g va fs) s = .next (s.stopIssue (stopOf .align))) ∧
    (seg → aligned → u.leafPlace o (n / 4) 5 (segRoot e) = none → exec (.frame h g va fs) s = .next (s.stopIssue (stopOf .xlateFatal))) ∧
    (∀ p, seg → aligned → u.leafPlace o (n / 4) 5 (segRoot e) = some p →
      let spans := (List.range (4 ^ (n % 4))).map fun i => p + 8 * i
      let leaf := bits f 24 0 * 4096 + die * 512 + (if segW e then 128 else 0) + 64 + 4 * n + 3
      let framed := (spans.foldl (fun t q => t.physWrite q (leBytes 8 leaf)) u).frameLines a b o size (die * 2 ^ 37 + bits f 24 0 * 4096) (segHome e)
      exec (.frame h g va fs) s = .next (if spans.any fun q => u.entryTaken (n / 4) q then s.stopIssue (stopOf .xlateFatal)
        else (framed.dropTlb (List.finRange 4) fun t => t.asn == a && t.buf == b && decide (t.first < o + size ∧ o < t.first + 4096 * 4 ^ t.leaf.size)).starts
          h .sysAccess))) ∧
  (∀ h g idx r s, s.opens (.routew h g idx r) h g →
    let u := s.opened h
    let x := u.die (whoDie u.cur)
    let i : Word := u.readX 0 idx
    let keys := i.getLsbD 16
    let n := if keys then bits i 7 0 else bits i 12 0
    let old := if keys then x.keys.getD n 0 else x.routes.getD n 0
    let new : Word := (old &&& ~~~u.readX 2 (r + 1)) ||| (u.readX 1 r &&& u.readX 2 (r + 1))
    let locked := x.lockstat.getLsbD (if keys then 1 else 0)
    let clean : Prop := new &&& (if keys then 0x7FFFFFFFFFFF0000#64 else 0x7FFFFFFFFFF00000#64) = 0
    (locked = true → exec (.routew h g idx r) s = .next (s.stopIssue { cause := .locked, info0 := some (if keys then 1 else 0) })) ∧
    (locked = false → i.toNat ≠ n + (if keys then 2 ^ 16 else 0) → exec (.routew h g idx r) s = .next (s.stopIssue { cause := .badTarget, info0 := i })) ∧
    (locked = false → i.toNat = n + (if keys then 2 ^ 16 else 0) → ¬clean →
      exec (.routew h g idx r) s = .next (s.stopIssue { cause := .badTarget, info0 := new })) ∧
    (locked = false → i.toNat = n + (if keys then 2 ^ 16 else 0) → clean →
      exec (.routew h g idx r) s = .next ((u.putRoute (whoDie u.cur) keys n new).starts h (.route keys n new))))
/-! ## The machine's own steps

Each is stated where its step is enabled; a step that is not leaves the state as it was (log 5). -/

/-- R32, R33, R110, R116: RESULT_LANDING completes a word whose result is due, and HOLD_EXPIRE a HOLD whose cycles are over; before its cycle a
result changes nothing. -/
def Obligations.LandingStepsCompleteWords : Prop :=
  (∀ w id s f, s.flight? w id = some f → f.halted = false →
    (f.work = .fixed ∨ (∃ e n, f.work = .tksend e n) ∨ (∃ sc, f.work = .acq sc) ∨ (∃ sc c, f.work = .phase sc c)) →
    exec (.resultLanding w id) s = .next (if f.landed (s.timeOf w) then s.complete w f else s)) ∧
  (∀ d c k e s st f, s.mayStep (.eng d c k e) = true → s.stream? (.eng d c k e) = some st →
    st.flights.find? (fun x => x.work == .hold && x.landed (s.timeOf (.eng d c k e))) = some f →
    exec (.holdExpire d c k e) s = .next ((s.complete (.eng d c k e) f).updStream (.eng d c k e) fun st =>
      { st with last := max st.last ((f.land.getD 0 : Nat) : Int) })) ∧
  (∀ w id s f n code, s.flight? w id = some f → f.halted = false → f.work = .trap n code → f.landed (s.timeOf w) = true →
    (∀ j, s.jobOf? w = some j → j.issuing (s.timeOf w) = true) →
    exec (.resultLanding w id) s = .next (
      let t := (s.complete w f).updStream w Stream.loopEnd
      t.stopAt w ((t.stream? w).map (·.pc) |>.getD 0) { cause := swTrap n, info0 := code.zeroExtend 64 } f.id))

/-- R242, R249, R254, R269, R274: DATA_RETURN gives an LDX its bytes, sign- or zero-extended, and an RPROBE or LOCK its register;
WRITE_ACKNOWLEDGEMENT performs an STX; INDEX_STEP takes the next index; RELEASE_DONE ends a REL whose writes are acknowledged. -/
def Obligations.AccessStepsCompleteWords : Prop :=
  let free (w : Who) (s : State) (va : Word) : Prop := s.ordHeld w (bufOf va.toNat) = false
  (∀ w id got s f va size sx d l t, s.flight? w id = some f → f.halted = false → f.work = .ldx va size sx d → free w s va →
    s.mayAccess w f [(va.toNat, 2 ^ size.toNat)] true = true →
    s.readPiece w va.toNat (2 ^ size.toNat) (!f.waited) (some got) f.page = .ok l t → l.any (·.2) = false →
    let v := BitVec.ofNat (8 * 2 ^ size.toNat) (leNat (l.map (·.1)))
    leNat (l.map (·.1)) < 2 ^ (8 * 2 ^ size.toNat) →
    exec (.dataReturn w id got) s = .next (((t.sampleLoad w va.toNat).updJobOf w fun j => j.moved (bufOf va.toNat) (2 ^ size.toNat)).completeAccess w
      { f with effs := [.x d (if sx then v.signExtend 64 else v.zeroExtend 64)] })) ∧
  (∀ w id got s f va size sx d l t, s.flight? w id = some f → f.halted = false → f.work = .ldx va size sx d → free w s va →
    s.mayAccess w f [(va.toNat, 2 ^ size.toNat)] true = true →
    s.readPiece w va.toNat (2 ^ size.toNat) (!f.waited) (some got) f.page = .ok l t → l.any (·.2) = true →
    exec (.dataReturn w id got) s = .next (t.stopFlight w f { cause := .poison, info0 := va })) ∧
  (∀ w id got s f va, s.flight? w id = some f → f.halted = false → free w s va →
    ((∃ n k d, f.work = .probe va n k d) ∨ (∃ up n d, f.work = .lock up va n d)) → exec (.dataReturn w id got) s = .next (s.completeAccess w f)) ∧
  (∀ w id s f va data t, s.flight? w id = some f → f.halted = false → f.work = .stx va data → free w s va →
    s.mayAccess w f [(va.toNat, data.length)] false = true → s.writeVa w f.id va.toNat (data.map fun b => (b, false)) f.page = .ok t →
    exec (.writeAcknowledgement w id) s = .next (((t.progress w).updJobOf w fun j => j.moved (bufOf va.toNat) data.length).completeAccess w f)) ∧
  (∀ d c k s st f op dq iq t tn isz n done i, let w : Who := .eng d c k .a
    s.mayStep w = true → s.stream? w = some st →
    st.flights.find? (fun x => !x.halted && (match x.work with
      | .index _ _ _ t _ _ n done _ => decide (done < n) && !s.ordHeld w (bufOf (tBase t))
      | _ => false)) = some f → f.work = .index op dq iq t tn isz n done (some i) → (s.jobOf? w).isSome = true →
    (indexInval isz i.idx || indexOor isz t i.idx) = true → op = 0 →
    let zeros := List.replicate (fmtBytes (tFmt t) (tCols t)) ((0 : Byte), false)
    let u := s.updJobOf w fun j => j.updDq dq.toNat fun x => x.fill f.id (s.timeOf w) zeros
    exec (.indexStep d c k) s = .next (if done + 1 = n then u.completeAccess w f
      else u.updStream w fun st => st.updFlight f.id fun y => { y with work := .index op dq iq t tn isz n (done + 1) none })) ∧
  (∀ d c k s st f op dq iq t tn isz n done cur, s.mayStep (.eng d c k .a) = true → s.stream? (.eng d c k .a) = some st →
    st.flights.find? (fun x => !x.halted && (match x.work with
      | .index _ _ _ t _ _ n done _ => decide (done < n) && !s.ordHeld (.eng d c k .a) (bufOf (tBase t))
      | _ => false)) = some f → f.work = .index op dq iq t tn isz n done cur →
    exec (.indexStep d c k) s = .next (s.indexStep (.eng d c k .a) f op dq iq t tn isz n done cur none)) ∧
  (∀ w id s f sc c, s.flight? w id = some f → f.work = .rel sc c → s.backsOver w f = true → s.released w f sc = true →
    exec (.releaseDone w id) s = .next (s.complete w f))

/-- R316, R317, R326-R332, R439: CHANNEL_ACCEPT takes a waiting XCOPY into its channel, CHANNEL_GRANULE moves its next piece on, RECORD_RUN begins a
chain's next record or ends the chain, RECORD_DONE ends one; STOP_DELIVERY stops a T that waits; TQ_WAIT_END gives a TQIN its entry and a TQOUT its
place. The granule clause is about uncompressed transfers. That a record's transfer uses RMODE as it stands when the record runs is the model's choice
(log 32). -/
def Obligations.ChannelStepsMoveTransfers : Prop :=
  (∀ d c k s j f ch x us t, s.tStream d c k = some (.eng d c k .t, j) →
    (j.streams[(2 : Fin 5)]).flights.find? (fun y => !y.halted && (match y.work with
      | .xcopy .. => true
      | _ => false)) = some f → f.work = .xcopy ch x → (j.chan ch.toNat).xfers.length < 4 → s.bufHeldAny (.eng d c k .t) x.bufs = false → s.resolveDirs d c x.indices = (.ok us, t) →
    exec (.channelAccept d c k) s =
      .next (((t.updJobOf (.eng d c k .t) fun j => j.accept ch.toNat { x with dirs := us, cov := f.cov, since := t.time }).complete (.eng d c k .t) f).openGate (.eng d c k .t))) ∧
  (∀ d c k ch got s j x rest t fl pois, s.tStream d c k = some (.eng d c k .t, j) → (j.chan ch.val).xfers = x :: rest → (j.chan ch.val).st = .busy →
    let w : Who := .eng d c k .t
    let off := (j.chan ch.val).wp - x.start
    let n := min x.unit (x.total - off)
    off < x.total → (j.chan ch.val).flying = 0 → (x.dataBufs.any fun b => s.ordHeld w b) = false → x.cov.any j.outstanding = false → xsComp x.spec = 0 →
    s.rangesWait w false (x.lines off n) = false →
    s.moveGranule w (channelWrites ch.val) x off n got = .ok (t, fl, pois) →
    let t' := if pois && !x.noted then t.notice d .copyPoison c.val (handleOf j.gen j.idx) else t
    let x' : Xfer := { x with flags := x.flags ||| fl, noted := x.noted || pois }
    let u := t'.updJobOf w fun j => (x.moves off n).foldl (fun j p => j.moved p.1 p.2) (j.updChan ch.val fun q => { q with flying := n, xfers := x' :: q.xfers.drop 1 })
    exec (.channelGranule d c k ch got) s = .next (if u.chanOut w ch.val u.outSeq then u else u.passBytes w ch.val n)) ∧
  (∀ d c k ch got s j, s.tStream d c k = some (.eng d c k .t, j) → (j.chan ch.val).recVa = some 0 → (j.chan ch.val).st = .busy → (j.chan ch.val).running = false →
    exec (.recordRun d c k ch got) s = .next (s.endChain (.eng d c k .t) d c j ch.val)) ∧
  (∀ d c k ch got s j va l t us v, s.tStream d c k = some (.eng d c k .t, j) → (j.chan ch.val).recVa = some va → (j.chan ch.val).st = .busy →
    (j.chan ch.val).running = false → (j.chan ch.val).image = [] → va ≠ 0 → s.bufHeldAny (.eng d c k .t) [bufOf va.toNat] = false →
    (j.chan ch.val).cov.any j.outstanding = false → s.rangesWait (.eng d c k .t) false [(va.toNat, 64)] = false →
    s.readVa (.eng d c k .t) va.toNat 64 false (some got) = .ok l t → l.any (·.2) = false →
    let img := l.map (·.1)
    let x := recXfer img (j.streams[(2 : Fin 5)]).rmode va
    let u := t.updJobOf (.eng d c k .t) fun j => j.moved (bufOf va.toNat) 64
    (recCtl img).getLsbD 63 = true → u.recordBad (.eng d c k .t) va img x (j.chan ch.val).wp j.spBytes = none →
    u.bufHeldAny (.eng d c k .t) x.bufs = false → u.resolveDirs d c x.indices = (.ok us, v) →
    exec (.recordRun d c k ch got) s = .next ((v.updJobOf (.eng d c k .t) fun y => y.updChan ch.val fun q =>
      { q with running := true, image := img, notify := (recCtl img).getLsbD 62 }).updJobOf (.eng d c k .t) fun y =>
        y.accept ch.val { x with dirs := us, cov := (j.chan ch.val).cov, since := v.time })) ∧
  (∀ d c k ch s j x va t, s.tStream d c k = some (.eng d c k .t, j) → (j.chan ch.val).xfers = [x] → (j.chan ch.val).recVa = some va →
    (j.chan ch.val).running = true → (j.chan ch.val).st = .busy → x.start + x.total ≤ (j.chan ch.val).wp →
    s.ordHeld (.eng d c k .t) (bufOf va.toNat) = false → s.rangesWait (.eng d c k .t) false [(va.toNat + 8, 8)] = false →
    let ctl := recCtl (j.chan ch.val).image
    s.writeCtl (.eng d c k .t) ch.val va (recStatus ctl false 0 x.total) = .ok t →
    let u := if ctl.getLsbD 61 then t.updDie d fun y => { y with decs := y.decs ++ [{ ctr := ctl.extractLsb' 49 12, amt := 1 }] } else t
    exec (.recordDone d c k ch) s = .next ((u.updJobOf (.eng d c k .t) fun j => (j.letGo x).updChan ch.val fun q =>
      { q with xfers := [], running := false, image := [], recVa := some (recNext (j.chan ch.val).image) }).tFlags (.eng d c k .t) x.flags)) ∧
  (∀ d (r : RecId) s j c k st rest, s.job? d r.val = some j → j.home = some (c, k) → j.pending = st :: rest → j.issuing (s.timeOf (.eng d c k .t)) = true → s.live d = true →
    (j.streams[(2 : Fin 5)]).atEnd = true → (j.streams[(2 : Fin 5)]).flights = [] →
    exec (.stopDelivery d r) s = .next ((s.dropPreempt (.eng d c k .t) (s.timeOf (.eng d c k .t))).updJobOf (.eng d c k .t) fun y =>
      (match (List.range 4).find? fun i => (y.chan i).stop == some st with
        | some i => y.updChan i fun q => { q with stop := none }
        | none => { y with pgmStop := y.pgmStop.erase st }).trap 2 (j.streams[(2 : Fin 5)]).pc st (s.bare (whoSite (.eng d c k .t))) (s.timeOf (.eng d c k .t))
          (j.streams[(2 : Fin 5)]).nextId)) ∧
  (∀ d c k s j f q t o e, s.tStream d c k = some (.eng d c k .t, j) →
    (j.streams[(2 : Fin 5)]).flights.find? (fun y => !y.halted && (match y.work with
      | .tqin _ _ _ m => m.isNone
      | .tqout _ _ _ l => !l
      | _ => false)) = some f → f.work = .tqin q t o none →
    let w : Who := .eng d c k .t
    let s0 : State := { s with cur := w }
    s0.tqHead (qName q) (s.timeOf w) = some e → e.ue = false → e.tag = tFmt t → e.poison = 0 →
    exec (.tqWaitEnd d c k) s = .next { ((s0.tqPop (qName q)).updStream w fun st => st.updFlight f.id fun y =>
      { y with work := .tqin q t o (some e.image), land := some (s.timeOf w + 40) }).openGate w with cur := s.cur }) ∧
  (∀ d c k s j f q t o, s.tStream d c k = some (.eng d c k .t, j) →
    (j.streams[(2 : Fin 5)]).flights.find? (fun y => !y.halted && (match y.work with
      | .tqin _ _ _ m => m.isNone
      | .tqout _ _ _ l => !l
      | _ => false)) = some f → f.work = .tqout q t o false →
    let w : Who := .eng d c k .t
    let s0 : State := { s with cur := w }
    s0.tqRoom (qName q) = true → s0.acquired w f = true →
    exec (.tqWaitEnd d c k) s = .next { ((((s0.tqMake (qName q)).updTq (qName q) fun x => { x with reserved := x.reserved + 1 }).updStream w fun st =>
      st.updFlight f.id fun y => { y with work := .tqout q t o true, land := some (s.timeOf w + 8) }).openGate w) with cur := s.cur })

/-- R320-R324: MQ_BINDING_WRITE binds a queue, its generation counted, or refuses with JOBSTAT 2; that a binding write empties head, tail, held credits,
owners, appends and HEAD writes is the model's choice (log 29). MQ_CREDIT_REQUEST grants up to 8
credits; MQ_APPEND writes the entry, then TAIL; MQ_HEAD_WRITE takes a HEAD that frees entries; MSEND_CREDIT gives a waiting MSEND its credit. -/
def Obligations.MessageQueueSteps : Prop :=
  (∀ d c q v s, bits v 5 0 = 0 → exec (.mqBindingWrite d c q true v) s =
    .next ((s.updMq d c q fun m => { m with offset := v.extractLsb' 0 20 }).updSys d fun x => { x with jobstat := 0 })) ∧
  (∀ d c q v s, 6 ≤ bits v 59 56 → bits v 59 56 ≤ 12 → exec (.mqBindingWrite d c q false v) s = .next ((s.updMq d c q fun m => { m with
    valid := v.getLsbD 63, log2 := v.extractLsb' 56 4, gen := m.gen + 1, count := v.extractLsb' 32 16, handle := v.extractLsb' 0 32
    head := 0, tail := 0, held := 0, owners := [], appends := [], heads := [] }).updSys d fun x => { x with jobstat := 0 })) ∧
  (∀ d c q second v s, (if second then bits v 5 0 ≠ 0 else bits v 59 56 < 6 ∨ 12 < bits v 59 56) →
    exec (.mqBindingWrite d c q second v) s = .next (s.updSys d fun x => { x with jobstat := 2 })) ∧
  (∀ d c q s r rest, (s.mq d c q).reqs = r :: rest → (s.mq d c q).valid = true → s.mqOwner d c (s.mq d c q) ≠ none → (s.mq d c q).free ≠ 0 →
    r.pkg = s.packageId →
    let n := min 8 (s.mq d c q).free
    exec (.mqCreditRequest d c q) s = .next ((s.updMq d c q fun m => { m with reqs := rest, held := m.held + n }).grantCredits r.die r.jrec
      (BitVec.ofNat 64 (pkgCore d c + q.val * 2 ^ 16)) (s.mq d c q).gen (s.mq d c q).esz n true)) ∧
  (∀ d c q s a rest r j tag, (s.mq d c q).appends = a :: rest → s.mqOwner d c (s.mq d c q) = some r → s.job? d r = some j → a.tag = some tag →
    s.bankTag d c j (s.mq d c q).offset.toNat = tag →
    let m := s.mq d c q
    exec (.mqAppend d c q) s = .next ((s.updJob d r fun j => (j.spWrite (m.offset.toNat + 64 + m.esz * (m.tail.toNat % m.count.toNat))
      (a.data.map fun b => (b, false))).spWrite m.offset.toNat ((leBytes 4 (m.tail + 1).toNat).map fun b => (b, false))).updMq d c q fun m =>
        { m with tail := m.tail + 1, appends := rest, owners := m.owners ++ [a.sender] })) ∧
  (∀ d c q head s rest, (s.mq d c q).heads = head :: rest →
    let n := (head - (s.mq d c q).head).toNat
    ∃ t, exec (.mqHeadWrite d c q head) s = .next t ∧ (t.mq d c q).head = head ∧ (t.mq d c q).owners = (s.mq d c q).owners.drop n ∧ (t.mq d c q).tail = (s.mq d c q).tail) ∧
  (∀ d c k s j f q t n cr popped e, s.slotJob? d c k = some j → j.issuing (s.timeOf (.eng d c k .a)) = true → s.live d = true → j.msend? true = some f →
    f.work = .msend q t n cr popped → s.refusedApp d (s.recOf (.eng d c k .a)) = none → j.credit? (s.tgtName t) = some e → 0 < e.n → n + 16 ≤ e.esz →
    exec (.msendCredit d c k) s = .next (((s.updJobOf (.eng d c k .a) fun j => { j with mqcred := j.mqcred.filter (· != e) ++ [{ e with n := e.n - 1 }] }).updStream
      (.eng d c k .a) fun st => st.updFlight f.id fun y => { y with work := .msend q t n (some (e.gen, e.esz)) popped }).openGate (.eng d c k .a)))

/-- R290-R299: PGM_ACCEPT queues T's request under the job's next tag; PGM_REQUEST_START takes the oldest, here of a row; an iteration that verifies ends its row,
one that fails eight times retires the row; a window of the governor begins anew each millisecond; a request deferred 2^20 cycles stops its job. That
the windows begin at multiples of 1 ms of global time is the model's choice (log 68). -/
def Obligations.ProgrammingSteps : Prop :=
  (∀ d c k s j f r src len, s.tStream d c k = some (.eng d c k .t, j) →
    (j.streams[(2 : Fin 5)]).flights.find? (fun y => !y.halted && (match y.work with
      | .pgm .. => true
      | _ => false)) = some f → f.work = .pgm r src len →
    (match r.kind with
      | .tile .. => f.issued + 4 + cdiv len 512
      | _ => f.issued + 4) ≤ s.timeOf (.eng d c k .t) → s.acquired (.eng d c k .t) f = true →
    let b := (j.spRead src len).map (·.1)
    let kind : PgmKind := match r.kind with
      | .row n _ => .row n (BitVec.ofNat 512 (leNat b))
      | .tile i kl _ => .tile i kl b
      | x => x
    exec (.pgmAccept d c k) s = .next (((((s.updColumn d r.col fun x => { x with queue := x.queue ++
      [{ r with tag := j.pgmNext, kind := kind, poisoned := (j.spRead src len).any (·.2) }] }).updJobOf (.eng d c k .t) fun j =>
        { j with pgmNext := j.pgmNext + 1, pgmOut := j.pgmOut + 1 }).complete (.eng d c k .t) f).openGate (.eng d c k .t)))) ∧
  (∀ d col s q rest l v, (s.column d col).queue = q :: rest → (s.column d col).run = none → s.live d = true → (s.column d col).lost = false →
    q.kind = .row l v →
    let r : PgmRun := { req := q, rows := [] }
    let t := s.updColumn d col fun y => { y with queue := rest, run := some r }
    exec (.pgmRequestStart d col) s = .next (if q.poisoned then t.pgmFail d col r .poison l else if (s.column d col).treeUe then t.pgmFail d col r .treeUe l
      else t.pgmNextRow d col { r with rows := [(l, v)] })) ∧
  (∀ d col ok s r p l v rest, (s.column d col).run = some r → r.prow = some p → r.rows = (l, v) :: rest → s.live d = true → (s.column d col).lost = false →
    r.since + 8500 ≤ s.time → (s.column d col).treeUe = false →
    let t := s.updColumn d col fun y => { y with rows := y.rows.put p v, soft := y.soft.del p, hard := y.hard.filter (· != p) }
    let n := r.iter + 1
    exec (.pgmIteration d col ok) s = .next (
      if ok then (t.sample d 6 (groveOf col).val n).pgmNextRow d col
        { r with rows := rest, prow := none, iter := 0, tries := 0, lastIter := n, made := r.made ++ [(l, p)] }
      else if n < 8 then t.updRun d col fun r => { r with iter := n, lastIter := n, since := t.time }
      else
        let u := (t.updColumn d col fun y => { y with retired := y.retired ++ [p] }).notice d .rowRetired col.val r.req.handle
        let r : PgmRun := { r with prow := none, iter := 0, lastIter := n, retired := r.retired + 1 }
        if 3 ≤ r.tries then u.pgmFail d col r .pgmVerify l else u.pgmNextRow d col r)) ∧
  (∀ d g s, s.live d = true → s.time / 17000000 ≠ (s.grove d g).govStart / 17000000 → (∀ col, groveOf col = g → (s.column d col).run = none) →
    exec (.govWindow d g) s = .next (s.updGrove d g fun y => { y with govCount := 0, govStart := s.time / 17000000 * 17000000 })) ∧
  (∀ d col s r t, (s.column d col).run = some r → r.req.deferred = some t → t + 2 ^ 20 ≤ (s.grove d (groveOf col)).cyc → (∀ l, r.req.kind ≠ .rewrite l) →
    exec (.pgmRate d col) s = .next ((s.updColumn d col fun x => { x with run := x.run.map fun r =>
      { r with req := { r.req with deferred := some (s.grove d (groveOf col)).cyc } } }).updJob d r.req.jrec fun j =>
        if j.gen = r.req.gen then { j with pgmStop := j.pgmStop ++ [{ cause := .pgmRate, info0 := r.req.tag.zeroExtend 64 }] } else j))

/-- R141, R142, R146, R161, R193, R194, R438: MMA_START gives the array's first MMA its first K-step's cycle; MMA_KSTEP adds the next and, with the last, ends it;
TEND_CHECK closes a clean window, stops one that cannot be replayed, or zeroes the tile and begins its replay; CHAIN_ROW carries the chains of V on.
That TEND's check may see a V row write in flight or not is R33's choice (log 94). -/
def Obligations.ArrayAndChainSteps : Prop :=
  (∀ d c s e rest f m, (s.core d c).array = e :: rest → s.flight? (.eng d c e.slot .m) e.id = some f → f.work = .mma m 0 none →
    exec (.mmaStart d c) s = .next (s.updStream (.eng d c e.slot .m) fun st => st.updFlight f.id fun y =>
      { y with work := .mma m 0 (some (max (f.issued + 8) (s.core d c).arrayDone : Nat)) })) ∧
  (∀ d c s e rest f m done a m' effs t, (s.core d c).array = e :: rest → s.flight? (.eng d c e.slot .m) e.id = some f → f.halted = false →
    f.work = .mma m done (some a) →
    let w : Who := .eng d c e.slot .m
    let now : Nat := s.timeOf w
    a + m.due done ≤ (now : Int) → s.mayAdd w (m.begun done a) (a + m.due done) = true → (m.readsPad = true → s.acquired w f = true) → s.addKStep w m false done f.rm = .added m' effs t →
    exec (.mmaKstep d c) s = .next (if done + 1 = m.nk then
      (t.complete w { f with effs := f.effs ++ effs, work := .mma m' (done + 1) (some a) }).leaveArray d c now
      else t.updStream w fun st => st.updFlight f.id fun y =>
        { y with effs := f.effs ++ effs, work := .mma m' (done + 1) (some (m'.heldTo (done + 1) (a + ((now : Int) - (a + m.due done))) (s.seedsUntil d c))) })) ∧
  (∀ (m : Mma) done (a : Int) (t : Nat), (t : Int) ≤ m.begun done a → m.heldTo done a t = a) ∧
  (∀ d c k s j f z done x result v, s.slotJob? d c k = some j →
    (j.streams[(3 : Fin 5)]).flights.find? (fun f => !f.halted && (match f.work with
      | .tend _ replaying _ _ result => replaying.isNone && decide (result ≤ s.timeOf (.eng d c k .m))
      | _ => false)) = some f → f.work = .tend z none done x result → (j.tile z).win = some v →
    let w : Who := .eng d c k .m
    let seen := State.seenTile { s with cur := w } z
    let clean : Prop := seen.erred = false ∧ (seen.armed = true → seen.mismatches f.tol = 0)
    (clean → exec (.tendCheck d c k) s = .next (((((s.auditEntry w j z v).freeRetained w v.retained).updJobOf w fun j =>
      j.updTile z fun t => { t with win := none, replayed := v.replays }).complete w f))) ∧
    (¬clean → v.replayable = false → exec (.tendCheck d c k) s = .next (s.stopFlight w f { cause := .retainOver, info0 := z.zeroExtend 64 })) ∧
    (¬clean → v.replayable = true → v.replays ≠ 2 → (v.retained.any fun m => m.nk != 0) = true → exec (.tendCheck d c k) s =
      .next ((((s.notice d .replayed c.val (handleOf j.gen j.idx)).updJobOf w fun j => j.writeTile z fun t =>
        { t.zeroed with armed := true, ckRow := Vector.replicate 32 0, ckCol := Vector.replicate 32 0
                        win := some { v with err := false, replays := v.replays + 1, log := [], steps := [] } }).updStream w fun st =>
          st.updFlight f.id fun y => { y with work := .tend z (some 0) 0 none result }).updCore d c fun x =>
            { x with array := x.array ++ [{ slot := k, id := f.id }] }))) ∧
  (∀ d c k s st, s.stream? (.eng d c k .v) = some st →
    exec (.chainRow d c k) s = .next (st.flights.foldl (fun s f => match f.work with
      | .chain _ _ _ _ _ n rows _ _ fl =>
        if n ≤ rows ∧ f.landed (s.timeOf (.eng d c k .v)) then s.complete (.eng d c k .v) { f with effs := flagEff fl }
        else if s.mayStep (.eng d c k .v) then s.chainGo d c k f.id else if s.live d then s.chainEnd (.eng d c k .v) f else s
      | _ => s) s))

/-- R340, R341, R369-R371, R373: COUNTER_DECREMENT applies the next decrement, ON_ZERO_ENQUEUE enters a pending record in a queue that accepts it,
a record enters behind those of earlier cycles and, within a cycle, by the order of their sources, LQ_TAIL_WRITE sets TAIL and HOST_RING_PULL takes the ring's next record; a decrement below zero leaves 0 and sets UNDER.
That a record holding a launch-table entry stays its queue's head is the model's choice (log 48). -/
def Obligations.CounterAndRingSteps : Prop :=
  (∀ d s r rest, (s.die d).decs = r :: rest →
    exec (.counterDecrement d) s = .next ((s.updDie d fun x => { x with decs := rest }).decrement d r.ctr.toNat r.amt.toNat)) ∧
  (∀ (s : State) (d : DieId) (n a : Nat), let c := s.dc d n
    let c' : Dc := { c with value := BitVec.ofNat 24 (c.value.toNat - a), under := c.under || decide (c.value.toNat < a) }
    s.decrement d n a = if c.value ≠ 0 ∧ c.value.toNat ≤ a then (s.putDc d n c').onZeroAction d n c' else s.putDc d n c') ∧
  (∀ d s i r, (s.die d).onZero.findIdx? (fun r => (s.lq d r.2.2).accepts) = some i → (s.die d).onZero[i]? = some r →
    exec (.onZeroEnqueue d) s = .next ((s.updLq d r.2.2 fun q => q.enter r.2.1 s.time (258 + r.1.toNat)).updDie d fun x =>
      { x with onZero := x.onZero.eraseIdx i })) ∧
  (∀ (q : Lq) (r : LaunchRec) (now rank : Nat), ∃ n,
    (q.enter r now rank).recs = q.recs.take n ++ { r with base := min r.base q.ceil.toNat, since := now, rank := rank } :: q.recs.drop n ∧
    (∀ y ∈ q.recs.drop n, y.since = now ∧ rank < y.rank) ∧
    (∀ y, 0 < n → q.recs[n - 1]? = some y → y.since ≠ now ∨ y.rank ≤ rank ∨ (n = 1 ∧ q.entry.isSome = true)) ∧
    (q.enter r now rank).entry = q.entry) ∧
  (∀ d q v s, s.live d = true → s.hostOpen = true → exec (.lqTailWrite d q v) s = .next ((s.updLq d q fun l => { l with tail := v, overNoted := false }).ringCheck d q)) ∧
  (∀ d q s, s.live d = true → (s.lq d q).enable = true → (s.lq d q).recs.length < 64 → (s.lq d q).overNoted = false → (s.lq d q).ringSize ≠ 0 →
    0 < ((s.lq d q).tail - (s.lq d q).head).toNat → ((s.lq d q).tail - (s.lq d q).head).toNat ≤ (s.lq d q).ringSize.toNat →
    let l := s.lq d q
    let g := s.sysGet d (l.ringBase.toNat + 64 * (l.head.toNat % l.ringSize.toNat)) 64
    let t := s.updLq d q fun l => { l with head := l.head + 1 }
    exec (.hostRingPull d q) s = .next (if g.2 = true ∨ launchBad g.1 = true then t.refuseRing d
      else t.updLq d q fun l => l.enter { launchOf g.1 with host := true } t.time 257))

/-- R337-R349: LAUNCH_CHECK makes a queue's first record its launch; LAUNCH_READY notes when its wait is over; PRIORITY_AGE ages what waits; DISPATCH
seats the first candidate on the core that R346 gives it, a saved job to resume, a new one in a free record, its launch counting it, or forwards it
to its die; PREEMPT stops the victim of R347, whose slot is kept; a die whose system core stopped dispatch places nothing. -/
def Obligations.LaunchSteps : Prop :=
  let placeable (s : State) (d : DieId) (a : Cand) : Prop := match a.kind with
    | .saved _ => s.columnGone d a = false
    | .head _ _ => a.dies ≠ [] ∧ (a.kernel.byDie = true → a.dies = [d])
    | .fwd _ => a.dies ≠ []
  (∀ d q s r rest n k t, (s.lq d q).recs = r :: rest → (s.lq d q).entry = none → s.live d = true → (s.lq d q).enable = true → (s.die d).launches.length < 256 →
    (List.range 256).find? (fun n => ((s.die d).launches.get? n).isNone) = some n → s.readKernel d r = (.ok k, t) →
    let l : Launch := { record := r, kernel := k, lq := q, ready := if r.wen then none else some t.time, eff := r.base, total := k.jobs }
    exec (.launchCheck d q) s = .next ((t.updDie d fun x => { x with launches := x.launches.put n l }).updLq d q fun l => { l with entry := some n })) ∧
  (∀ d q s n l, (s.lq d q).entry = some n → s.launchAt d n = some l → s.live d = true → l.ready = none →
    (l.record.wen = true → (s.dc d l.record.waitdc.toNat).value = 0) →
    exec (.launchReady d q) s = .next (s.updDie d fun x => { x with launches := x.launches.put n { l with ready := some s.time } })) ∧
  (∀ (d : DieId) (s : State), s.live d = true →
    let age (l : Launch) : Launch := match l.ready with
      | some t => { l with eff := aged l.record.base t s.time }
      | none => l
    let older (f : Forward) : Forward := match s.launchAt f.owner f.launch with
      | some l => { f with eff := aged l.record.base f.since s.time }
      | none => f
    exec (.priorityAge d) s = .next (s.updDie d fun x =>
      { x with launches := x.launches.map fun e => (e.1, age e.2), forwards := x.forwards.map older })) ∧
  (∀ d s a rest e c, s.live d = true → (s.die d).noDispatch = false → (s.candidates d).foldr insertCand [] = a :: rest → placeable s d a →
    s.placeFor a = some (e, c) →
    (∀ r, a.kind = .saved r → exec (.dispatch d) s = .next (s.seat e r c a.key a.eff fun j => { j with phase := .resuming })) ∧
    (∀ q n l, a.kind = .head q n → s.launchAt a.key.1 a.key.2.1 = some l →
      exec (.dispatch d) s = .next (((s.seatNew e c a l.record).headNext d n).wasPlaced a.key.1 a.key.2.1)) ∧
    (∀ f l, a.kind = .fwd f → s.launchAt a.key.1 a.key.2.1 = some l →
      let t := (s.seatNew e c a l.record).updDie d fun x => { x with forwards := x.forwards.erase f }
      exec (.dispatch d) s = .next (if f.again then t else t.wasPlaced a.key.1 a.key.2.1))) ∧
  (∀ d s a rest q n, s.live d = true → (s.die d).noDispatch = false → (s.candidates d).foldr insertCand [] = a :: rest →
    a.kind = .head q n → a.dies ≠ [] → a.kernel.byDie = true → a.dies ≠ [d] →
    exec (.dispatch d) s = .next ((s.headNext d n).updDie (a.dies.headD d) fun x => { x with forwards := x.forwards ++
      [{ owner := d, launch := n, job := a.key.2.2, since := s.time, eff := a.eff }] })) ∧
  (∀ d s, s.candidates d = [] → exec (.dispatch d) s = .next s) ∧
  (∀ d s, (s.die d).noDispatch = true → exec (.dispatch d) s = .next s) ∧
  (∀ d s a rest e r c k j, s.live d = true → (∀ c : CoreId, (s.core d c).quarantined = false) → (s.die d).noDispatch = false →
    (s.candidates d).foldr insertCand [] = a :: rest → placeable s d a → s.placeFor a = none → s.victimFor a = some (e, r, c, k, j) →
    let t := s.updCore e c fun x => { x with reserved := x.reserved.set k (some a.key) }
    j.phase = .running →
    exec (.preempt d) s = .next (if t.mayRetire e r = true then t.retire e r else t.updJob e r fun j => { j with
      trapCause := BitVec.ofBool Cause.preempt.fatal ++ Cause.preempt.code, trapStream := 7, trapPc := 0, trapInfo0 := (t.bare (jobSite e r)).1, trapInfo1 := (t.bare (jobSite e r)).2
      phase := .stopping .preempt (t.grove e (groveOf c)).cyc })) ∧
  (∀ d s a rest e c, s.live d = true → (∀ c : CoreId, (s.core d c).quarantined = false) → (s.candidates d).foldr insertCand [] = a :: rest →
    placeable s d a → s.placeFor a = some (e, c) → exec (.preempt d) s = .next s) ∧
  (∀ d s, (∀ c : CoreId, (s.core d c).quarantined = false) → (s.die d).noDispatch = true → exec (.preempt d) s = .next s)

/-- R28, R29, R36-R45, R201-R209, R214, R350: a dispatched job starts, or is restored and resumes, with its five streams; a stopped one is saved once its
words are at rest, and an event says so; one whose streams have ended retires; one that made no progress stops with JOB_STALL; an aborted or killed one
ends once its stores are acknowledged; a lost die is announced once. Choices of the model in it: the L1 emptied at a start or a restore (log 10), the
info of JOB_STALL and a lost die's cause (log 38), ERRDONE with KILLED behind the KILLED event (log 57), what a failed restore leaves of the trap
registers (log 67), and the remote writes a job acquires as it starts (log 95). -/
def Obligations.JobSteps : Prop :=
  (∀ d (r : RecId) s j c k, s.job? d r.val = some j → j.home = some (c, k) → j.phase = .starting → s.live d = true → s.launchCovered j.owner j.launch = false →
    (s.core d c).quarantined = false →
    exec (.jobStart d r) s = .next ((s.updJob d r.val fun j => ((j.begin (s.grove d (groveOf c)).cyc).acquireAll s.foreign).stopAtStart
      (s.bare (jobSite d r.val)) (s.grove d (groveOf c)).cyc).updCore d c Core.dropL1s)) ∧
  (∀ d (r : RecId) s j c k why done, s.job? d r.val = some j → j.home = some (c, k) → j.phase = .saving why done → s.live d = true →
    done + 1 ≤ (s.grove d (groveOf c)).cyc → s.appendsDue d c r.val = false →
    let u := (s.freeWindows d j Mma.inGrove).vacate d c k
    let t := (u.updJob d r.val fun j => { j with
      phase := .saved, home := none, banks := [], since := u.time, column := if j.readsColumn then some c else none
      tiles := j.tiles.map fun t => { t with win := t.win.map Window.moved } }).touchArea d r.val
    exec (.jobSave d r) s = .next (match why with
      | .trap => t.queueEvent d (eventRecord 1 (j.trapCause.getLsbD 7) (j.trapCause.extractLsb' 0 7) c.val (handleOf j.gen j.idx))
      | .suspend => t.queueEvent d (eventRecord 2 (j.trapCause.getLsbD 7) (j.trapCause.extractLsb' 0 7) c.val (handleOf j.gen j.idx))
      | _ => t)) ∧
  (∀ d (r : RecId) s j c k, s.job? d r.val = some j → j.home = some (c, k) → j.phase = .resuming → s.live d = true → (s.core d c).quarantined = false → j.ctxBad = none →
    exec (.jobRestore d r) s = .next ((s.touchArea d r.val).updJob d r.val fun y =>
      { y with phase := .restoring ((s.grove d (groveOf c)).cyc + j.kernel.saveCycles), edits := [] })) ∧
  (∀ d (r : RecId) s j c k off, s.job? d r.val = some j → j.home = some (c, k) → j.phase = .resuming → s.live d = true → (s.core d c).quarantined = false → j.ctxBad = some off →
    exec (.jobRestore d r) s = .next (s.restoreFails d r.val j c k .ctxBad off)) ∧
  (∀ d (r : RecId) s j c k done, s.job? d r.val = some j → j.home = some (c, k) → j.phase = .restoring done → s.live d = true → done ≤ (s.grove d (groveOf c)).cyc →
    (s.core d c).quarantined = false → s.tagFlies d r.val = false →
    let back (j : Job) : Job := ((j.resume (s.grove d (groveOf c)).cyc s.time).acquireAll s.foreign).stopAtStart (s.bare (jobSite d r.val)) (s.grove d (groveOf c)).cyc
    exec (.jobRestore d r) s = .next (((s.updJob d r.val back).holdArray d c (back j).seedUntil).updCore d c fun x =>
      { x.dropL1s with array := x.array ++ j.arrayWork k, arrayDone := max x.arrayDone (back j).seedUntil })) ∧
  (∀ d (r : RecId) s, s.live d = true → s.mayRetire d r.val = true → exec (.jobRetire d r) s = .next (s.retire d r.val)) ∧
  (∀ d (r : RecId) s j c k, s.job? d r.val = some j → j.home = some (c, k) → s.live d = true → j.phase = .running → (s.die d).wdog ≠ 0 → (s.die d).wdog.toNat < j.stall →
    exec (.jobStall d r) s = .next (s.updJob d r.val fun j => { j with
      undo := j.trapRegs, trapCause := BitVec.ofBool Cause.jobStall.fatal ++ Cause.jobStall.code, trapStream := 7, trapPc := 0, trapInfo0 := (s.bare (jobSite d r.val)).1, trapInfo1 := (s.bare (jobSite d r.val)).2
      phase := .stopping .trap ((s.grove d (groveOf c)).cyc - 1), trapId := 0, stall := 0 })) ∧
  (∀ d (r : RecId) s j t, s.job? d r.val = some j → j.phase = .stopping .abort t → s.live d = true → s.storesDone d j t = true → s.hostAcked d r.val j = true →
    exec (.abortComplete d r) s = .next ((s.endJob d r.val (some (Cause.aborted.code, j.abortCode))).errDone d Cause.aborted.code j.eventCore (handleOf j.gen j.idx))) ∧
  (∀ d (r : RecId) s j t, s.job? d r.val = some j → j.phase = .stopping .kill t → s.live d = true → s.storesDone d j t = true → s.hostAcked d r.val j = true →
    let cause : BitVec 7 := if j.trapCause.getLsbD 7 then j.trapCause.extractLsb' 0 7 else Cause.killed.code
    let t := (s.endJob d r.val (some (cause, 0))).queueEvent d (eventRecord 3 true cause j.eventCore (handleOf j.gen j.idx))
    exec (.killComplete d r) s = .next (if j.trapCause.getLsbD 7 then t else t.errDone d cause j.eventCore (handleOf j.gen j.idx))) ∧
  (∀ d lost s, s.live d = true → s.live lost = false → (s.die d).notices.get? (0x200 + lost.val) = none → d ≠ s.master →
    ∃ cause : BitVec 7, (s.trip.getLsbD lost.val = true → cause = Cause.thermalTrip.code) ∧
      exec (.dieLoss d lost) s = .next ((s.updDie d fun x => { x with notices := x.notices.put (0x200 + lost.val) s.time }).queueEvent d
        (eventRecord 6 (fatalCode cause) cause lost.val 0)))

/-- R210, R211, R213, R238, R315, R359, R364, R367, R399: events pend and are read in order and wake the system core; held tables are written once
their buffer is quiet; a register write takes effect, or is refused with JOBSTAT 2; FENCE and the fabric manager's tables are written. That EVENT_OVER
is not raised again while an event waits at its source is the model's choice (log 36). -/
def Obligations.SystemSteps : Prop :=
  (∀ d s e rest, (s.die d).evq = e :: rest → exec (.evtheadRead d) s =
    .next (s.updDie d fun x => { x with evq := rest, evOver := x.evOver && x.evPend != [] })) ∧
  (∀ d s, (s.die d).evq = [] → exec (.evtheadRead d) s = .next s) ∧
  (∀ d s e rest, (s.die d).evPend = e :: rest → (s.die d).evq.length < 512 → exec (.eventEnter d) s =
    .next (s.updDie d fun x => { x with evq := x.evq ++ [e], evPend := rest, sys := { x.sys with asleep := false } })) ∧
  (∀ d s, (s.die d).evq ≠ [] → exec (.systemCoreWake d) s = .next (s.updSys d fun x => { x with asleep := false })) ∧
  (∀ d s b a v, (s.sysc d).hold = some (.segset b a v) → s.live d = true → (s.sysc d).halted = false → s.bufQuiet a b = true →
    exec (.segsetApply d) s = .next (((if b ≠ 4095 ∧ segFlushes (s.seg d a b) v = true then s.flushBuffer a b (s.seg d a b) else s).putSeg a b v).endHold d a b)) ∧
  (∀ d s b a t, (s.sysc d).hold = some (.migrate b a t) → s.live d = true → (s.sysc d).halted = false → s.bufQuiet a b = true →
    let mine := bufLine a b (s.seg d a b) (s.segLeaves (s.seg d a b))
    let u := s.foldCopies mine
    let v := (u.masters.filter fun x => mine x.1 && x.2.home != t).foldl (fun s x => s.moveLine t x.1 x.2) u
    let w := (List.finRange 4).foldl (fun s x => ((s.die x).copies.filter fun c => mine c.1).foldl (fun s c => s.moveCopy x t c.1 c.2) s) v
    exec (.migrateMove d) s = .next ((w.putSeg a b (setBits (s.seg d a b) 134 2 t.val)).endHold d a b)) ∧
  (∀ d s b a v, (s.sysc d).hold = some (.segset b a v) → s.bufQuiet a b = false → exec (.segsetApply d) s = .next s) ∧
  (∀ d a v s x t, a.toNat < 2 ^ 63 → a.toNat % 8 = 0 → sysActs a.toNat v = false → s.live d = true → s.sysWriteHeld d a.toNat = false → s.sysWrite d a.toNat v = .done x t →
    exec (.registerWrite d a v) s = .next (t.putJobstat d 0)) ∧
  (∀ d a v s, a.toNat < 2 ^ 63 → a.toNat % 8 = 0 → sysActs a.toNat v = false → s.live d = true → s.sysWriteHeld d a.toNat = false → s.sysWrite d a.toNat v = .refused →
    exec (.registerWrite d a v) s = .next (s.putJobstat d 2)) ∧
  (∀ d g q v s, s.live d = true → exec (.tqBindingWrite d g q v) s = .next ((s.updGrove d g fun y => y.bindTq q.val v).putJobstat d 0)) ∧
  (∀ d v s, s.live d = true → exec (.fenceWrite d v) s = .next (s.putFence d v)) ∧
  (∀ i v s key, s.spdm.fabric = some (key, true) → i < 8192 →
    exec (.fabricManagerWrite 0 i v) s = .next (((List.finRange 4).filter s.live).foldl (fun s d => s.putRoute d false i (v &&& 0x80000000000FFFFF)) s)) ∧
  (∀ i v s, (∀ key, s.spdm.fabric ≠ some (key, true)) → ∀ table, exec (.fabricManagerWrite table i v) s = .next s)

/-- R362, R363, R384-R386, R390, R394-R397, R403, R404, R414, R415: samples, alarms, sparing, refresh and power: a monitor takes the samples it wants; a
droop stretches and throttles its grove; a window's average sets DUTY; a sample's temperatures set the regions' bands, at once when they rise and after
1 ms when they fall, throttle the die from 115 degrees until they are below 110, and trip it at TTRIP; a tripped die's bands still follow; spares are
counted down; an audit entry that agrees is dropped; a die that is cut off is fenced. Choices of the model in it: latencies as free values (log 51), the
entry a replay takes and what its arguments are (log 60), the die LANE_REPAIR is queued on (log 61), when DIE_FENCE fences (log 62), a spare that fails
its self-test (log 105), and what is the spare's own (log 107). -/
def Obligations.PhysicalSteps : Prop :=
  (∀ d (n : Fin 16) unit x s, s.live d = false ∨ (s.die d).mons[n].wantsHeld = false ∨ s.time / 17000 ≤ (s.die d).mons[n].last →
    exec (.monitorSample d n unit x) s = .next s) ∧
  (∀ d (n : Fin 16) kind unit x (s : State), ((s.sample d kind unit x).die d).mons[n] =
    if (s.die d).mons[n].wants kind unit then (s.die d).mons[n].take (BitVec.ofNat 64 x) else (s.die d).mons[n]) ∧
  (∀ d c k e key i home swm tb sb (s : State), (s.masters.get? key).isNone → (swm = false ∨ d = home ∨ ((s.die d).copies.get? key).isNone) →
    ∃ ns, s.sampleMiss (.eng d c k e) (.line key i home swm tb sb) = s.sample d 3 c.val ns) ∧
  (∀ d (n : Fin 16) unit x s, s.live d = true → (s.die d).mons[n].en = true → (s.die d).mons[n].kind = (2 : BitVec 4) → (s.die d).mons[n].last < s.time / 17000 →
    let m := (s.die d).mons[n]
    let cs := (List.finRange 64).filter fun c => m.filter == 0xFFF || m.filter.toNat == c.val
    let r : Monitor := { (cs.foldl (fun m c => m.take (BitVec.ofNat 64 (s.heldBytes d c))) m) with last := s.time / 17000 }
    exec (.monitorSample d n unit x) s = .next (s.updDie d fun y => { y with mons := y.mons.set n r })) ∧
  (∀ d n s, exec (.monitorClear d n) s = .next (s.updDie d fun y => { y with mons := y.mons.set n (y.mons[n].clear) })) ∧
  (∀ d g mv s, s.live d = true → (s.die d).drpthr ≠ 0 → (s.die d).drpthr.toNat ≤ mv →
    exec (.droopAlarm d g mv) s = .next ((((s.count d (8 * g.val) 1).sample d 4 g.val mv).noticeMs d (droopKey g) .droop 0xFF).updGrove d g fun y =>
      { y with reload := some ((s.die d).drpstr.toNat, (s.die d).drpthrot.toNat), throttling := true })) ∧
  (∀ d g s, (s.grove d g).throttling = true → (s.grove d g).reload = none → (s.grove d g).stretch = 0 → (s.grove d g).throttle = 0 →
    exec (.throttleEnd d g) s = .next (s.updGrove d g fun y => { y with throttling := false })) ∧
  (∀ d w s, s.live d = true → (s.die d).pwrWindow < s.time / 17000000 → ∃ t, exec (.powerWindow d w) s = .next t ∧ (t.die d).pwravg = w ∧
    (t.die d).duty = BitVec.ofNat 4 (nextDuty (s.die d).hot (s.die d).duty.toNat w.toNat (s.die d).pwrlim.toNat) ∧ (t.die d).pwrWindow = s.time / 17000000) ∧
  (∀ d temps s, s.live d = true → (s.die d).thermAt < s.time / stampUnits →
    let t := (temps.take 256).zipIdx.foldl (fun (t : State) p => t.sampleRegion d p.2 p.1) (s.updDie d fun x => { x with thermAt := s.time / stampUnits })
    let u := if (t.die d).hot then t.updDie d fun x => { x with duty := 4 } else t
    let v : State := { u with msix := if (t.die d).hot && !(s.die d).hot then u.msix ||| 0x20#6 else u.msix }
    ((∀ x ∈ temps.take 256, x < Config.tTrip) → exec (.thermalSample d temps) s = .next v) ∧
    (∀ x ∈ temps.take 256, Config.tTrip ≤ x → d = 0 → exec (.thermalSample d temps) s = .next (v.packageReset true)) ∧
    (∀ x ∈ temps.take 256, Config.tTrip ≤ x → d ≠ 0 →
      exec (.thermalSample d temps) s = .next { v.fence d with trip := (v.fence d).trip ||| (1#4 <<< d.val) })) ∧
  (∀ d temps (s : State), s.tripped d = true → (s.die d).thermAt < s.time / stampUnits → exec (.thermalSample d temps) s = .next (s.updDie d fun x => { x with
    thermAt := s.time / stampUnits
    regions := (temps.take 256).zipIdx.foldl (fun m p => m.put p.2 ((m.getD p.2 {}).sample p.1 s.time)) x.regions })) ∧
  (∀ d i temp (s : State),
    let r := (s.die d).regions.getD i {}
    let n := r.sample temp s.time
    let t := (s.updDie d fun x => { x with regions := x.regions.put i n }).sample d 5 i temp
    s.sampleRegion d i temp = if n.band = 7 ∧ r.band ≠ 7 then t.notice d .refreshHot 0xFF 0 else t) ∧
  (∀ temp, bandOf temp = ([45, 60, 75, 85, 95, 105, 114].filter (· < temp)).length) ∧
  (∀ (r : Region) temp now, (r.sample temp now).temp = temp ∧ ((r.sample temp now).hot = true ↔ 115 ≤ temp ∨ r.hot = true ∧ 110 ≤ temp) ∧
    (r.band ≤ bandOf temp → (r.sample temp now).band = bandOf temp ∧ (r.sample temp now).lower = none) ∧
    (bandOf temp < r.band → (∀ since, r.lower = some (bandOf temp, since) → since + 17000000 ≤ now → (r.sample temp now).band = bandOf temp) ∧
      (∀ since, r.lower = some (bandOf temp, since) → now < since + 17000000 → (r.sample temp now).band = r.band ∧ (r.sample temp now).lower = r.lower) ∧
      ((∀ since, r.lower ≠ some (bandOf temp, since)) → (r.sample temp now).band = r.band ∧ (r.sample temp now).lower = some (bandOf temp, now)))) ∧
  (∀ d (g : Fin 16384) s, s.live d = true ∨ s.tripped d = true → bandWindow ((s.die d).regions.getD (g.val / 64) {}).band * 500 ≤ s.rowAge d g.val * 64 →
    exec (.rowGroupRefresh d g) s = .next (s.updDie d fun x => { x with stamps := x.stamps.put g.val (BitVec.ofNat 16 (s.time / stampUnits)) })) ∧
  (∀ d g s, s.live d = true → (s.die d).spareGroups ≠ 0 → (s.die d).groupDue g.val s.time = true →
    exec (.rowgroupSpare d g) s = .next ((s.updDie d fun x => { x with
      spareGroups := x.spareGroups - 1, groupErrs := x.groupErrs.del g.val, groupBad := x.groupBad.filter (· != g.val) }).notice d .rowgroupSpared 0xFF 0)) ∧
  (∀ b m s, s.retiredModules.contains (80 * b.val + m.val) = false → s.lanes.getD (80 * b.val + m.val) 4 ≠ 0 →
    exec (.laneRepair b m) s = .next ({ s with lanes := s.lanes.put (80 * b.val + m.val) (s.lanes.getD (80 * b.val + m.val) 4 - 1) }.notice
      (if s.live (boundaryDies b).1 then (boundaryDies b).1 else s.master) .laneRepair 0xFF 0)) ∧
  (∀ d first second s e, (s.die d).audit.find? (fun e => !e.kept && !(s.grove d (groveOf (Fin.ofNat 64 e.core))).spareUsed &&
      !(s.grove d (groveOf (Fin.ofNat 64 e.core))).auditOff) = some e → s.live d = true →
    let gone := s.updDie d fun x => { x with audit := x.audit.filter fun y => y != e }
    exec (.auditReplay d (e.replay ^^^ e.sig) second) s = .next gone ∧
    (e.replay ^^^ first ≠ e.sig → second ≠ first → exec (.auditReplay d first second) s = .next ((gone.updGrove d (groveOf (Fin.ofNat 64 e.core)) fun y =>
      { y with auditOff := true }).noticeMs d 0x6E .auditSkip (Fin.ofNat 64 e.core : CoreId).val)) ∧
    (e.replay ^^^ first ≠ e.sig → s.auditJob d e = none → exec (.auditReplay d first first) s = .next (
      ((s.updDie d fun x => { x with audit := x.audit.map fun y => if y = e then { y with kept := true } else y }).queueEvent d
        (eventRecord 5 true 0x62 (Fin.ofNat 64 e.core : CoreId).val e.handle)).quarantine d (Fin.ofNat 64 e.core)))) ∧
  (∀ d g s c, (List.finRange 64).find? (fun c => groveOf c == g && (s.core d c).quarantined) = some c → s.live d = true → (s.grove d g).spareUsed = false →
    (s.core d c).slots.any Option.isSome = false →
    let t := s.updGrove d g fun y => { y with spareUsed := true }
    exec (.coreSpared d g true) s = .next ((t.updCore d c fun x =>
      { x with quarantined := false, badWindows := [], l1 := [], tlb := [], tcache := [], array := [] }).notice d .coreSpared c.val 0) ∧
    exec (.coreSpared d g false) s = .next t) ∧
  (∀ d s, d ≠ 0 → s.live d = true → (s.cutOff d = true ∨ (s.sysc d).halted = true) → exec (.dieFence d) s =
    .next { (s.updDie d fun x => { x with fenced := true }) with msix := s.msix ||| (1#6 <<< d.val) }) ∧
  (∀ s, s.live 0 = true → s.boot ≠ 0 → (s.sysc 0).halted = true → exec (.dieFence 0) s = .next (s.packageReset false))

/-- R239, R240, R363, R365, R383, R406-R408: a link going down is counted and noticed by its die, one coming up carries packets again. A notice, met for
the first time and not about this package, is forwarded on every other port that LFTREE marks and that is up, and its package is gone: the writes still
out to it are dropped, counted and reported, and its TLB entries and the L1 lines read from it go on every die. A packet is counted; it is refused
without a key its port accepts, or when it accesses memory from another load-store domain, and otherwise taken: a load answered, a store written, a
credit request queued. That a DOWN notice is forgotten when a newer incarnation is named, and that a refused packet counts as received, are the model's
choices (log 63). -/
def Obligations.LinkSteps : Prop :=
  let taken (p : Fin 16) (pkg : BitVec 13) (inc : Option (BitVec 16)) (s : State) : State :=
    if s.noticed.contains (pkg, inc) = true ∨ pkg = s.packageId then s
    else
      let lost (o : RemoteOut) : Bool := o.pkg == pkg && !(o.write && o.app.isNone && inc == some o.incarn)
      let t : State := { s with
        noticed := (pkg, inc) :: s.noticed.filter fun (n : BitVec 13 × Option (BitVec 16)) => !(n.1 == pkg && n.2.isNone)
        outbox := s.outbox ++ ((List.finRange 16).filter fun (o : Fin 16) => o != p && !s.linkDown.getLsbD o.val && s.live (Fin.ofNat 4 (o.val / 4)) &&
          (s.die (Fin.ofNat 4 (o.val / 4))).lftree.getLsbD o.val).map fun (o : Fin 16) => Out.notice o pkg inc
        remoteOut := s.remoteOut.filter fun (o : RemoteOut) => !lost o
        deadPkgs := (pkg, inc) :: s.deadPkgs.filter fun (q : BitVec 13 × Option (BitVec 16)) => q.1 != pkg
        dies := s.dies.map fun (x : Die) => { x with cores := x.cores.map fun (c : Core) => { c with
          tlb := c.tlb.filter fun (e : TlbEntry) => !(segKind (x.segs.getD (4096 * e.asn.toNat + e.buf.toNat) 0) == 2 &&
            segTarget (x.segs.getD (4096 * e.asn.toNat + e.buf.toNat) 0) == pkg)
          l1 := c.l1.filter fun (l : L1Line) => !(l.key % 4 == 1 && l.key / 4 / 2 ^ 56 == pkg.toNat) } } }
      ((s.remoteOut.filter lost).filter (·.write)).foldl (fun (t : State) o => t.goneOf o.die (if o.wid.1 = 5 then none else some o.jrec) pkg o.incarn true) t
  (∀ d r pkg inc (s : State) (j : Job), s.job? d r = some j → j.gone.contains (pkg, inc, true) = false → s.goneOf d (some r) pkg inc true =
    ((s.count d 0x040 1).updJob d r fun j => { j with gone := (pkg, inc, true) :: j.gone }).notice d .remoteDrop
      ((j.home.map (·.1.val)).getD 0xFF) (handleOf j.gen j.idx)) ∧
  (∀ (p : Fin 16) far s, s.linkDown.getLsbD p.val = false → s.live (Fin.ofNat 4 (p.val / 4)) = true →
    exec (.linkDown p far) s = .next (taken p far none ({ s with linkDown := s.linkDown ||| (1#16 <<< p.val) }.count (Fin.ofNat 4 (p.val / 4))
      (0x120 + 0x40 * (p.val % 4)) 1))) ∧
  (∀ (p : Fin 16) far s, s.linkDown.getLsbD p.val = true → exec (.linkDown p far) s = .next s) ∧
  (∀ (p : Fin 16) s, exec (.linkUp p) s = .next { s with linkDown := s.linkDown &&& ~~~(1#16 <<< p.val) }) ∧
  (∀ (p : Fin 16) pkg inc s, s.live (Fin.ofNat 4 (p.val / 4)) = true → s.linkDown.getLsbD p.val = false →
    exec (.linkFailureNotice p pkg inc) s = .next (taken p pkg inc s)) ∧
  (∀ (p : Fin 16) pkg inc s, s.live (Fin.ofNat 4 (p.val / 4)) = false ∨ s.linkDown.getLsbD p.val = true →
    exec (.linkFailureNotice p pkg inc) s = .next s) ∧
  (∀ (p : Fin 16) (k : Packet) (s : State), s.live (Fin.ofNat 4 (p.val / 4)) = true → s.linkDown.getLsbD p.val = false → (match k.body with
      | .load a n => s.frameWaits a n
      | .store a l _ => s.frameWaits a l.length
      | .atomic _ a size .. => s.frameWaits a (2 ^ size.toNat)
      | _ => false) = false →
    let d : DieId := Fin.ofNat 4 (p.val / 4)
    let t := s.count d (0x108 + 0x40 * (p.val % 4)) 1
    let far : Prop := (match k.body with
      | .load .. | .store .. | .atomic .. => True
      | _ => False) ∧ k.src.extractLsb' 10 3 ≠ s.packageId.extractLsb' 10 3
    (far ∨ (t.die d).keyAccepts p.val k.key = false → exec (.packetIngress p k) s = .next (t.count d (0x110 + 0x40 * (p.val % 4)) 1)) ∧
    (¬far → (t.die d).keyAccepts p.val k.key = true → exec (.packetIngress p k) s = .next (t.accept k) ∧
      (∀ (a n : Nat), k.body = .load a n → k.incarn = t.incarnation → t.physOk a n = true → exec (.packetIngress p k) s =
        .next ({ t with outbox := t.outbox ++ [Out.reply k.src ((t.physBytes a n).map Prod.fst) ((t.physBytes a n).any Prod.snd)] }.touchFrame a n)) ∧
      (∀ a l bad, k.body = .store a l bad → k.incarn = t.incarnation → t.physOk a l.length = true →
        exec (.packetIngress p k) s = .next ((t.physWrite a l bad).touchFrame a l.length)) ∧
      (∀ (a n : Nat), k.body = .load a n → k.incarn ≠ t.incarnation → exec (.packetIngress p k) s = .next t) ∧
      (∀ a l bad, k.body = .store a l bad → k.incarn ≠ t.incarnation → exec (.packetIngress p k) s = .next t) ∧
      (∀ o c n slot, k.body = .credit o c n slot → t.live o = true → exec (.packetIngress p k) s = .next (t.updMq o c n fun m => { m with reqs := m.reqs ++
        [{ pkg := k.src, die := Fin.ofNat 4 (slot / 128), core := Fin.ofNat 64 (slot / 2), slot := slot % 2 }] }))))

/-- R400-R402: the host's reads and writes of memory: served ones read and write the line of the frame's die, refused ones read ones with poison, write
nothing and are counted. A snoop of a line held by die 0 receives the line's bytes, wherever they stand, and leaves it clean, its changed bytes in the
host's memory; a host write takes die 0's copy away and its bytes stand in the host's memory. HSDATA answers with its status: 3 locked, 1 for an address
out of reach, 0 done. That the port may be down, and what HSDATA gives for an address out of reach, are the model's choices (logs 16, 38). -/
def Obligations.HostSteps : Prop :=
  (∀ a n (s : State), s.cxlDown = false → s.hostServes a n = true → s.frameWaits a n = false →
    exec (.hostMemAccess a n none) s = .next ({ s with hostRead := s.physBytes a n }.touchFrame a n)) ∧
  (∀ a n l (s : State), s.cxlDown = false → s.hostServes a l.length = true → s.frameWaits a l.length = false →
    exec (.hostMemAccess a n (some l)) s = .next ((s.physWrite a l).touchFrame a l.length)) ∧
  (∀ a n (s : State), s.cxlDown = false → s.hostServes a n = false → exec (.hostMemAccess a n none) s =
    .next (if s.physOk a n then { s with hostRead := List.replicate n (0xFF, true) }.count (Fin.ofNat 4 (a / 2 ^ 37)) 0x040 1
      else { s with hostRead := List.replicate n (0xFF, true) })) ∧
  (∀ a n l (s : State), s.cxlDown = false → s.hostServes a l.length = false → exec (.hostMemAccess a n (some l)) s =
    .next (if s.physOk a l.length then s.count (Fin.ofNat 4 (a / 2 ^ 37)) 0x040 1 else s)) ∧
  (∀ a (s : State), a < 2 ^ 64 → s.cxlDown = false → (s.masters.get? (hostKey a) = none ∨ s.rowWaits 0 (hostKey a) = false) →
    let line := s.homeLine (hostKey a)
    let u : State := match s.masters.get? (hostKey a) with
      | none => s
      | some l => { (s.restamp 0 (hostKey a)).toBacking (hostKey a) l with masters := s.masters.put (hostKey a) { l with dirty := 0 } }
    exec (.hostSnoop a none) s = .next { u with hostRead := (bytesOf line.1 (a % 128) (128 - a % 128)).map fun b => (b, line.2) }) ∧
  (∀ a (l : Line) (s : State), l.dirty ≠ 0 → (s.toBacking (hostKey a) l).hostMem = s.hostMem.writes (a / 128 * 128) (bytesOf l.data 0 128)) ∧
  (∀ a l (s : State), s.cxlDown = false → (∀ p ∈ pieces a l.length, s.masters.get? (hostKey p.1) = none ∨ s.rowWaits 0 (hostKey p.1) = false) →
    ∃ t, exec (.hostSnoop a (some l)) s = .next t ∧ (∀ p ∈ pieces a l.length, (t.masters.get? (hostKey p.1)).isNone) ∧
      (s.memoryWf → ∀ i (h : i < l.length), t.hostMem.read (a + i) = l[i])) ∧
  (∀ (s : State), s.hostOpen = true → s.sysWaits s.hsDie s.hsPlace = false → (s.die s.hsDie).lockstat.getLsbD 2 = true →
    exec .hsdataRead s = .next { s with hsdata := BitVec.allOnes 64, hsstat := 3 } ∧ ∀ v, exec (.hsdataWrite v) s = .next { s with hsstat := 3 }) ∧
  (∀ (s : State), s.hostOpen = true → s.sysWaits s.hsDie s.hsPlace = false → (s.die s.hsDie).lockstat.getLsbD 2 = false → s.hsOut = true →
    (∃ v, exec .hsdataRead s = .next { s with hsdata := v, hsstat := 1 }) ∧ ∀ v, exec (.hsdataWrite v) s = .next { s with hsstat := 1 }) ∧
  (∀ (s : State) v t, s.hostOpen = true → s.sysWaits s.hsDie s.hsPlace = false → (s.die s.hsDie).lockstat.getLsbD 2 = false → s.hsOut = false →
    s.sysRead s.hsDie s.hsPlace = .done v t → exec .hsdataRead s = .next { t with hsdata := v, hsstat := 0 }) ∧
  (∀ (s : State) v x t, s.hostOpen = true → s.sysWaits s.hsDie s.hsPlace = false → (s.die s.hsDie).lockstat.getLsbD 2 = false → s.hsOut = false →
    s.sysWriteHeld s.hsDie s.hsPlace = false → s.sysWrite s.hsDie s.hsPlace v = .done x t → exec (.hsdataWrite v) s = .next { t with hsstat := 0 })

/-- R409-R412: the requests of a session in their order, what each answers, measurement, reset, and what firmware must pass to start. The payloads of
the messages, a reply to a request out of order and the first byte of GET_MEASUREMENTS are the model's (log 14), as are what an image holds, the port
that may not train and the choice of a start's two steps (log 16), and what a loss of power leaves (logs 44, 120). -/
def Obligations.AttestationAndBootSteps : Prop :=
  (∀ req s, ∃ t, exec (.getVersion req) s = .next t ∧ t.spdm.version = some 0x13 ∧ t.spdm.algorithms = false) ∧
  (∀ req s, exec (.getCapabilities req) s = .next (if s.spdm.version.isSome then s.answer req [] else s.unexpected)) ∧
  (∀ req s, s.spdm.version.isSome = true → ∃ t, exec (.negotiateAlgorithms req) s = .next t ∧ t.spdm.algorithms = true) ∧
  (∀ req s, s.spdm.algorithms = true → exec (.getDigests req) s = .next (s.answer req (shake256 Config.certificate 64)) ∧
    exec (.getCertificate req) s = .next (s.answer req Config.certificate) ∧
    exec (.challenge req) s = .next (s.answer req (Config.slhSign (s.spdm.transcript ++ req)))) ∧
  (∀ req s, s.spdm.algorithms = true → req.head? = some 0 →
    exec (.getMeasurements req) s = .next (s.answer req (s.measureBytes ++ Config.slhSign (s.spdm.transcript ++ req ++ s.measureBytes)))) ∧
  (∀ fabric req chain s, s.spdm.algorithms = true →
    let u := s.answer req (Config.slhSign (s.spdm.transcript ++ req))
    ∃ t, exec (.keyExchange fabric req chain) s = .next t ∧
      if (fabric = true ∧ digest (Config.rootCertificate chain) ≠ Config.fmRoot) ∨ (fabric = false ∧ s.cxlDown = true) then t = s.unexpected
      else t.spdm.sessions = s.spdm.sessions + 1 ∧ t.spdm.transcript = u.spdm.transcript ∧
        (if fabric then t.spdm.fabric else t.spdm.mailbox) = some (Config.sessionKey u.spdm.sessions u.spdm.transcript, false) ∧
        (if fabric then t.spdm.mailbox else t.spdm.fabric) = (if fabric then s.spdm.mailbox else s.spdm.fabric)) ∧
  (∀ fabric req s key b, (if fabric then s.spdm.fabric else s.spdm.mailbox) = some (key, b) →
    ∃ t, exec (.finish fabric req) s = .next t ∧
      (if fabric then t.spdm.fabric else t.spdm.mailbox) = some (key, b || Config.finishProves key s.spdm.transcript req)) ∧
  (∀ d (i : Fin 16) data s, s.live d = true → (s.sysc d).started = true → (s.die d).lockstat.getLsbD 4 = false → exec (.measurementExtend d i data) s =
    .next { s with measures := s.measures.put (16 + i.val) (digest (leBytes 64 (s.measures.getD (16 + i.val) 0).toNat ++ data)) }) ∧
  (∀ trip s, exec (.packageReset trip) s = .next (s.packageReset trip)) ∧
  (∀ s, ∃ t, exec .powerLoss s = .next t ∧ t = { s.packageReset false with lpddr := [], lpPoison := [], dies := t.dies } ∧
    ∀ d, t.die d = (s.packageReset false).die d ∨ t.die d = { (s.packageReset false).die d with dcs := (s.die d).dcs }) ∧
  (∀ image sig version s, s.boot = 0 → ∃ down, exec (.firmwareVerify image sig version) s = .next (
    if image.length ≤ 2 ^ 26 then { s with cxlDown := down, boot := 1, firmware := some image } else { s with cxlDown := down, boot := 7, firmware := none })) ∧
  (∀ other sig version s, s.boot = 1 →
    let image := s.firmware.getD other
    exec (.firmwareVerify other sig version) s = .next (
      if Config.slhVerify Config.firmwareKey image sig = true ∧ Config.minVersion ≤ version then
        ({ s with firmware := some image }.readAreas.zeroStores.measureAll image).startFirmware image
      else { s with boot := 7, firmware := none })) ∧
  (∀ image s, s.boot = 7 → s.cxlDown = false → image.length ≤ 2 ^ 26 → exec (.recoveryImage image) s = .next { s with boot := 1, firmware := some image })

/-! ## The machine as a whole -/

/-- R198, R210, R281, R300, R337, R340, R358, R369, R380, R382, R384, R386, R401, R414 and R105-R107: the values the specification gives for reset,
on every die. -/
def Obligations.ResetValues : Prop :=
  State.reset.boot = 0 ∧ State.reset.trip = 0 ∧ ∀ d : DieId,
    let x := State.reset.die d
    x.fenced = false ∧ x.segs = [] ∧ x.routes = [] ∧ x.keys = [] ∧
    x.dispthr = 2 ∧ x.preemptd = 2 ∧ x.wdog = 0x01000000 ∧ x.audfrac = 10 ∧ x.drpthr = 45 ∧ x.drpstr = 6 ∧ x.drpthrot = 64 ∧ x.lockstat = 0 ∧
    x.pwrlim = BitVec.ofNat 12 Config.plFuse ∧ x.pwravg = 0 ∧ x.duty = 8 ∧ x.hmfloor = 1 ∧
    x.evq = [] ∧ x.evPend = [] ∧ x.capen = false ∧ x.caphead = 0 ∧ x.captail = 0 ∧ x.profhead = 0 ∧ x.proftail = 0 ∧
    (∀ q : Fin 16, x.lqs[q].enable = true ∧ x.lqs[q].ceil = 7 ∧ x.lqs[q].recs = [] ∧ x.lqs[q].head = 0 ∧ x.lqs[q].tail = 0) ∧
    (∀ n : Nat, (State.reset.dc d n).value = 0 ∧ (State.reset.dc d n).under = false) ∧
    (∀ n : Fin 16, x.mons[n].en = false ∧ x.mons[n].filter = 0xFFF ∧ x.mons[n].min = BitVec.allOnes 64 ∧ x.mons[n].max = 0) ∧
    (∀ g : GroveId, x.groves[g].wearlim = 100000 ∧ x.groves[g].poollow = 4096 ∧ x.groves[g].govctl = BitVec.ofNat 16 Config.govFuse) ∧
    (∀ r : BitVec 5, x.sys.stream.x[r.toNat]? = some 0) ∧ (∀ r : BitVec 3, x.sys.stream.p[r.toNat]? = some (decide (r = 0))) ∧
    (∀ r : BitVec 2, x.sys.stream.b[r.toNat]? = some 0) ∧ x.sys.stream.fstat = 0 ∧ x.sys.stream.rmode = 0 ∧
    x.sys.trapCause = 0 ∧ x.sys.svec = 0 ∧ x.sys.intrap = false ∧ x.sys.jobstat = 0

/-- R29, R82, R83, R211: a step whose turn is a stream's runs the word at its pc: exec of what decode reads, with the engine's arbitration (R35) and
A's counts (R252, R381) around it, where no stop is delivered to T in its place (R439); a word decode refuses stops the stream with that refusal, a pc beyond the program with BAD_TARGET. -/
def Obligations.StepRunsWord : Prop :=
  (∀ (s : State) (w : Word) i, s.fetch = some w → decode w s.cur.issuer = .ok i → s.attempt = exec i s) ∧
  (∀ (s : State) (w : Word) x, s.fetch = some w → decode w s.cur.issuer = .error x → s.streamOpen = true → s.engineFree = true → s.gatesOpen = true →
    s.str.last + 1 + (bits w 63 54 : Int) ≤ (s.now : Int) → s.attempt = .next (s.stopIssue (decodeStop w x))) ∧
  (∀ s : State, s.fetch = none → s.streamOpen = true → s.engineFree = true → s.gatesOpen = true → s.str.last + 1 ≤ (s.now : Int) →
    s.attempt = .next (s.stopIssue (stopOf .badTarget))) ∧
  (∀ s d rest w i, s.agenda = .sysCore d :: rest → s.live d = true → (s.sysc d).started = true → (s.sysc d).halted = false → (s.sysc d).asleep = false →
    let u : State := { s with agenda := rest, cur := .sys d }
    u.fetch = some w → decode w .sys = .ok i → step s = keepClock s.clock false (exec i u)) ∧
  (∀ s d c e k rest w i x, s.agenda = .engine d c e :: rest → s.live d = true →
    let now := (s.grove d (groveOf c)).cyc
    let u : State := { s with agenda := rest, cur := .eng d c k e }
    let v : State := { s with agenda := rest }
    ((s.core d c).arbs[e.idx]).seen ≠ some now → (u.slotRec? d c k).isSome = true → u.slotRec? d c (1 - k) = none →
    (e = .t → u.deliverNext d c k = none) → u.fetch = some w → decode w (.eng e) = .ok i → exec i u = .next x →
    let over_ (wait : Vector Nat 2) (y : State) : State := y.updCore d c fun z => { z with arbs := updAt z.arbs e.idx.val fun b =>
      { b with seen := some now, wait := wait } }
    (x.free ≠ u.free → step s = keepClock s.clock false (.next (over_ #v[0, 0] (
      if e = .a then ((u.countWait x).slotCounts d c k true).slotCounts d c (1 - k) false else x)))) ∧
    (x.free = u.free → step s = keepClock s.clock false (.next (over_ #v[0, 0] (
      if e = .a then (v.slotCounts d c 0 false).slotCounts d c 1 false else v)))))

/-- R35: of two eligible slots the engine issues the current one's word, but the other's once that has waited 64 cycles; the slot that issues counts no
wait, the other one more; a word with SW hands the engine on; A's counts of waits and of held buffers go with its turn (R252, R381). -/
def Obligations.SlotsShareAnEngine : Prop :=
  ∀ s d c e rest x0 x1 w, s.agenda = .engine d c e :: rest → s.live d = true →
    let now := (s.grove d (groveOf c)).cyc
    let v : State := { s with agenda := rest }
    let a := (s.core d c).arbs[e.idx]
    let k : SlotId := if 64 ≤ a.wait[1 - a.cur] then 1 - a.cur else a.cur
    a.seen ≠ some now → v.slotTry d c e 0 = some (.next x0) → v.slotTry d c e 1 = some (.next x1) →
    State.fetch { v with cur := .eng d c k e } = some w →
    let x := if k = 0 then x0 else x1
    let y := if e = .a then ((State.countWait { v with cur := .eng d c k .a } x).slotCounts d c k true).slotCounts d c (1 - k) true else x
    step s = keepClock s.clock false (.next (y.updCore d c fun z => { z with arbs := updAt z.arbs e.idx.val fun b =>
      { b with
        seen := some now
        wait := if k = 0 then #v[0, a.wait[(1 : SlotId)] + 1] else #v[a.wait[(0 : SlotId)] + 1, 0]
        cur := if w.getLsbD 53 then 1 - k else b.cur } }))

/-- The machine's other turns (logs 4, 5, 23): an event's step runs exec of it; a word is no event; time passes in a tick; an empty agenda takes up a
period's turns; and withFetchWord's step runs the word it was given. -/
def Obligations.StepRunsEvent : Prop :=
  (∀ s i rest, s.agenda = .event i :: rest → encode i = none → step s = keepClock s.clock false (exec i { s with agenda := rest })) ∧
  (∀ s i rest, s.agenda = .event i :: rest → (encode i).isSome = true → step s = .refused .notAnEvent) ∧
  (∀ s rest, s.agenda = .tick :: rest → ∃ t, step s = .next t ∧ t.clock.tick = s.clock.tick + 1 ∧ t.agenda = rest) ∧
  (∀ s, s.agenda = [] → step s = .next { s with agenda := s.round }) ∧
  (∀ (s : State) nbits w,
    let word : Word := BitVec.ofNat 64 (w % 2 ^ min nbits 64)
    let t := s.withFetchWord nbits w
    (∀ e, someIssuer word = .eng e → t.agenda = .engine 0 0 e :: s.agenda ∧ State.fetch { t with cur := .eng 0 0 0 e } = some word) ∧
    (someIssuer word = .sys → t.agenda = .sysCore 0 :: s.agenda ∧ State.fetch { t with cur := .sys 0 } = some word))

/-- R75-R95: no bit of an encoding is dropped: the word of every instruction that is well formed for a stream decodes there to that instruction; and
what decodes is well formed, with that very word as its encoding. -/
def Obligations.DecodeEncode : Prop :=
  (∀ (e : Issuer) (i : Instr) (w : Word), i.wf e = true → encode i = some w → decode w e = .ok i) ∧
  (∀ (e : Issuer) (i : Instr) (w : Word), decode w e = .ok i → i.wf e = true ∧ encode i = some w)

/-- Words written out in the specification decode to the instructions they stand for (R123, R128, R176, R211, R249, R254, R256, R303, R335, R361). -/
def Obligations.DecodeFewWords : Prop :=
  let h : Hdr := { idle := 0, sw := false, tkp := 0, tks := 0 }
  let g : Guard := { p := 0, pn := false }
  decode 0x000003F280010000 (.eng .c) = .ok (.movi h 5 0x10000) ∧
  decode 0x0000006400020002 (.eng .a) = .ok (.loopi h 1 2 2) ∧
  decode 0x00000E0050A55300 (.eng .v) = .ok (.vadd h g 40 41 42 3) ∧
  decode 0x0000070022980100 (.eng .a) = .ok (.ldq h g 2 5 6 0x100) ∧
  decode 0x00000760411D8800 (.eng .a) = .ok (.gather h g 4 1 7 12 1) ∧
  decode 0x000008004153B000 (.eng .a) = .ok (.acas h g 8 5 9 3 3 0) ∧
  decode 0x000000C840000000 (.eng .m) = .ok (.tksend h 4 2) ∧
  decode 0x00000A00010C0000 (.eng .t) = .ok (.xcopy h g 0 1 3 0 0 0) ∧
  decode 0x0000012008042800 .sys = .ok (.csrr h g 1 0x10A) ∧
  decode 0x000014A00D000000 .sys = .ok (.routew h g 1 20)

/-- R378: in every state whose replicas of the global time stand within 1 ns of it, a step leaves them so, and none of them decreases but at a package
reset, which starts the clock afresh. R378 says at most 2 ns apart and never decreasing; the bound of 1 ns about a nominal time is the model's choice
(log 11). -/
def Obligations.StepKeepsReplicasNear : Prop :=
  ∀ s t, s.Inv → step s = .next t → t.Inv ∧ (t.clock = {} ∨ ∀ d : Fin 4, s.clock.rep[d] ≤ t.clock.rep[d])

/-- The invariant of StepKeepsReplicasNear holds right after reset. -/
def Obligations.ResetReplicasNear : Prop := State.reset.Inv

/-- R29, R78: a word whose conditions are not met changes nothing; a word with a false guard pops and sends its tokens, completes the cycle after, and
does nothing else, but for the three words of V that still move their rows. -/
def Obligations.WordsWaitOrMoveTokens : Prop :=
  (∀ i h s, hdr? i = some h → (s.stream? s.cur).isSome = true → s.canIssue i h = false → exec i s = .next s) ∧
  (∀ i h g s, hdr? i = some h → guard? i = some g → movesRows i = false → s.issues i h → (s.opened h).guard g = false →
    exec i s = .next ((s.opened h).sends h 1 []))

/-- R33, R79, R105-R107, R171: x0 reads zero, p0 true, m0 all ones, and writes of them are discarded; popping tokens changes no operand; a read gives
the register, or what a word in flight is still to write to it, and the latest landed write hides what came before. -/
def Obligations.OperandReads : Prop :=
  (∀ (s : State) k, s.readX k 0 = 0 ∧ s.readP k 0 = true ∧ s.mask k 0 = BitVec.allOnes 4096) ∧
  (∀ now st v, Stream.applyEff now st (.x 0 v) = st) ∧ (∀ now st v, Stream.applyEff now st (.p 0 v) = st) ∧ (∀ j v, Job.applyEff j (.mask 0 v) = j) ∧
  (∀ now (st : Stream) (d : BitVec 5) v, d ≠ 0 → Stream.applyEff now st (.x d v) = { st with x := st.x.setIfInBounds d.toNat v }) ∧
  (∀ (s : State) h k r, (s.opened h).readX k r = s.readX k r) ∧ (∀ (s : State) h k r, (s.opened h).readP k r = s.readP k r) ∧
  (∀ (s : State) h r, (s.opened h).readB r = s.readB r) ∧ (∀ (s : State) h g, (s.opened h).guard g = s.guard g) ∧
  (∀ (s : State) h k t, (s.opened h).tensor k t = s.tensor k t) ∧ (∀ (s : State) h, (s.opened h).rmode = s.rmode) ∧
  (∀ (s : State) k (r : BitVec 5), r ≠ 0 → (∀ f ∈ s.str.flights, ∀ v, Eff.x r v ∉ f.effs) → s.readX k r = s.str.x[r.toNat]?.getD 0) ∧
  (∀ (s : State) k (r : BitVec 5), r ≠ 0 → s.readX k r = s.str.x[r.toNat]?.getD 0 ∨ ∃ f ∈ s.str.flights, Eff.x r (s.readX k r) ∈ f.effs) ∧
  (∀ (s : State) k (r : BitVec 5) fs f v, r ≠ 0 → s.str.flights = fs ++ [f] → f.landed s.now = true → f.effs = [.x r v] → s.readX k r = v)

/-- R80, R81, R200, R201, R212: a stop of an engine's stream writes the job's trap registers and stops the job in that cycle, a lower engine's in the same
cycle taking the place of a higher's, and a stop that of a pre-emption; a stop on the system core writes its own and goes on at SVEC with INTRAP set, and with INTRAP set already
halts it: a die other than 0 is fenced, die 0 resets the package. SVEC and INTRAP are those the stop sees: a write of them in flight may have landed
or not (R33, R197). -/
def Obligations.StopsAreTaken : Prop :=
  let holds (j : Job) (e : Engine) (pc : Word) (st : Stop) (now : Nat) : Prop :=
    j.trapCause = BitVec.ofBool st.cause.fatal ++ st.cause.code ∧ j.trapStream = BitVec.ofNat 3 e.idx.val ∧ j.trapPc = pc ∧
      (∀ v, st.info0 = some v → j.trapInfo0 = v ∧ j.trapInfo1 = st.info1.getD 0) ∧ (∀ v, st.info1 = some v → j.trapInfo1 = v) ∧ j.phase = .stopping .trap now
  (∀ (s : State) d c k e (j : Job) st, s.cur = .eng d c k e → s.slotJob? d c k = some j → j.phase = .running →
    ∃ j', (s.takeStop st).slotJob? d c k = some j' ∧ holds j' e s.str.pc st s.now ∧ j'.streams = j.streams ∧ j'.tokens = j.tokens ∧ j'.tiles = j.tiles) ∧
  (∀ (s : State) d c k e (j : Job) st, s.cur = .eng d c k e → s.slotJob? d c k = some j → j.phase = .stopping .trap s.now → e.idx.val < j.trapStream.toNat →
    ∃ j', (s.takeStop st).slotJob? d c k = some j' ∧ holds j' e s.str.pc st s.now) ∧
  (∀ (s : State) d c k e (j : Job) st, s.cur = .eng d c k e → s.slotJob? d c k = some j → j.phase = .stopping .trap s.now →
    (j.trapStream.toNat < e.idx.val ∨ (j.trapStream.toNat = e.idx.val ∧ j.trapId ≤ (j.streams[e.idx]).nextId)) →
    (s.takeStop st).slotJob? d c k = some j) ∧
  (∀ (s : State) d c k e (j : Job) st, s.cur = .eng d c k e → s.slotJob? d c k = some j → j.phase = .stopping .preempt s.now →
    ∃ j', (s.takeStop st).slotJob? d c k = some j' ∧ holds j' e s.str.pc st s.now ∧ ((s.takeStop st).core d c).reserved[k] = none) ∧
  (∀ (s : State) (d : DieId) st, s.cur = .sys d → (s.sysc d).started = true → s.sysInTrap d = false →
    let x := (s.takeStop st).sysc d
    x.trapCause = BitVec.ofBool st.cause.fatal ++ st.cause.code ∧ x.trapStream = 5 ∧ x.trapPc = s.str.pc ∧
      (∀ v, st.info0 = some v → x.trapInfo0 = v ∧ x.trapInfo1 = st.info1.getD 0) ∧ (∀ v, st.info1 = some v → x.trapInfo1 = v) ∧ x.intrap = true ∧ x.stream.pc = s.sysVec d ∧ x.stream.x = (s.sysc d).stream.x ∧ x.stream.p = (s.sysc d).stream.p) ∧
  (∀ (s : State) (d : DieId) st, s.cur = .sys d → d ≠ 0 → s.sysInTrap d = true → (s.die 0).evq.length < 512 →
    let t := s.takeStop st
    (t.sysc d).halted = true ∧ t.live d = false ∧ (t.die d).noDispatch = true) ∧
  (∀ (s : State) st, s.cur = .sys 0 → s.sysInTrap 0 = true →
    let t := s.takeStop st
    t.boot = 0 ∧ t.incarnation = s.incarnation + 1 ∧ t.clock = {} ∧ (t.sysc 0).intrap = false) ∧
  (∀ (s : State) (d : DieId), (∀ f ∈ (s.sysc d).stream.flights, ∀ n v, Eff.csr n v ∈ f.effs → n ≠ 0x108 ∧ n ≠ 0x109) →
    s.sysInTrap d = (s.sysc d).intrap ∧ s.sysVec d = (s.sysc d).svec)

/-- R30-R33, R110, R112: the frame of a result: RESULT_LANDING writes the word's registers in its own stream and sends its tokens, and leaves every other
register, flag, table, tile, queue and byte of memory as it was. -/
def Obligations.LandingWritesItsRegistersOnly : Prop :=
  (∀ w id s f t, s.flight? w id = some f → f.halted = false → f.work = .fixed → f.landed (s.timeOf w) = true → f.effs.all streamEff = true →
    (∀ d c k e j, w = .eng d c k e → s.slotJob? d c k = some j → ∀ p ∈ f.sends e, (j.toks e p.1).length + p.2 ≤ 15) →
    exec (.resultLanding w id) s = .next t →
    t.rest = (s.updStream w fun st => f.effs.foldl (Stream.applyEff (s.timeOf w)) st).rest ∧ ∀ key i, t.lineByte key i = s.lineByte key i) ∧
  (∀ now (st : Stream) d v (r : BitVec 5), r ≠ d → (Stream.applyEff now st (.x d v)).x[r.toNat]? = st.x[r.toNat]?) ∧
  (∀ now (st : Stream) d v, let u := Stream.applyEff now st (.x d v)
    u.p = st.p ∧ u.b = st.b ∧ u.l = st.l ∧ u.pc = st.pc ∧ u.fstat = st.fstat ∧ u.rmode = st.rmode) ∧
  (∀ now (st : Stream) d v, let u := Stream.applyEff now st (.p d v)
    u.x = st.x ∧ u.b = st.b ∧ u.l = st.l ∧ u.pc = st.pc ∧ u.fstat = st.fstat ∧ u.rmode = st.rmode) ∧
  (∀ now (st : Stream) fl, let u := Stream.applyEff now st (.flags fl)
    u.fstat = st.fstat ||| fl ∧ u.x = st.x ∧ u.p = st.p ∧ u.b = st.b ∧ u.l = st.l ∧ u.pc = st.pc ∧ u.rmode = st.rmode)

/-- R33, R79, R110, R247: the frame of an issue: a word whose whole effect is a result leaves, at its issue, every register, flag, table, tile, queue
and byte of memory as it was; the issue of an LDX or STX, or its stop, changes no byte of memory or of a die's copies, no scratchpad, grove SRAM, tile,
mask, table or queue, and no register. -/
def Obligations.IssueLeavesRegistersAndMemory : Prop :=
  (∀ i s t, registerWord i = true → exec i s = .next t → t.rest = s.rest ∧ ∀ key b, t.lineByte key b = s.lineByte key b) ∧
  (∀ h g d base size sx off s t die c k e, s.cur = .eng die c k e → exec (.ldx h g d base size sx off) s = .next t →
    (∀ key b, t.lineByte key b = s.lineByte key b) ∧ (∀ x, (t.die x).copies = (s.die x).copies) ∧ t.stores = s.stores ∧ ∀ w, t.regsOf w = s.regsOf w) ∧
  (∀ h g r base size off s t die c k e, s.cur = .eng die c k e → exec (.stx h g r base size off) s = .next t →
    (∀ key b, t.lineByte key b = s.lineByte key b) ∧ (∀ x, (t.die x).copies = (s.die x).copies) ∧ t.stores = s.stores ∧ ∀ w, t.regsOf w = s.regsOf w)

/-- R228, R245, R249, R261, R269: the frame of a store: where an STX's address translates to a line of this package with frames of its own, its
WRITE_ACKNOWLEDGEMENT writes its bytes there, in the line's home or in the storing die's copy, and leaves every other byte of that line and of every
other, at its home and in each die's copy, every scratchpad, grove SRAM, tile, mask, table and queue, and every register; a DATA_RETURN of an LDX changes
no byte of memory or of a copy, none of those stores, and no register but its destination. (A die cache that is full would first give up another line,
whose written bytes then reach its home, R228, R262.) -/
def Obligations.StoresAndLoadsTouchTheirBytesOnly : Prop :=
  (∀ w id s f va data key off home swm p s1, s.flight? w id = some f → f.halted = false → f.work = .stx va data → f.effs = [] →
    s.ordHeld w (bufOf va.toNat) = false → s.mayAccess w f [(va.toNat, data.length)] false = true →
    (data.length = 1 ∨ data.length = 2 ∨ data.length = 4 ∨ data.length = 8) → va.toNat % data.length = 0 →
    s.translate (whoDie w) (whoCore w) (s.asnOf w) va.toNat data.length true f.page = .ok (.line key off home swm p false, s1) →
    s.cacheFull home = false → s.cacheFull (whoDie w) = false →
    ∃ t, exec (.writeAcknowledgement w id) s = .next t ∧
      (t.readPlace (whoDie w) (.line key off home swm p false) data.length).1 = data ∧
      (∀ key' i, i < 128 → (key' ≠ key ∨ i < off ∨ off + data.length ≤ i ∨ (swm = true ∧ whoDie w ≠ home)) → t.lineByte key' i = s.lineByte key' i) ∧
      (∀ x key', x ≠ whoDie w ∨ key' ≠ key ∨ swm = false ∨ whoDie w = home → (t.die x).copies.get? key' = (s.die x).copies.get? key') ∧
      (∀ i, i < 128 → (i < off ∨ off + data.length ≤ i) →
        (t.readPlace (whoDie w) (.line key i home swm p false) 1).1 = (s.readPlace (whoDie w) (.line key i home swm p false) 1).1) ∧
      t.stores = s.stores ∧ ∀ w', t.regsOf w' = s.regsOf w') ∧
  (∀ d c k e id got s f va size sx r key off home swm p ub s1 t, let w : Who := .eng d c k e
    s.flight? w id = some f → f.work = .ldx va size sx r →
    s.translate d (whoCore w) (s.asnOf w) va.toNat (2 ^ size.toNat) false f.page = .ok (.line key off home swm p ub, s1) → s.cacheFull d = false →
    exec (.dataReturn w id got) s = .next t →
    (∀ key' i, t.lineByte key' i = s.lineByte key' i) ∧
    (∀ x key' v, (s.die x).copies.get? key' = some v → (t.die x).copies.get? key' = some v) ∧ t.stores = s.stores ∧ (∀ w', s.apart w w' → t.regsOf w' = s.regsOf w') ∧
    ∀ st st', s.stream? w = some st → t.stream? w = some st' → st'.p = st.p ∧ st'.b = st.b ∧ st'.fstat = st.fstat ∧ st'.rmode = st.rmode ∧
      ∀ q : BitVec 5, q ≠ r → st'.x[q.toNat]? = st.x[q.toNat]?)
end

