-- ==== Sys2Proof/Laws/State.lean ====
section
/-! SUPPORT. What each update of the state leaves alone: one lemma per field per update. -/

namespace Sys2Proof.Machine
open Sys2Proof

/-! ### A die -/

@[simp] theorem State.updDie_clock (s : State) (d : DieId) (f : Die → Die) : (s.updDie d f).clock = s.clock := rfl
@[simp] theorem State.updDie_lpddr (s : State) (d : DieId) (f : Die → Die) : (s.updDie d f).lpddr = s.lpddr := rfl
@[simp] theorem State.updDie_lpPoison (s : State) (d : DieId) (f : Die → Die) : (s.updDie d f).lpPoison = s.lpPoison := rfl
@[simp] theorem State.updDie_hostMem (s : State) (d : DieId) (f : Die → Die) : (s.updDie d f).hostMem = s.hostMem := rfl
@[simp] theorem State.updDie_hostPoison (s : State) (d : DieId) (f : Die → Die) : (s.updDie d f).hostPoison = s.hostPoison := rfl
@[simp] theorem State.updDie_masters (s : State) (d : DieId) (f : Die → Die) : (s.updDie d f).masters = s.masters := rfl
@[simp] theorem State.updDie_incarnation (s : State) (d : DieId) (f : Die → Die) : (s.updDie d f).incarnation = s.incarnation := rfl
@[simp] theorem State.updDie_packageId (s : State) (d : DieId) (f : Die → Die) : (s.updDie d f).packageId = s.packageId := rfl
@[simp] theorem State.updDie_idOverridden (s : State) (d : DieId) (f : Die → Die) : (s.updDie d f).idOverridden = s.idOverridden := rfl
@[simp] theorem State.updDie_boot (s : State) (d : DieId) (f : Die → Die) : (s.updDie d f).boot = s.boot := rfl
@[simp] theorem State.updDie_trip (s : State) (d : DieId) (f : Die → Die) : (s.updDie d f).trip = s.trip := rfl
@[simp] theorem State.updDie_hsaddr (s : State) (d : DieId) (f : Die → Die) : (s.updDie d f).hsaddr = s.hsaddr := rfl
@[simp] theorem State.updDie_hsdata (s : State) (d : DieId) (f : Die → Die) : (s.updDie d f).hsdata = s.hsdata := rfl
@[simp] theorem State.updDie_hsstat (s : State) (d : DieId) (f : Die → Die) : (s.updDie d f).hsstat = s.hsstat := rfl
@[simp] theorem State.updDie_hostRead (s : State) (d : DieId) (f : Die → Die) : (s.updDie d f).hostRead = s.hostRead := rfl
@[simp] theorem State.updDie_msix (s : State) (d : DieId) (f : Die → Die) : (s.updDie d f).msix = s.msix := rfl
@[simp] theorem State.updDie_measures (s : State) (d : DieId) (f : Die → Die) : (s.updDie d f).measures = s.measures := rfl
@[simp] theorem State.updDie_spdm (s : State) (d : DieId) (f : Die → Die) : (s.updDie d f).spdm = s.spdm := rfl
@[simp] theorem State.updDie_firmware (s : State) (d : DieId) (f : Die → Die) : (s.updDie d f).firmware = s.firmware := rfl
@[simp] theorem State.updDie_lanes (s : State) (d : DieId) (f : Die → Die) : (s.updDie d f).lanes = s.lanes := rfl
@[simp] theorem State.updDie_retiredModules (s : State) (d : DieId) (f : Die → Die) : (s.updDie d f).retiredModules = s.retiredModules := rfl
@[simp] theorem State.updDie_linkDown (s : State) (d : DieId) (f : Die → Die) : (s.updDie d f).linkDown = s.linkDown := rfl
@[simp] theorem State.updDie_noticed (s : State) (d : DieId) (f : Die → Die) : (s.updDie d f).noticed = s.noticed := rfl
@[simp] theorem State.updDie_deadPkgs (s : State) (d : DieId) (f : Die → Die) : (s.updDie d f).deadPkgs = s.deadPkgs := rfl
@[simp] theorem State.updDie_outbox (s : State) (d : DieId) (f : Die → Die) : (s.updDie d f).outbox = s.outbox := rfl
@[simp] theorem State.updDie_departing (s : State) (d : DieId) (f : Die → Die) : (s.updDie d f).departing = s.departing := rfl
@[simp] theorem State.updDie_remoteOut (s : State) (d : DieId) (f : Die → Die) : (s.updDie d f).remoteOut = s.remoteOut := rfl
@[simp] theorem State.updDie_outSeq (s : State) (d : DieId) (f : Die → Die) : (s.updDie d f).outSeq = s.outSeq := rfl
@[simp] theorem State.updDie_cxlDown (s : State) (d : DieId) (f : Die → Die) : (s.updDie d f).cxlDown = s.cxlDown := rfl
@[simp] theorem State.updDie_held (s : State) (d : DieId) (f : Die → Die) : (s.updDie d f).held = s.held := rfl
@[simp] theorem State.updDie_cur (s : State) (d : DieId) (f : Die → Die) : (s.updDie d f).cur = s.cur := rfl
@[simp] theorem State.updDie_agenda (s : State) (d : DieId) (f : Die → Die) : (s.updDie d f).agenda = s.agenda := rfl
@[simp] theorem State.updDie_free (s : State) (d : DieId) (f : Die → Die) : (s.updDie d f).free = s.free := rfl

/-! ### A core -/

@[simp] theorem State.updCore_clock (s : State) (d : DieId) (c : CoreId) (f : Core → Core) : (s.updCore d c f).clock = s.clock := rfl
@[simp] theorem State.updCore_lpddr (s : State) (d : DieId) (c : CoreId) (f : Core → Core) : (s.updCore d c f).lpddr = s.lpddr := rfl
@[simp] theorem State.updCore_lpPoison (s : State) (d : DieId) (c : CoreId) (f : Core → Core) : (s.updCore d c f).lpPoison = s.lpPoison := rfl
@[simp] theorem State.updCore_hostMem (s : State) (d : DieId) (c : CoreId) (f : Core → Core) : (s.updCore d c f).hostMem = s.hostMem := rfl
@[simp] theorem State.updCore_hostPoison (s : State) (d : DieId) (c : CoreId) (f : Core → Core) : (s.updCore d c f).hostPoison = s.hostPoison := rfl
@[simp] theorem State.updCore_masters (s : State) (d : DieId) (c : CoreId) (f : Core → Core) : (s.updCore d c f).masters = s.masters := rfl
@[simp] theorem State.updCore_incarnation (s : State) (d : DieId) (c : CoreId) (f : Core → Core) : (s.updCore d c f).incarnation = s.incarnation := rfl
@[simp] theorem State.updCore_packageId (s : State) (d : DieId) (c : CoreId) (f : Core → Core) : (s.updCore d c f).packageId = s.packageId := rfl
@[simp] theorem State.updCore_idOverridden (s : State) (d : DieId) (c : CoreId) (f : Core → Core) : (s.updCore d c f).idOverridden = s.idOverridden := rfl
@[simp] theorem State.updCore_boot (s : State) (d : DieId) (c : CoreId) (f : Core → Core) : (s.updCore d c f).boot = s.boot := rfl
@[simp] theorem State.updCore_trip (s : State) (d : DieId) (c : CoreId) (f : Core → Core) : (s.updCore d c f).trip = s.trip := rfl
@[simp] theorem State.updCore_hsaddr (s : State) (d : DieId) (c : CoreId) (f : Core → Core) : (s.updCore d c f).hsaddr = s.hsaddr := rfl
@[simp] theorem State.updCore_hsdata (s : State) (d : DieId) (c : CoreId) (f : Core → Core) : (s.updCore d c f).hsdata = s.hsdata := rfl
@[simp] theorem State.updCore_hsstat (s : State) (d : DieId) (c : CoreId) (f : Core → Core) : (s.updCore d c f).hsstat = s.hsstat := rfl
@[simp] theorem State.updCore_hostRead (s : State) (d : DieId) (c : CoreId) (f : Core → Core) : (s.updCore d c f).hostRead = s.hostRead := rfl
@[simp] theorem State.updCore_msix (s : State) (d : DieId) (c : CoreId) (f : Core → Core) : (s.updCore d c f).msix = s.msix := rfl
@[simp] theorem State.updCore_measures (s : State) (d : DieId) (c : CoreId) (f : Core → Core) : (s.updCore d c f).measures = s.measures := rfl
@[simp] theorem State.updCore_spdm (s : State) (d : DieId) (c : CoreId) (f : Core → Core) : (s.updCore d c f).spdm = s.spdm := rfl
@[simp] theorem State.updCore_firmware (s : State) (d : DieId) (c : CoreId) (f : Core → Core) : (s.updCore d c f).firmware = s.firmware := rfl
@[simp] theorem State.updCore_lanes (s : State) (d : DieId) (c : CoreId) (f : Core → Core) : (s.updCore d c f).lanes = s.lanes := rfl
@[simp] theorem State.updCore_retiredModules (s : State) (d : DieId) (c : CoreId) (f : Core → Core) : (s.updCore d c f).retiredModules = s.retiredModules := rfl
@[simp] theorem State.updCore_linkDown (s : State) (d : DieId) (c : CoreId) (f : Core → Core) : (s.updCore d c f).linkDown = s.linkDown := rfl
@[simp] theorem State.updCore_noticed (s : State) (d : DieId) (c : CoreId) (f : Core → Core) : (s.updCore d c f).noticed = s.noticed := rfl
@[simp] theorem State.updCore_deadPkgs (s : State) (d : DieId) (c : CoreId) (f : Core → Core) : (s.updCore d c f).deadPkgs = s.deadPkgs := rfl
@[simp] theorem State.updCore_outbox (s : State) (d : DieId) (c : CoreId) (f : Core → Core) : (s.updCore d c f).outbox = s.outbox := rfl
@[simp] theorem State.updCore_departing (s : State) (d : DieId) (c : CoreId) (f : Core → Core) : (s.updCore d c f).departing = s.departing := rfl
@[simp] theorem State.updCore_remoteOut (s : State) (d : DieId) (c : CoreId) (f : Core → Core) : (s.updCore d c f).remoteOut = s.remoteOut := rfl
@[simp] theorem State.updCore_outSeq (s : State) (d : DieId) (c : CoreId) (f : Core → Core) : (s.updCore d c f).outSeq = s.outSeq := rfl
@[simp] theorem State.updCore_cxlDown (s : State) (d : DieId) (c : CoreId) (f : Core → Core) : (s.updCore d c f).cxlDown = s.cxlDown := rfl
@[simp] theorem State.updCore_held (s : State) (d : DieId) (c : CoreId) (f : Core → Core) : (s.updCore d c f).held = s.held := rfl
@[simp] theorem State.updCore_cur (s : State) (d : DieId) (c : CoreId) (f : Core → Core) : (s.updCore d c f).cur = s.cur := rfl
@[simp] theorem State.updCore_agenda (s : State) (d : DieId) (c : CoreId) (f : Core → Core) : (s.updCore d c f).agenda = s.agenda := rfl
@[simp] theorem State.updCore_free (s : State) (d : DieId) (c : CoreId) (f : Core → Core) : (s.updCore d c f).free = s.free := rfl

/-! ### A grove -/

@[simp] theorem State.updGrove_clock (s : State) (d : DieId) (g : GroveId) (f : Grove → Grove) : (s.updGrove d g f).clock = s.clock := rfl
@[simp] theorem State.updGrove_lpddr (s : State) (d : DieId) (g : GroveId) (f : Grove → Grove) : (s.updGrove d g f).lpddr = s.lpddr := rfl
@[simp] theorem State.updGrove_lpPoison (s : State) (d : DieId) (g : GroveId) (f : Grove → Grove) : (s.updGrove d g f).lpPoison = s.lpPoison := rfl
@[simp] theorem State.updGrove_hostMem (s : State) (d : DieId) (g : GroveId) (f : Grove → Grove) : (s.updGrove d g f).hostMem = s.hostMem := rfl
@[simp] theorem State.updGrove_hostPoison (s : State) (d : DieId) (g : GroveId) (f : Grove → Grove) : (s.updGrove d g f).hostPoison = s.hostPoison := rfl
@[simp] theorem State.updGrove_masters (s : State) (d : DieId) (g : GroveId) (f : Grove → Grove) : (s.updGrove d g f).masters = s.masters := rfl
@[simp] theorem State.updGrove_incarnation (s : State) (d : DieId) (g : GroveId) (f : Grove → Grove) : (s.updGrove d g f).incarnation = s.incarnation := rfl
@[simp] theorem State.updGrove_packageId (s : State) (d : DieId) (g : GroveId) (f : Grove → Grove) : (s.updGrove d g f).packageId = s.packageId := rfl
@[simp] theorem State.updGrove_idOverridden (s : State) (d : DieId) (g : GroveId) (f : Grove → Grove) : (s.updGrove d g f).idOverridden = s.idOverridden := rfl
@[simp] theorem State.updGrove_boot (s : State) (d : DieId) (g : GroveId) (f : Grove → Grove) : (s.updGrove d g f).boot = s.boot := rfl
@[simp] theorem State.updGrove_trip (s : State) (d : DieId) (g : GroveId) (f : Grove → Grove) : (s.updGrove d g f).trip = s.trip := rfl
@[simp] theorem State.updGrove_hsaddr (s : State) (d : DieId) (g : GroveId) (f : Grove → Grove) : (s.updGrove d g f).hsaddr = s.hsaddr := rfl
@[simp] theorem State.updGrove_hsdata (s : State) (d : DieId) (g : GroveId) (f : Grove → Grove) : (s.updGrove d g f).hsdata = s.hsdata := rfl
@[simp] theorem State.updGrove_hsstat (s : State) (d : DieId) (g : GroveId) (f : Grove → Grove) : (s.updGrove d g f).hsstat = s.hsstat := rfl
@[simp] theorem State.updGrove_hostRead (s : State) (d : DieId) (g : GroveId) (f : Grove → Grove) : (s.updGrove d g f).hostRead = s.hostRead := rfl
@[simp] theorem State.updGrove_msix (s : State) (d : DieId) (g : GroveId) (f : Grove → Grove) : (s.updGrove d g f).msix = s.msix := rfl
@[simp] theorem State.updGrove_measures (s : State) (d : DieId) (g : GroveId) (f : Grove → Grove) : (s.updGrove d g f).measures = s.measures := rfl
@[simp] theorem State.updGrove_spdm (s : State) (d : DieId) (g : GroveId) (f : Grove → Grove) : (s.updGrove d g f).spdm = s.spdm := rfl
@[simp] theorem State.updGrove_firmware (s : State) (d : DieId) (g : GroveId) (f : Grove → Grove) : (s.updGrove d g f).firmware = s.firmware := rfl
@[simp] theorem State.updGrove_lanes (s : State) (d : DieId) (g : GroveId) (f : Grove → Grove) : (s.updGrove d g f).lanes = s.lanes := rfl
@[simp] theorem State.updGrove_retiredModules (s : State) (d : DieId) (g : GroveId) (f : Grove → Grove) : (s.updGrove d g f).retiredModules = s.retiredModules := rfl
@[simp] theorem State.updGrove_linkDown (s : State) (d : DieId) (g : GroveId) (f : Grove → Grove) : (s.updGrove d g f).linkDown = s.linkDown := rfl
@[simp] theorem State.updGrove_noticed (s : State) (d : DieId) (g : GroveId) (f : Grove → Grove) : (s.updGrove d g f).noticed = s.noticed := rfl
@[simp] theorem State.updGrove_deadPkgs (s : State) (d : DieId) (g : GroveId) (f : Grove → Grove) : (s.updGrove d g f).deadPkgs = s.deadPkgs := rfl
@[simp] theorem State.updGrove_outbox (s : State) (d : DieId) (g : GroveId) (f : Grove → Grove) : (s.updGrove d g f).outbox = s.outbox := rfl
@[simp] theorem State.updGrove_departing (s : State) (d : DieId) (g : GroveId) (f : Grove → Grove) : (s.updGrove d g f).departing = s.departing := rfl
@[simp] theorem State.updGrove_remoteOut (s : State) (d : DieId) (g : GroveId) (f : Grove → Grove) : (s.updGrove d g f).remoteOut = s.remoteOut := rfl
@[simp] theorem State.updGrove_outSeq (s : State) (d : DieId) (g : GroveId) (f : Grove → Grove) : (s.updGrove d g f).outSeq = s.outSeq := rfl
@[simp] theorem State.updGrove_cxlDown (s : State) (d : DieId) (g : GroveId) (f : Grove → Grove) : (s.updGrove d g f).cxlDown = s.cxlDown := rfl
@[simp] theorem State.updGrove_held (s : State) (d : DieId) (g : GroveId) (f : Grove → Grove) : (s.updGrove d g f).held = s.held := rfl
@[simp] theorem State.updGrove_cur (s : State) (d : DieId) (g : GroveId) (f : Grove → Grove) : (s.updGrove d g f).cur = s.cur := rfl
@[simp] theorem State.updGrove_agenda (s : State) (d : DieId) (g : GroveId) (f : Grove → Grove) : (s.updGrove d g f).agenda = s.agenda := rfl
@[simp] theorem State.updGrove_free (s : State) (d : DieId) (g : GroveId) (f : Grove → Grove) : (s.updGrove d g f).free = s.free := rfl

/-! ### A column -/

@[simp] theorem State.updColumn_clock (s : State) (d : DieId) (c : CoreId) (f : Column → Column) : (s.updColumn d c f).clock = s.clock := rfl
@[simp] theorem State.updColumn_lpddr (s : State) (d : DieId) (c : CoreId) (f : Column → Column) : (s.updColumn d c f).lpddr = s.lpddr := rfl
@[simp] theorem State.updColumn_lpPoison (s : State) (d : DieId) (c : CoreId) (f : Column → Column) : (s.updColumn d c f).lpPoison = s.lpPoison := rfl
@[simp] theorem State.updColumn_hostMem (s : State) (d : DieId) (c : CoreId) (f : Column → Column) : (s.updColumn d c f).hostMem = s.hostMem := rfl
@[simp] theorem State.updColumn_hostPoison (s : State) (d : DieId) (c : CoreId) (f : Column → Column) : (s.updColumn d c f).hostPoison = s.hostPoison := rfl
@[simp] theorem State.updColumn_masters (s : State) (d : DieId) (c : CoreId) (f : Column → Column) : (s.updColumn d c f).masters = s.masters := rfl
@[simp] theorem State.updColumn_incarnation (s : State) (d : DieId) (c : CoreId) (f : Column → Column) : (s.updColumn d c f).incarnation = s.incarnation := rfl
@[simp] theorem State.updColumn_packageId (s : State) (d : DieId) (c : CoreId) (f : Column → Column) : (s.updColumn d c f).packageId = s.packageId := rfl
@[simp] theorem State.updColumn_idOverridden (s : State) (d : DieId) (c : CoreId) (f : Column → Column) : (s.updColumn d c f).idOverridden = s.idOverridden := rfl
@[simp] theorem State.updColumn_boot (s : State) (d : DieId) (c : CoreId) (f : Column → Column) : (s.updColumn d c f).boot = s.boot := rfl
@[simp] theorem State.updColumn_trip (s : State) (d : DieId) (c : CoreId) (f : Column → Column) : (s.updColumn d c f).trip = s.trip := rfl
@[simp] theorem State.updColumn_hsaddr (s : State) (d : DieId) (c : CoreId) (f : Column → Column) : (s.updColumn d c f).hsaddr = s.hsaddr := rfl
@[simp] theorem State.updColumn_hsdata (s : State) (d : DieId) (c : CoreId) (f : Column → Column) : (s.updColumn d c f).hsdata = s.hsdata := rfl
@[simp] theorem State.updColumn_hsstat (s : State) (d : DieId) (c : CoreId) (f : Column → Column) : (s.updColumn d c f).hsstat = s.hsstat := rfl
@[simp] theorem State.updColumn_hostRead (s : State) (d : DieId) (c : CoreId) (f : Column → Column) : (s.updColumn d c f).hostRead = s.hostRead := rfl
@[simp] theorem State.updColumn_msix (s : State) (d : DieId) (c : CoreId) (f : Column → Column) : (s.updColumn d c f).msix = s.msix := rfl
@[simp] theorem State.updColumn_measures (s : State) (d : DieId) (c : CoreId) (f : Column → Column) : (s.updColumn d c f).measures = s.measures := rfl
@[simp] theorem State.updColumn_spdm (s : State) (d : DieId) (c : CoreId) (f : Column → Column) : (s.updColumn d c f).spdm = s.spdm := rfl
@[simp] theorem State.updColumn_firmware (s : State) (d : DieId) (c : CoreId) (f : Column → Column) : (s.updColumn d c f).firmware = s.firmware := rfl
@[simp] theorem State.updColumn_lanes (s : State) (d : DieId) (c : CoreId) (f : Column → Column) : (s.updColumn d c f).lanes = s.lanes := rfl
@[simp] theorem State.updColumn_retiredModules (s : State) (d : DieId) (c : CoreId) (f : Column → Column) : (s.updColumn d c f).retiredModules = s.retiredModules := rfl
@[simp] theorem State.updColumn_linkDown (s : State) (d : DieId) (c : CoreId) (f : Column → Column) : (s.updColumn d c f).linkDown = s.linkDown := rfl
@[simp] theorem State.updColumn_noticed (s : State) (d : DieId) (c : CoreId) (f : Column → Column) : (s.updColumn d c f).noticed = s.noticed := rfl
@[simp] theorem State.updColumn_deadPkgs (s : State) (d : DieId) (c : CoreId) (f : Column → Column) : (s.updColumn d c f).deadPkgs = s.deadPkgs := rfl
@[simp] theorem State.updColumn_outbox (s : State) (d : DieId) (c : CoreId) (f : Column → Column) : (s.updColumn d c f).outbox = s.outbox := rfl
@[simp] theorem State.updColumn_departing (s : State) (d : DieId) (c : CoreId) (f : Column → Column) : (s.updColumn d c f).departing = s.departing := rfl
@[simp] theorem State.updColumn_remoteOut (s : State) (d : DieId) (c : CoreId) (f : Column → Column) : (s.updColumn d c f).remoteOut = s.remoteOut := rfl
@[simp] theorem State.updColumn_outSeq (s : State) (d : DieId) (c : CoreId) (f : Column → Column) : (s.updColumn d c f).outSeq = s.outSeq := rfl
@[simp] theorem State.updColumn_cxlDown (s : State) (d : DieId) (c : CoreId) (f : Column → Column) : (s.updColumn d c f).cxlDown = s.cxlDown := rfl
@[simp] theorem State.updColumn_held (s : State) (d : DieId) (c : CoreId) (f : Column → Column) : (s.updColumn d c f).held = s.held := rfl
@[simp] theorem State.updColumn_cur (s : State) (d : DieId) (c : CoreId) (f : Column → Column) : (s.updColumn d c f).cur = s.cur := rfl
@[simp] theorem State.updColumn_agenda (s : State) (d : DieId) (c : CoreId) (f : Column → Column) : (s.updColumn d c f).agenda = s.agenda := rfl
@[simp] theorem State.updColumn_free (s : State) (d : DieId) (c : CoreId) (f : Column → Column) : (s.updColumn d c f).free = s.free := rfl

/-! ### A system core -/

@[simp] theorem State.updSys_clock (s : State) (d : DieId) (f : SysCore → SysCore) : (s.updSys d f).clock = s.clock := rfl
@[simp] theorem State.updSys_lpddr (s : State) (d : DieId) (f : SysCore → SysCore) : (s.updSys d f).lpddr = s.lpddr := rfl
@[simp] theorem State.updSys_lpPoison (s : State) (d : DieId) (f : SysCore → SysCore) : (s.updSys d f).lpPoison = s.lpPoison := rfl
@[simp] theorem State.updSys_hostMem (s : State) (d : DieId) (f : SysCore → SysCore) : (s.updSys d f).hostMem = s.hostMem := rfl
@[simp] theorem State.updSys_hostPoison (s : State) (d : DieId) (f : SysCore → SysCore) : (s.updSys d f).hostPoison = s.hostPoison := rfl
@[simp] theorem State.updSys_masters (s : State) (d : DieId) (f : SysCore → SysCore) : (s.updSys d f).masters = s.masters := rfl
@[simp] theorem State.updSys_incarnation (s : State) (d : DieId) (f : SysCore → SysCore) : (s.updSys d f).incarnation = s.incarnation := rfl
@[simp] theorem State.updSys_packageId (s : State) (d : DieId) (f : SysCore → SysCore) : (s.updSys d f).packageId = s.packageId := rfl
@[simp] theorem State.updSys_idOverridden (s : State) (d : DieId) (f : SysCore → SysCore) : (s.updSys d f).idOverridden = s.idOverridden := rfl
@[simp] theorem State.updSys_boot (s : State) (d : DieId) (f : SysCore → SysCore) : (s.updSys d f).boot = s.boot := rfl
@[simp] theorem State.updSys_trip (s : State) (d : DieId) (f : SysCore → SysCore) : (s.updSys d f).trip = s.trip := rfl
@[simp] theorem State.updSys_hsaddr (s : State) (d : DieId) (f : SysCore → SysCore) : (s.updSys d f).hsaddr = s.hsaddr := rfl
@[simp] theorem State.updSys_hsdata (s : State) (d : DieId) (f : SysCore → SysCore) : (s.updSys d f).hsdata = s.hsdata := rfl
@[simp] theorem State.updSys_hsstat (s : State) (d : DieId) (f : SysCore → SysCore) : (s.updSys d f).hsstat = s.hsstat := rfl
@[simp] theorem State.updSys_hostRead (s : State) (d : DieId) (f : SysCore → SysCore) : (s.updSys d f).hostRead = s.hostRead := rfl
@[simp] theorem State.updSys_msix (s : State) (d : DieId) (f : SysCore → SysCore) : (s.updSys d f).msix = s.msix := rfl
@[simp] theorem State.updSys_measures (s : State) (d : DieId) (f : SysCore → SysCore) : (s.updSys d f).measures = s.measures := rfl
@[simp] theorem State.updSys_spdm (s : State) (d : DieId) (f : SysCore → SysCore) : (s.updSys d f).spdm = s.spdm := rfl
@[simp] theorem State.updSys_firmware (s : State) (d : DieId) (f : SysCore → SysCore) : (s.updSys d f).firmware = s.firmware := rfl
@[simp] theorem State.updSys_lanes (s : State) (d : DieId) (f : SysCore → SysCore) : (s.updSys d f).lanes = s.lanes := rfl
@[simp] theorem State.updSys_retiredModules (s : State) (d : DieId) (f : SysCore → SysCore) : (s.updSys d f).retiredModules = s.retiredModules := rfl
@[simp] theorem State.updSys_linkDown (s : State) (d : DieId) (f : SysCore → SysCore) : (s.updSys d f).linkDown = s.linkDown := rfl
@[simp] theorem State.updSys_noticed (s : State) (d : DieId) (f : SysCore → SysCore) : (s.updSys d f).noticed = s.noticed := rfl
@[simp] theorem State.updSys_deadPkgs (s : State) (d : DieId) (f : SysCore → SysCore) : (s.updSys d f).deadPkgs = s.deadPkgs := rfl
@[simp] theorem State.updSys_outbox (s : State) (d : DieId) (f : SysCore → SysCore) : (s.updSys d f).outbox = s.outbox := rfl
@[simp] theorem State.updSys_departing (s : State) (d : DieId) (f : SysCore → SysCore) : (s.updSys d f).departing = s.departing := rfl
@[simp] theorem State.updSys_remoteOut (s : State) (d : DieId) (f : SysCore → SysCore) : (s.updSys d f).remoteOut = s.remoteOut := rfl
@[simp] theorem State.updSys_outSeq (s : State) (d : DieId) (f : SysCore → SysCore) : (s.updSys d f).outSeq = s.outSeq := rfl
@[simp] theorem State.updSys_cxlDown (s : State) (d : DieId) (f : SysCore → SysCore) : (s.updSys d f).cxlDown = s.cxlDown := rfl
@[simp] theorem State.updSys_held (s : State) (d : DieId) (f : SysCore → SysCore) : (s.updSys d f).held = s.held := rfl
@[simp] theorem State.updSys_cur (s : State) (d : DieId) (f : SysCore → SysCore) : (s.updSys d f).cur = s.cur := rfl
@[simp] theorem State.updSys_agenda (s : State) (d : DieId) (f : SysCore → SysCore) : (s.updSys d f).agenda = s.agenda := rfl
@[simp] theorem State.updSys_free (s : State) (d : DieId) (f : SysCore → SysCore) : (s.updSys d f).free = s.free := rfl

/-! ### A job -/

@[simp] theorem State.updJob_clock (s : State) (d : DieId) (r : Nat) (f : Job → Job) : (s.updJob d r f).clock = s.clock := rfl
@[simp] theorem State.updJob_lpddr (s : State) (d : DieId) (r : Nat) (f : Job → Job) : (s.updJob d r f).lpddr = s.lpddr := rfl
@[simp] theorem State.updJob_lpPoison (s : State) (d : DieId) (r : Nat) (f : Job → Job) : (s.updJob d r f).lpPoison = s.lpPoison := rfl
@[simp] theorem State.updJob_hostMem (s : State) (d : DieId) (r : Nat) (f : Job → Job) : (s.updJob d r f).hostMem = s.hostMem := rfl
@[simp] theorem State.updJob_hostPoison (s : State) (d : DieId) (r : Nat) (f : Job → Job) : (s.updJob d r f).hostPoison = s.hostPoison := rfl
@[simp] theorem State.updJob_masters (s : State) (d : DieId) (r : Nat) (f : Job → Job) : (s.updJob d r f).masters = s.masters := rfl
@[simp] theorem State.updJob_incarnation (s : State) (d : DieId) (r : Nat) (f : Job → Job) : (s.updJob d r f).incarnation = s.incarnation := rfl
@[simp] theorem State.updJob_packageId (s : State) (d : DieId) (r : Nat) (f : Job → Job) : (s.updJob d r f).packageId = s.packageId := rfl
@[simp] theorem State.updJob_idOverridden (s : State) (d : DieId) (r : Nat) (f : Job → Job) : (s.updJob d r f).idOverridden = s.idOverridden := rfl
@[simp] theorem State.updJob_boot (s : State) (d : DieId) (r : Nat) (f : Job → Job) : (s.updJob d r f).boot = s.boot := rfl
@[simp] theorem State.updJob_trip (s : State) (d : DieId) (r : Nat) (f : Job → Job) : (s.updJob d r f).trip = s.trip := rfl
@[simp] theorem State.updJob_hsaddr (s : State) (d : DieId) (r : Nat) (f : Job → Job) : (s.updJob d r f).hsaddr = s.hsaddr := rfl
@[simp] theorem State.updJob_hsdata (s : State) (d : DieId) (r : Nat) (f : Job → Job) : (s.updJob d r f).hsdata = s.hsdata := rfl
@[simp] theorem State.updJob_hsstat (s : State) (d : DieId) (r : Nat) (f : Job → Job) : (s.updJob d r f).hsstat = s.hsstat := rfl
@[simp] theorem State.updJob_hostRead (s : State) (d : DieId) (r : Nat) (f : Job → Job) : (s.updJob d r f).hostRead = s.hostRead := rfl
@[simp] theorem State.updJob_msix (s : State) (d : DieId) (r : Nat) (f : Job → Job) : (s.updJob d r f).msix = s.msix := rfl
@[simp] theorem State.updJob_measures (s : State) (d : DieId) (r : Nat) (f : Job → Job) : (s.updJob d r f).measures = s.measures := rfl
@[simp] theorem State.updJob_spdm (s : State) (d : DieId) (r : Nat) (f : Job → Job) : (s.updJob d r f).spdm = s.spdm := rfl
@[simp] theorem State.updJob_firmware (s : State) (d : DieId) (r : Nat) (f : Job → Job) : (s.updJob d r f).firmware = s.firmware := rfl
@[simp] theorem State.updJob_lanes (s : State) (d : DieId) (r : Nat) (f : Job → Job) : (s.updJob d r f).lanes = s.lanes := rfl
@[simp] theorem State.updJob_retiredModules (s : State) (d : DieId) (r : Nat) (f : Job → Job) : (s.updJob d r f).retiredModules = s.retiredModules := rfl
@[simp] theorem State.updJob_linkDown (s : State) (d : DieId) (r : Nat) (f : Job → Job) : (s.updJob d r f).linkDown = s.linkDown := rfl
@[simp] theorem State.updJob_noticed (s : State) (d : DieId) (r : Nat) (f : Job → Job) : (s.updJob d r f).noticed = s.noticed := rfl
@[simp] theorem State.updJob_deadPkgs (s : State) (d : DieId) (r : Nat) (f : Job → Job) : (s.updJob d r f).deadPkgs = s.deadPkgs := rfl
@[simp] theorem State.updJob_outbox (s : State) (d : DieId) (r : Nat) (f : Job → Job) : (s.updJob d r f).outbox = s.outbox := rfl
@[simp] theorem State.updJob_departing (s : State) (d : DieId) (r : Nat) (f : Job → Job) : (s.updJob d r f).departing = s.departing := rfl
@[simp] theorem State.updJob_remoteOut (s : State) (d : DieId) (r : Nat) (f : Job → Job) : (s.updJob d r f).remoteOut = s.remoteOut := rfl
@[simp] theorem State.updJob_outSeq (s : State) (d : DieId) (r : Nat) (f : Job → Job) : (s.updJob d r f).outSeq = s.outSeq := rfl
@[simp] theorem State.updJob_cxlDown (s : State) (d : DieId) (r : Nat) (f : Job → Job) : (s.updJob d r f).cxlDown = s.cxlDown := rfl
@[simp] theorem State.updJob_held (s : State) (d : DieId) (r : Nat) (f : Job → Job) : (s.updJob d r f).held = s.held := rfl
@[simp] theorem State.updJob_cur (s : State) (d : DieId) (r : Nat) (f : Job → Job) : (s.updJob d r f).cur = s.cur := rfl
@[simp] theorem State.updJob_agenda (s : State) (d : DieId) (r : Nat) (f : Job → Job) : (s.updJob d r f).agenda = s.agenda := rfl
@[simp] theorem State.updJob_free (s : State) (d : DieId) (r : Nat) (f : Job → Job) : (s.updJob d r f).free = s.free := rfl

/-! ### The job of a stream -/

@[simp] theorem State.updJobOf_clock (s : State) (w : Who) (f : Job → Job) : (s.updJobOf w f).clock = s.clock := by unfold State.updJobOf; split <;> (try split) <;> rfl
@[simp] theorem State.updJobOf_lpddr (s : State) (w : Who) (f : Job → Job) : (s.updJobOf w f).lpddr = s.lpddr := by unfold State.updJobOf; split <;> (try split) <;> rfl
@[simp] theorem State.updJobOf_lpPoison (s : State) (w : Who) (f : Job → Job) : (s.updJobOf w f).lpPoison = s.lpPoison := by unfold State.updJobOf; split <;> (try split) <;> rfl
@[simp] theorem State.updJobOf_hostMem (s : State) (w : Who) (f : Job → Job) : (s.updJobOf w f).hostMem = s.hostMem := by unfold State.updJobOf; split <;> (try split) <;> rfl
@[simp] theorem State.updJobOf_hostPoison (s : State) (w : Who) (f : Job → Job) : (s.updJobOf w f).hostPoison = s.hostPoison := by unfold State.updJobOf; split <;> (try split) <;> rfl
@[simp] theorem State.updJobOf_masters (s : State) (w : Who) (f : Job → Job) : (s.updJobOf w f).masters = s.masters := by unfold State.updJobOf; split <;> (try split) <;> rfl
@[simp] theorem State.updJobOf_incarnation (s : State) (w : Who) (f : Job → Job) : (s.updJobOf w f).incarnation = s.incarnation := by unfold State.updJobOf; split <;> (try split) <;> rfl
@[simp] theorem State.updJobOf_packageId (s : State) (w : Who) (f : Job → Job) : (s.updJobOf w f).packageId = s.packageId := by unfold State.updJobOf; split <;> (try split) <;> rfl
@[simp] theorem State.updJobOf_idOverridden (s : State) (w : Who) (f : Job → Job) : (s.updJobOf w f).idOverridden = s.idOverridden := by unfold State.updJobOf; split <;> (try split) <;> rfl
@[simp] theorem State.updJobOf_boot (s : State) (w : Who) (f : Job → Job) : (s.updJobOf w f).boot = s.boot := by unfold State.updJobOf; split <;> (try split) <;> rfl
@[simp] theorem State.updJobOf_trip (s : State) (w : Who) (f : Job → Job) : (s.updJobOf w f).trip = s.trip := by unfold State.updJobOf; split <;> (try split) <;> rfl
@[simp] theorem State.updJobOf_hsaddr (s : State) (w : Who) (f : Job → Job) : (s.updJobOf w f).hsaddr = s.hsaddr := by unfold State.updJobOf; split <;> (try split) <;> rfl
@[simp] theorem State.updJobOf_hsdata (s : State) (w : Who) (f : Job → Job) : (s.updJobOf w f).hsdata = s.hsdata := by unfold State.updJobOf; split <;> (try split) <;> rfl
@[simp] theorem State.updJobOf_hsstat (s : State) (w : Who) (f : Job → Job) : (s.updJobOf w f).hsstat = s.hsstat := by unfold State.updJobOf; split <;> (try split) <;> rfl
@[simp] theorem State.updJobOf_hostRead (s : State) (w : Who) (f : Job → Job) : (s.updJobOf w f).hostRead = s.hostRead := by unfold State.updJobOf; split <;> (try split) <;> rfl
@[simp] theorem State.updJobOf_msix (s : State) (w : Who) (f : Job → Job) : (s.updJobOf w f).msix = s.msix := by unfold State.updJobOf; split <;> (try split) <;> rfl
@[simp] theorem State.updJobOf_measures (s : State) (w : Who) (f : Job → Job) : (s.updJobOf w f).measures = s.measures := by unfold State.updJobOf; split <;> (try split) <;> rfl
@[simp] theorem State.updJobOf_spdm (s : State) (w : Who) (f : Job → Job) : (s.updJobOf w f).spdm = s.spdm := by unfold State.updJobOf; split <;> (try split) <;> rfl
@[simp] theorem State.updJobOf_firmware (s : State) (w : Who) (f : Job → Job) : (s.updJobOf w f).firmware = s.firmware := by unfold State.updJobOf; split <;> (try split) <;> rfl
@[simp] theorem State.updJobOf_lanes (s : State) (w : Who) (f : Job → Job) : (s.updJobOf w f).lanes = s.lanes := by unfold State.updJobOf; split <;> (try split) <;> rfl
@[simp] theorem State.updJobOf_retiredModules (s : State) (w : Who) (f : Job → Job) : (s.updJobOf w f).retiredModules = s.retiredModules := by unfold State.updJobOf; split <;> (try split) <;> rfl
@[simp] theorem State.updJobOf_linkDown (s : State) (w : Who) (f : Job → Job) : (s.updJobOf w f).linkDown = s.linkDown := by unfold State.updJobOf; split <;> (try split) <;> rfl
@[simp] theorem State.updJobOf_noticed (s : State) (w : Who) (f : Job → Job) : (s.updJobOf w f).noticed = s.noticed := by unfold State.updJobOf; split <;> (try split) <;> rfl
@[simp] theorem State.updJobOf_deadPkgs (s : State) (w : Who) (f : Job → Job) : (s.updJobOf w f).deadPkgs = s.deadPkgs := by unfold State.updJobOf; split <;> (try split) <;> rfl
@[simp] theorem State.updJobOf_outbox (s : State) (w : Who) (f : Job → Job) : (s.updJobOf w f).outbox = s.outbox := by unfold State.updJobOf; split <;> (try split) <;> rfl
@[simp] theorem State.updJobOf_departing (s : State) (w : Who) (f : Job → Job) : (s.updJobOf w f).departing = s.departing := by unfold State.updJobOf; split <;> (try split) <;> rfl
@[simp] theorem State.updJobOf_remoteOut (s : State) (w : Who) (f : Job → Job) : (s.updJobOf w f).remoteOut = s.remoteOut := by unfold State.updJobOf; split <;> (try split) <;> rfl
@[simp] theorem State.updJobOf_outSeq (s : State) (w : Who) (f : Job → Job) : (s.updJobOf w f).outSeq = s.outSeq := by unfold State.updJobOf; split <;> (try split) <;> rfl
@[simp] theorem State.updJobOf_cxlDown (s : State) (w : Who) (f : Job → Job) : (s.updJobOf w f).cxlDown = s.cxlDown := by unfold State.updJobOf; split <;> (try split) <;> rfl
@[simp] theorem State.updJobOf_held (s : State) (w : Who) (f : Job → Job) : (s.updJobOf w f).held = s.held := by unfold State.updJobOf; split <;> (try split) <;> rfl
@[simp] theorem State.updJobOf_cur (s : State) (w : Who) (f : Job → Job) : (s.updJobOf w f).cur = s.cur := by unfold State.updJobOf; split <;> (try split) <;> rfl
@[simp] theorem State.updJobOf_agenda (s : State) (w : Who) (f : Job → Job) : (s.updJobOf w f).agenda = s.agenda := by unfold State.updJobOf; split <;> (try split) <;> rfl
@[simp] theorem State.updJobOf_free (s : State) (w : Who) (f : Job → Job) : (s.updJobOf w f).free = s.free := by unfold State.updJobOf; split <;> (try split) <;> rfl

/-! ### A stream -/

@[simp] theorem State.updStream_clock (s : State) (w : Who) (f : Stream → Stream) : (s.updStream w f).clock = s.clock := by unfold State.updStream; split <;> (try split) <;> simp
@[simp] theorem State.updStream_lpddr (s : State) (w : Who) (f : Stream → Stream) : (s.updStream w f).lpddr = s.lpddr := by unfold State.updStream; split <;> (try split) <;> simp
@[simp] theorem State.updStream_lpPoison (s : State) (w : Who) (f : Stream → Stream) : (s.updStream w f).lpPoison = s.lpPoison := by unfold State.updStream; split <;> (try split) <;> simp
@[simp] theorem State.updStream_hostMem (s : State) (w : Who) (f : Stream → Stream) : (s.updStream w f).hostMem = s.hostMem := by unfold State.updStream; split <;> (try split) <;> simp
@[simp] theorem State.updStream_hostPoison (s : State) (w : Who) (f : Stream → Stream) : (s.updStream w f).hostPoison = s.hostPoison := by unfold State.updStream; split <;> (try split) <;> simp
@[simp] theorem State.updStream_masters (s : State) (w : Who) (f : Stream → Stream) : (s.updStream w f).masters = s.masters := by unfold State.updStream; split <;> (try split) <;> simp
@[simp] theorem State.updStream_incarnation (s : State) (w : Who) (f : Stream → Stream) : (s.updStream w f).incarnation = s.incarnation := by unfold State.updStream; split <;> (try split) <;> simp
@[simp] theorem State.updStream_packageId (s : State) (w : Who) (f : Stream → Stream) : (s.updStream w f).packageId = s.packageId := by unfold State.updStream; split <;> (try split) <;> simp
@[simp] theorem State.updStream_idOverridden (s : State) (w : Who) (f : Stream → Stream) : (s.updStream w f).idOverridden = s.idOverridden := by unfold State.updStream; split <;> (try split) <;> simp
@[simp] theorem State.updStream_boot (s : State) (w : Who) (f : Stream → Stream) : (s.updStream w f).boot = s.boot := by unfold State.updStream; split <;> (try split) <;> simp
@[simp] theorem State.updStream_trip (s : State) (w : Who) (f : Stream → Stream) : (s.updStream w f).trip = s.trip := by unfold State.updStream; split <;> (try split) <;> simp
@[simp] theorem State.updStream_hsaddr (s : State) (w : Who) (f : Stream → Stream) : (s.updStream w f).hsaddr = s.hsaddr := by unfold State.updStream; split <;> (try split) <;> simp
@[simp] theorem State.updStream_hsdata (s : State) (w : Who) (f : Stream → Stream) : (s.updStream w f).hsdata = s.hsdata := by unfold State.updStream; split <;> (try split) <;> simp
@[simp] theorem State.updStream_hsstat (s : State) (w : Who) (f : Stream → Stream) : (s.updStream w f).hsstat = s.hsstat := by unfold State.updStream; split <;> (try split) <;> simp
@[simp] theorem State.updStream_hostRead (s : State) (w : Who) (f : Stream → Stream) : (s.updStream w f).hostRead = s.hostRead := by unfold State.updStream; split <;> (try split) <;> simp
@[simp] theorem State.updStream_msix (s : State) (w : Who) (f : Stream → Stream) : (s.updStream w f).msix = s.msix := by unfold State.updStream; split <;> (try split) <;> simp
@[simp] theorem State.updStream_measures (s : State) (w : Who) (f : Stream → Stream) : (s.updStream w f).measures = s.measures := by unfold State.updStream; split <;> (try split) <;> simp
@[simp] theorem State.updStream_spdm (s : State) (w : Who) (f : Stream → Stream) : (s.updStream w f).spdm = s.spdm := by unfold State.updStream; split <;> (try split) <;> simp
@[simp] theorem State.updStream_firmware (s : State) (w : Who) (f : Stream → Stream) : (s.updStream w f).firmware = s.firmware := by unfold State.updStream; split <;> (try split) <;> simp
@[simp] theorem State.updStream_lanes (s : State) (w : Who) (f : Stream → Stream) : (s.updStream w f).lanes = s.lanes := by unfold State.updStream; split <;> (try split) <;> simp
@[simp] theorem State.updStream_retiredModules (s : State) (w : Who) (f : Stream → Stream) : (s.updStream w f).retiredModules = s.retiredModules := by unfold State.updStream; split <;> (try split) <;> simp
@[simp] theorem State.updStream_linkDown (s : State) (w : Who) (f : Stream → Stream) : (s.updStream w f).linkDown = s.linkDown := by unfold State.updStream; split <;> (try split) <;> simp
@[simp] theorem State.updStream_noticed (s : State) (w : Who) (f : Stream → Stream) : (s.updStream w f).noticed = s.noticed := by unfold State.updStream; split <;> (try split) <;> simp
@[simp] theorem State.updStream_deadPkgs (s : State) (w : Who) (f : Stream → Stream) : (s.updStream w f).deadPkgs = s.deadPkgs := by unfold State.updStream; split <;> (try split) <;> simp
@[simp] theorem State.updStream_outbox (s : State) (w : Who) (f : Stream → Stream) : (s.updStream w f).outbox = s.outbox := by unfold State.updStream; split <;> (try split) <;> simp
@[simp] theorem State.updStream_departing (s : State) (w : Who) (f : Stream → Stream) : (s.updStream w f).departing = s.departing := by unfold State.updStream; split <;> (try split) <;> simp
@[simp] theorem State.updStream_remoteOut (s : State) (w : Who) (f : Stream → Stream) : (s.updStream w f).remoteOut = s.remoteOut := by unfold State.updStream; split <;> (try split) <;> simp
@[simp] theorem State.updStream_outSeq (s : State) (w : Who) (f : Stream → Stream) : (s.updStream w f).outSeq = s.outSeq := by unfold State.updStream; split <;> (try split) <;> simp
@[simp] theorem State.updStream_cxlDown (s : State) (w : Who) (f : Stream → Stream) : (s.updStream w f).cxlDown = s.cxlDown := by unfold State.updStream; split <;> (try split) <;> simp
@[simp] theorem State.updStream_held (s : State) (w : Who) (f : Stream → Stream) : (s.updStream w f).held = s.held := by unfold State.updStream; split <;> (try split) <;> simp
@[simp] theorem State.updStream_cur (s : State) (w : Who) (f : Stream → Stream) : (s.updStream w f).cur = s.cur := by unfold State.updStream; split <;> (try split) <;> simp
@[simp] theorem State.updStream_agenda (s : State) (w : Who) (f : Stream → Stream) : (s.updStream w f).agenda = s.agenda := by unfold State.updStream; split <;> (try split) <;> simp
@[simp] theorem State.updStream_free (s : State) (w : Who) (f : Stream → Stream) : (s.updStream w f).free = s.free := by unfold State.updStream; split <;> (try split) <;> simp

/-! ### The current job -/

@[simp] theorem State.updJb_clock (s : State) (f : Job → Job) : (s.updJb f).clock = s.clock := by simp [State.updJb]
@[simp] theorem State.updJb_lpddr (s : State) (f : Job → Job) : (s.updJb f).lpddr = s.lpddr := by simp [State.updJb]
@[simp] theorem State.updJb_lpPoison (s : State) (f : Job → Job) : (s.updJb f).lpPoison = s.lpPoison := by simp [State.updJb]
@[simp] theorem State.updJb_hostMem (s : State) (f : Job → Job) : (s.updJb f).hostMem = s.hostMem := by simp [State.updJb]
@[simp] theorem State.updJb_hostPoison (s : State) (f : Job → Job) : (s.updJb f).hostPoison = s.hostPoison := by simp [State.updJb]
@[simp] theorem State.updJb_masters (s : State) (f : Job → Job) : (s.updJb f).masters = s.masters := by simp [State.updJb]
@[simp] theorem State.updJb_incarnation (s : State) (f : Job → Job) : (s.updJb f).incarnation = s.incarnation := by simp [State.updJb]
@[simp] theorem State.updJb_packageId (s : State) (f : Job → Job) : (s.updJb f).packageId = s.packageId := by simp [State.updJb]
@[simp] theorem State.updJb_idOverridden (s : State) (f : Job → Job) : (s.updJb f).idOverridden = s.idOverridden := by simp [State.updJb]
@[simp] theorem State.updJb_boot (s : State) (f : Job → Job) : (s.updJb f).boot = s.boot := by simp [State.updJb]
@[simp] theorem State.updJb_trip (s : State) (f : Job → Job) : (s.updJb f).trip = s.trip := by simp [State.updJb]
@[simp] theorem State.updJb_hsaddr (s : State) (f : Job → Job) : (s.updJb f).hsaddr = s.hsaddr := by simp [State.updJb]
@[simp] theorem State.updJb_hsdata (s : State) (f : Job → Job) : (s.updJb f).hsdata = s.hsdata := by simp [State.updJb]
@[simp] theorem State.updJb_hsstat (s : State) (f : Job → Job) : (s.updJb f).hsstat = s.hsstat := by simp [State.updJb]
@[simp] theorem State.updJb_hostRead (s : State) (f : Job → Job) : (s.updJb f).hostRead = s.hostRead := by simp [State.updJb]
@[simp] theorem State.updJb_msix (s : State) (f : Job → Job) : (s.updJb f).msix = s.msix := by simp [State.updJb]
@[simp] theorem State.updJb_measures (s : State) (f : Job → Job) : (s.updJb f).measures = s.measures := by simp [State.updJb]
@[simp] theorem State.updJb_spdm (s : State) (f : Job → Job) : (s.updJb f).spdm = s.spdm := by simp [State.updJb]
@[simp] theorem State.updJb_firmware (s : State) (f : Job → Job) : (s.updJb f).firmware = s.firmware := by simp [State.updJb]
@[simp] theorem State.updJb_lanes (s : State) (f : Job → Job) : (s.updJb f).lanes = s.lanes := by simp [State.updJb]
@[simp] theorem State.updJb_retiredModules (s : State) (f : Job → Job) : (s.updJb f).retiredModules = s.retiredModules := by simp [State.updJb]
@[simp] theorem State.updJb_linkDown (s : State) (f : Job → Job) : (s.updJb f).linkDown = s.linkDown := by simp [State.updJb]
@[simp] theorem State.updJb_noticed (s : State) (f : Job → Job) : (s.updJb f).noticed = s.noticed := by simp [State.updJb]
@[simp] theorem State.updJb_deadPkgs (s : State) (f : Job → Job) : (s.updJb f).deadPkgs = s.deadPkgs := by simp [State.updJb]
@[simp] theorem State.updJb_outbox (s : State) (f : Job → Job) : (s.updJb f).outbox = s.outbox := by simp [State.updJb]
@[simp] theorem State.updJb_departing (s : State) (f : Job → Job) : (s.updJb f).departing = s.departing := by simp [State.updJb]
@[simp] theorem State.updJb_remoteOut (s : State) (f : Job → Job) : (s.updJb f).remoteOut = s.remoteOut := by simp [State.updJb]
@[simp] theorem State.updJb_outSeq (s : State) (f : Job → Job) : (s.updJb f).outSeq = s.outSeq := by simp [State.updJb]
@[simp] theorem State.updJb_cxlDown (s : State) (f : Job → Job) : (s.updJb f).cxlDown = s.cxlDown := by simp [State.updJb]
@[simp] theorem State.updJb_held (s : State) (f : Job → Job) : (s.updJb f).held = s.held := by simp [State.updJb]
@[simp] theorem State.updJb_cur (s : State) (f : Job → Job) : (s.updJb f).cur = s.cur := by simp [State.updJb]
@[simp] theorem State.updJb_agenda (s : State) (f : Job → Job) : (s.updJb f).agenda = s.agenda := by simp [State.updJb]
@[simp] theorem State.updJb_free (s : State) (f : Job → Job) : (s.updJb f).free = s.free := by simp [State.updJb]

/-! ### The current stream -/

@[simp] theorem State.updStr_clock (s : State) (f : Stream → Stream) : (s.updStr f).clock = s.clock := by simp [State.updStr]
@[simp] theorem State.updStr_lpddr (s : State) (f : Stream → Stream) : (s.updStr f).lpddr = s.lpddr := by simp [State.updStr]
@[simp] theorem State.updStr_lpPoison (s : State) (f : Stream → Stream) : (s.updStr f).lpPoison = s.lpPoison := by simp [State.updStr]
@[simp] theorem State.updStr_hostMem (s : State) (f : Stream → Stream) : (s.updStr f).hostMem = s.hostMem := by simp [State.updStr]
@[simp] theorem State.updStr_hostPoison (s : State) (f : Stream → Stream) : (s.updStr f).hostPoison = s.hostPoison := by simp [State.updStr]
@[simp] theorem State.updStr_masters (s : State) (f : Stream → Stream) : (s.updStr f).masters = s.masters := by simp [State.updStr]
@[simp] theorem State.updStr_incarnation (s : State) (f : Stream → Stream) : (s.updStr f).incarnation = s.incarnation := by simp [State.updStr]
@[simp] theorem State.updStr_packageId (s : State) (f : Stream → Stream) : (s.updStr f).packageId = s.packageId := by simp [State.updStr]
@[simp] theorem State.updStr_idOverridden (s : State) (f : Stream → Stream) : (s.updStr f).idOverridden = s.idOverridden := by simp [State.updStr]
@[simp] theorem State.updStr_boot (s : State) (f : Stream → Stream) : (s.updStr f).boot = s.boot := by simp [State.updStr]
@[simp] theorem State.updStr_trip (s : State) (f : Stream → Stream) : (s.updStr f).trip = s.trip := by simp [State.updStr]
@[simp] theorem State.updStr_hsaddr (s : State) (f : Stream → Stream) : (s.updStr f).hsaddr = s.hsaddr := by simp [State.updStr]
@[simp] theorem State.updStr_hsdata (s : State) (f : Stream → Stream) : (s.updStr f).hsdata = s.hsdata := by simp [State.updStr]
@[simp] theorem State.updStr_hsstat (s : State) (f : Stream → Stream) : (s.updStr f).hsstat = s.hsstat := by simp [State.updStr]
@[simp] theorem State.updStr_hostRead (s : State) (f : Stream → Stream) : (s.updStr f).hostRead = s.hostRead := by simp [State.updStr]
@[simp] theorem State.updStr_msix (s : State) (f : Stream → Stream) : (s.updStr f).msix = s.msix := by simp [State.updStr]
@[simp] theorem State.updStr_measures (s : State) (f : Stream → Stream) : (s.updStr f).measures = s.measures := by simp [State.updStr]
@[simp] theorem State.updStr_spdm (s : State) (f : Stream → Stream) : (s.updStr f).spdm = s.spdm := by simp [State.updStr]
@[simp] theorem State.updStr_firmware (s : State) (f : Stream → Stream) : (s.updStr f).firmware = s.firmware := by simp [State.updStr]
@[simp] theorem State.updStr_lanes (s : State) (f : Stream → Stream) : (s.updStr f).lanes = s.lanes := by simp [State.updStr]
@[simp] theorem State.updStr_retiredModules (s : State) (f : Stream → Stream) : (s.updStr f).retiredModules = s.retiredModules := by simp [State.updStr]
@[simp] theorem State.updStr_linkDown (s : State) (f : Stream → Stream) : (s.updStr f).linkDown = s.linkDown := by simp [State.updStr]
@[simp] theorem State.updStr_noticed (s : State) (f : Stream → Stream) : (s.updStr f).noticed = s.noticed := by simp [State.updStr]
@[simp] theorem State.updStr_deadPkgs (s : State) (f : Stream → Stream) : (s.updStr f).deadPkgs = s.deadPkgs := by simp [State.updStr]
@[simp] theorem State.updStr_outbox (s : State) (f : Stream → Stream) : (s.updStr f).outbox = s.outbox := by simp [State.updStr]
@[simp] theorem State.updStr_departing (s : State) (f : Stream → Stream) : (s.updStr f).departing = s.departing := by simp [State.updStr]
@[simp] theorem State.updStr_remoteOut (s : State) (f : Stream → Stream) : (s.updStr f).remoteOut = s.remoteOut := by simp [State.updStr]
@[simp] theorem State.updStr_outSeq (s : State) (f : Stream → Stream) : (s.updStr f).outSeq = s.outSeq := by simp [State.updStr]
@[simp] theorem State.updStr_cxlDown (s : State) (f : Stream → Stream) : (s.updStr f).cxlDown = s.cxlDown := by simp [State.updStr]
@[simp] theorem State.updStr_held (s : State) (f : Stream → Stream) : (s.updStr f).held = s.held := by simp [State.updStr]
@[simp] theorem State.updStr_cur (s : State) (f : Stream → Stream) : (s.updStr f).cur = s.cur := by simp [State.updStr]
@[simp] theorem State.updStr_agenda (s : State) (f : Stream → Stream) : (s.updStr f).agenda = s.agenda := by simp [State.updStr]
@[simp] theorem State.updStr_free (s : State) (f : Stream → Stream) : (s.updStr f).free = s.free := by simp [State.updStr]

/-! ### A die changed in one place -/

@[simp] theorem State.updCore_die_fenced (s : State) (d e : DieId) (c : CoreId) (f : Core → Core) : ((s.updCore d c f).die e).fenced = (s.die e).fenced := by
  simp only [State.updCore, State.die, State.updDie, Fin.getElem_fin, Vector.getElem_set]; split <;> simp_all
@[simp] theorem State.updCore_die_segs (s : State) (d e : DieId) (c : CoreId) (f : Core → Core) : ((s.updCore d c f).die e).segs = (s.die e).segs := by
  simp only [State.updCore, State.die, State.updDie, Fin.getElem_fin, Vector.getElem_set]; split <;> simp_all
@[simp] theorem State.updCore_die_routes (s : State) (d e : DieId) (c : CoreId) (f : Core → Core) : ((s.updCore d c f).die e).routes = (s.die e).routes := by
  simp only [State.updCore, State.die, State.updDie, Fin.getElem_fin, Vector.getElem_set]; split <;> simp_all
@[simp] theorem State.updCore_die_keys (s : State) (d e : DieId) (c : CoreId) (f : Core → Core) : ((s.updCore d c f).die e).keys = (s.die e).keys := by
  simp only [State.updCore, State.die, State.updDie, Fin.getElem_fin, Vector.getElem_set]; split <;> simp_all
@[simp] theorem State.updCore_die_lftree (s : State) (d e : DieId) (c : CoreId) (f : Core → Core) : ((s.updCore d c f).die e).lftree = (s.die e).lftree := by
  simp only [State.updCore, State.die, State.updDie, Fin.getElem_fin, Vector.getElem_set]; split <;> simp_all
@[simp] theorem State.updCore_die_egrate (s : State) (d e : DieId) (c : CoreId) (f : Core → Core) : ((s.updCore d c f).die e).egrate = (s.die e).egrate := by
  simp only [State.updCore, State.die, State.updDie, Fin.getElem_fin, Vector.getElem_set]; split <;> simp_all
@[simp] theorem State.updCore_die_egressBusy (s : State) (d e : DieId) (c : CoreId) (f : Core → Core) : ((s.updCore d c f).die e).egressBusy = (s.die e).egressBusy := by
  simp only [State.updCore, State.die, State.updDie, Fin.getElem_fin, Vector.getElem_set]; split <;> simp_all
@[simp] theorem State.updCore_die_copies (s : State) (d e : DieId) (c : CoreId) (f : Core → Core) : ((s.updCore d c f).die e).copies = (s.die e).copies := by
  simp only [State.updCore, State.die, State.updDie, Fin.getElem_fin, Vector.getElem_set]; split <;> simp_all
@[simp] theorem State.updCore_die_standing (s : State) (d e : DieId) (c : CoreId) (f : Core → Core) : ((s.updCore d c f).die e).standing = (s.die e).standing := by
  simp only [State.updCore, State.die, State.updDie, Fin.getElem_fin, Vector.getElem_set]; split <;> simp_all
@[simp] theorem State.updCore_die_lateNoted (s : State) (d e : DieId) (c : CoreId) (f : Core → Core) : ((s.updCore d c f).die e).lateNoted = (s.die e).lateNoted := by
  simp only [State.updCore, State.die, State.updDie, Fin.getElem_fin, Vector.getElem_set]; split <;> simp_all
@[simp] theorem State.updCore_die_rerouted (s : State) (d e : DieId) (c : CoreId) (f : Core → Core) : ((s.updCore d c f).die e).rerouted = (s.die e).rerouted := by
  simp only [State.updCore, State.die, State.updDie, Fin.getElem_fin, Vector.getElem_set]; split <;> simp_all
@[simp] theorem State.updCore_die_groves (s : State) (d e : DieId) (c : CoreId) (f : Core → Core) : ((s.updCore d c f).die e).groves = (s.die e).groves := by
  simp only [State.updCore, State.die, State.updDie, Fin.getElem_fin, Vector.getElem_set]; split <;> simp_all
@[simp] theorem State.updCore_die_columns (s : State) (d e : DieId) (c : CoreId) (f : Core → Core) : ((s.updCore d c f).die e).columns = (s.die e).columns := by
  simp only [State.updCore, State.die, State.updDie, Fin.getElem_fin, Vector.getElem_set]; split <;> simp_all
@[simp] theorem State.updCore_die_recs (s : State) (d e : DieId) (c : CoreId) (f : Core → Core) : ((s.updCore d c f).die e).recs = (s.die e).recs := by
  simp only [State.updCore, State.die, State.updDie, Fin.getElem_fin, Vector.getElem_set]; split <;> simp_all
@[simp] theorem State.updCore_die_dcs (s : State) (d e : DieId) (c : CoreId) (f : Core → Core) : ((s.updCore d c f).die e).dcs = (s.die e).dcs := by
  simp only [State.updCore, State.die, State.updDie, Fin.getElem_fin, Vector.getElem_set]; split <;> simp_all
@[simp] theorem State.updCore_die_decs (s : State) (d e : DieId) (c : CoreId) (f : Core → Core) : ((s.updCore d c f).die e).decs = (s.die e).decs := by
  simp only [State.updCore, State.die, State.updDie, Fin.getElem_fin, Vector.getElem_set]; split <;> simp_all
@[simp] theorem State.updCore_die_onZero (s : State) (d e : DieId) (c : CoreId) (f : Core → Core) : ((s.updCore d c f).die e).onZero = (s.die e).onZero := by
  simp only [State.updCore, State.die, State.updDie, Fin.getElem_fin, Vector.getElem_set]; split <;> simp_all
@[simp] theorem State.updCore_die_lqs (s : State) (d e : DieId) (c : CoreId) (f : Core → Core) : ((s.updCore d c f).die e).lqs = (s.die e).lqs := by
  simp only [State.updCore, State.die, State.updDie, Fin.getElem_fin, Vector.getElem_set]; split <;> simp_all
@[simp] theorem State.updCore_die_launches (s : State) (d e : DieId) (c : CoreId) (f : Core → Core) : ((s.updCore d c f).die e).launches = (s.die e).launches := by
  simp only [State.updCore, State.die, State.updDie, Fin.getElem_fin, Vector.getElem_set]; split <;> simp_all
@[simp] theorem State.updCore_die_forwards (s : State) (d e : DieId) (c : CoreId) (f : Core → Core) : ((s.updCore d c f).die e).forwards = (s.die e).forwards := by
  simp only [State.updCore, State.die, State.updDie, Fin.getElem_fin, Vector.getElem_set]; split <;> simp_all
@[simp] theorem State.updCore_die_noDispatch (s : State) (d e : DieId) (c : CoreId) (f : Core → Core) : ((s.updCore d c f).die e).noDispatch = (s.die e).noDispatch := by
  simp only [State.updCore, State.die, State.updDie, Fin.getElem_fin, Vector.getElem_set]; split <;> simp_all
@[simp] theorem State.updCore_die_evq (s : State) (d e : DieId) (c : CoreId) (f : Core → Core) : ((s.updCore d c f).die e).evq = (s.die e).evq := by
  simp only [State.updCore, State.die, State.updDie, Fin.getElem_fin, Vector.getElem_set]; split <;> simp_all
@[simp] theorem State.updCore_die_evPend (s : State) (d e : DieId) (c : CoreId) (f : Core → Core) : ((s.updCore d c f).die e).evPend = (s.die e).evPend := by
  simp only [State.updCore, State.die, State.updDie, Fin.getElem_fin, Vector.getElem_set]; split <;> simp_all
@[simp] theorem State.updCore_die_evOver (s : State) (d e : DieId) (c : CoreId) (f : Core → Core) : ((s.updCore d c f).die e).evOver = (s.die e).evOver := by
  simp only [State.updCore, State.die, State.updDie, Fin.getElem_fin, Vector.getElem_set]; split <;> simp_all
@[simp] theorem State.updCore_die_capen (s : State) (d e : DieId) (c : CoreId) (f : Core → Core) : ((s.updCore d c f).die e).capen = (s.die e).capen := by
  simp only [State.updCore, State.die, State.updDie, Fin.getElem_fin, Vector.getElem_set]; split <;> simp_all
@[simp] theorem State.updCore_die_capbase (s : State) (d e : DieId) (c : CoreId) (f : Core → Core) : ((s.updCore d c f).die e).capbase = (s.die e).capbase := by
  simp only [State.updCore, State.die, State.updDie, Fin.getElem_fin, Vector.getElem_set]; split <;> simp_all
@[simp] theorem State.updCore_die_capsize (s : State) (d e : DieId) (c : CoreId) (f : Core → Core) : ((s.updCore d c f).die e).capsize = (s.die e).capsize := by
  simp only [State.updCore, State.die, State.updDie, Fin.getElem_fin, Vector.getElem_set]; split <;> simp_all
@[simp] theorem State.updCore_die_caphead (s : State) (d e : DieId) (c : CoreId) (f : Core → Core) : ((s.updCore d c f).die e).caphead = (s.die e).caphead := by
  simp only [State.updCore, State.die, State.updDie, Fin.getElem_fin, Vector.getElem_set]; split <;> simp_all
@[simp] theorem State.updCore_die_captail (s : State) (d e : DieId) (c : CoreId) (f : Core → Core) : ((s.updCore d c f).die e).captail = (s.die e).captail := by
  simp only [State.updCore, State.die, State.updDie, Fin.getElem_fin, Vector.getElem_set]; split <;> simp_all
@[simp] theorem State.updCore_die_capdrop (s : State) (d e : DieId) (c : CoreId) (f : Core → Core) : ((s.updCore d c f).die e).capdrop = (s.die e).capdrop := by
  simp only [State.updCore, State.die, State.updDie, Fin.getElem_fin, Vector.getElem_set]; split <;> simp_all
@[simp] theorem State.updCore_die_profbase (s : State) (d e : DieId) (c : CoreId) (f : Core → Core) : ((s.updCore d c f).die e).profbase = (s.die e).profbase := by
  simp only [State.updCore, State.die, State.updDie, Fin.getElem_fin, Vector.getElem_set]; split <;> simp_all
@[simp] theorem State.updCore_die_profsize (s : State) (d e : DieId) (c : CoreId) (f : Core → Core) : ((s.updCore d c f).die e).profsize = (s.die e).profsize := by
  simp only [State.updCore, State.die, State.updDie, Fin.getElem_fin, Vector.getElem_set]; split <;> simp_all
@[simp] theorem State.updCore_die_profhead (s : State) (d e : DieId) (c : CoreId) (f : Core → Core) : ((s.updCore d c f).die e).profhead = (s.die e).profhead := by
  simp only [State.updCore, State.die, State.updDie, Fin.getElem_fin, Vector.getElem_set]; split <;> simp_all
@[simp] theorem State.updCore_die_proftail (s : State) (d e : DieId) (c : CoreId) (f : Core → Core) : ((s.updCore d c f).die e).proftail = (s.die e).proftail := by
  simp only [State.updCore, State.die, State.updDie, Fin.getElem_fin, Vector.getElem_set]; split <;> simp_all
@[simp] theorem State.updCore_die_profdrop (s : State) (d e : DieId) (c : CoreId) (f : Core → Core) : ((s.updCore d c f).die e).profdrop = (s.die e).profdrop := by
  simp only [State.updCore, State.die, State.updDie, Fin.getElem_fin, Vector.getElem_set]; split <;> simp_all
@[simp] theorem State.updCore_die_counts (s : State) (d e : DieId) (c : CoreId) (f : Core → Core) : ((s.updCore d c f).die e).counts = (s.die e).counts := by
  simp only [State.updCore, State.die, State.updDie, Fin.getElem_fin, Vector.getElem_set]; split <;> simp_all
@[simp] theorem State.updCore_die_mons (s : State) (d e : DieId) (c : CoreId) (f : Core → Core) : ((s.updCore d c f).die e).mons = (s.die e).mons := by
  simp only [State.updCore, State.die, State.updDie, Fin.getElem_fin, Vector.getElem_set]; split <;> simp_all
@[simp] theorem State.updCore_die_dispthr (s : State) (d e : DieId) (c : CoreId) (f : Core → Core) : ((s.updCore d c f).die e).dispthr = (s.die e).dispthr := by
  simp only [State.updCore, State.die, State.updDie, Fin.getElem_fin, Vector.getElem_set]; split <;> simp_all
@[simp] theorem State.updCore_die_preemptd (s : State) (d e : DieId) (c : CoreId) (f : Core → Core) : ((s.updCore d c f).die e).preemptd = (s.die e).preemptd := by
  simp only [State.updCore, State.die, State.updDie, Fin.getElem_fin, Vector.getElem_set]; split <;> simp_all
@[simp] theorem State.updCore_die_wdog (s : State) (d e : DieId) (c : CoreId) (f : Core → Core) : ((s.updCore d c f).die e).wdog = (s.die e).wdog := by
  simp only [State.updCore, State.die, State.updDie, Fin.getElem_fin, Vector.getElem_set]; split <;> simp_all
@[simp] theorem State.updCore_die_audfrac (s : State) (d e : DieId) (c : CoreId) (f : Core → Core) : ((s.updCore d c f).die e).audfrac = (s.die e).audfrac := by
  simp only [State.updCore, State.die, State.updDie, Fin.getElem_fin, Vector.getElem_set]; split <;> simp_all
@[simp] theorem State.updCore_die_drpthr (s : State) (d e : DieId) (c : CoreId) (f : Core → Core) : ((s.updCore d c f).die e).drpthr = (s.die e).drpthr := by
  simp only [State.updCore, State.die, State.updDie, Fin.getElem_fin, Vector.getElem_set]; split <;> simp_all
@[simp] theorem State.updCore_die_drpstr (s : State) (d e : DieId) (c : CoreId) (f : Core → Core) : ((s.updCore d c f).die e).drpstr = (s.die e).drpstr := by
  simp only [State.updCore, State.die, State.updDie, Fin.getElem_fin, Vector.getElem_set]; split <;> simp_all
@[simp] theorem State.updCore_die_drpthrot (s : State) (d e : DieId) (c : CoreId) (f : Core → Core) : ((s.updCore d c f).die e).drpthrot = (s.die e).drpthrot := by
  simp only [State.updCore, State.die, State.updDie, Fin.getElem_fin, Vector.getElem_set]; split <;> simp_all
@[simp] theorem State.updCore_die_lockstat (s : State) (d e : DieId) (c : CoreId) (f : Core → Core) : ((s.updCore d c f).die e).lockstat = (s.die e).lockstat := by
  simp only [State.updCore, State.die, State.updDie, Fin.getElem_fin, Vector.getElem_set]; split <;> simp_all
@[simp] theorem State.updCore_die_pwrlim (s : State) (d e : DieId) (c : CoreId) (f : Core → Core) : ((s.updCore d c f).die e).pwrlim = (s.die e).pwrlim := by
  simp only [State.updCore, State.die, State.updDie, Fin.getElem_fin, Vector.getElem_set]; split <;> simp_all
@[simp] theorem State.updCore_die_pwravg (s : State) (d e : DieId) (c : CoreId) (f : Core → Core) : ((s.updCore d c f).die e).pwravg = (s.die e).pwravg := by
  simp only [State.updCore, State.die, State.updDie, Fin.getElem_fin, Vector.getElem_set]; split <;> simp_all
@[simp] theorem State.updCore_die_duty (s : State) (d e : DieId) (c : CoreId) (f : Core → Core) : ((s.updCore d c f).die e).duty = (s.die e).duty := by
  simp only [State.updCore, State.die, State.updDie, Fin.getElem_fin, Vector.getElem_set]; split <;> simp_all
@[simp] theorem State.updCore_die_capping (s : State) (d e : DieId) (c : CoreId) (f : Core → Core) : ((s.updCore d c f).die e).capping = (s.die e).capping := by
  simp only [State.updCore, State.die, State.updDie, Fin.getElem_fin, Vector.getElem_set]; split <;> simp_all
@[simp] theorem State.updCore_die_hmfloor (s : State) (d e : DieId) (c : CoreId) (f : Core → Core) : ((s.updCore d c f).die e).hmfloor = (s.die e).hmfloor := by
  simp only [State.updCore, State.die, State.updDie, Fin.getElem_fin, Vector.getElem_set]; split <;> simp_all
@[simp] theorem State.updCore_die_regions (s : State) (d e : DieId) (c : CoreId) (f : Core → Core) : ((s.updCore d c f).die e).regions = (s.die e).regions := by
  simp only [State.updCore, State.die, State.updDie, Fin.getElem_fin, Vector.getElem_set]; split <;> simp_all
@[simp] theorem State.updCore_die_stamps (s : State) (d e : DieId) (c : CoreId) (f : Core → Core) : ((s.updCore d c f).die e).stamps = (s.die e).stamps := by
  simp only [State.updCore, State.die, State.updDie, Fin.getElem_fin, Vector.getElem_set]; split <;> simp_all
@[simp] theorem State.updCore_die_spareGroups (s : State) (d e : DieId) (c : CoreId) (f : Core → Core) : ((s.updCore d c f).die e).spareGroups = (s.die e).spareGroups := by
  simp only [State.updCore, State.die, State.updDie, Fin.getElem_fin, Vector.getElem_set]; split <;> simp_all
@[simp] theorem State.updCore_die_groupErrs (s : State) (d e : DieId) (c : CoreId) (f : Core → Core) : ((s.updCore d c f).die e).groupErrs = (s.die e).groupErrs := by
  simp only [State.updCore, State.die, State.updDie, Fin.getElem_fin, Vector.getElem_set]; split <;> simp_all
@[simp] theorem State.updCore_die_groupBad (s : State) (d e : DieId) (c : CoreId) (f : Core → Core) : ((s.updCore d c f).die e).groupBad = (s.die e).groupBad := by
  simp only [State.updCore, State.die, State.updDie, Fin.getElem_fin, Vector.getElem_set]; split <;> simp_all
@[simp] theorem State.updCore_die_pwrWindow (s : State) (d e : DieId) (c : CoreId) (f : Core → Core) : ((s.updCore d c f).die e).pwrWindow = (s.die e).pwrWindow := by
  simp only [State.updCore, State.die, State.updDie, Fin.getElem_fin, Vector.getElem_set]; split <;> simp_all
@[simp] theorem State.updCore_die_thermAt (s : State) (d e : DieId) (c : CoreId) (f : Core → Core) : ((s.updCore d c f).die e).thermAt = (s.die e).thermAt := by
  simp only [State.updCore, State.die, State.updDie, Fin.getElem_fin, Vector.getElem_set]; split <;> simp_all
@[simp] theorem State.updCore_die_audit (s : State) (d e : DieId) (c : CoreId) (f : Core → Core) : ((s.updCore d c f).die e).audit = (s.die e).audit := by
  simp only [State.updCore, State.die, State.updDie, Fin.getElem_fin, Vector.getElem_set]; split <;> simp_all
@[simp] theorem State.updCore_die_notices (s : State) (d e : DieId) (c : CoreId) (f : Core → Core) : ((s.updCore d c f).die e).notices = (s.die e).notices := by
  simp only [State.updCore, State.die, State.updDie, Fin.getElem_fin, Vector.getElem_set]; split <;> simp_all
@[simp] theorem State.updCore_die_sys (s : State) (d e : DieId) (c : CoreId) (f : Core → Core) : ((s.updCore d c f).die e).sys = (s.die e).sys := by
  simp only [State.updCore, State.die, State.updDie, Fin.getElem_fin, Vector.getElem_set]; split <;> simp_all
@[simp] theorem State.updGrove_die_fenced (s : State) (d e : DieId) (g : GroveId) (f : Grove → Grove) : ((s.updGrove d g f).die e).fenced = (s.die e).fenced := by
  simp only [State.updGrove, State.die, State.updDie, Fin.getElem_fin, Vector.getElem_set]; split <;> simp_all
@[simp] theorem State.updGrove_die_segs (s : State) (d e : DieId) (g : GroveId) (f : Grove → Grove) : ((s.updGrove d g f).die e).segs = (s.die e).segs := by
  simp only [State.updGrove, State.die, State.updDie, Fin.getElem_fin, Vector.getElem_set]; split <;> simp_all
@[simp] theorem State.updGrove_die_routes (s : State) (d e : DieId) (g : GroveId) (f : Grove → Grove) : ((s.updGrove d g f).die e).routes = (s.die e).routes := by
  simp only [State.updGrove, State.die, State.updDie, Fin.getElem_fin, Vector.getElem_set]; split <;> simp_all
@[simp] theorem State.updGrove_die_keys (s : State) (d e : DieId) (g : GroveId) (f : Grove → Grove) : ((s.updGrove d g f).die e).keys = (s.die e).keys := by
  simp only [State.updGrove, State.die, State.updDie, Fin.getElem_fin, Vector.getElem_set]; split <;> simp_all
@[simp] theorem State.updGrove_die_lftree (s : State) (d e : DieId) (g : GroveId) (f : Grove → Grove) : ((s.updGrove d g f).die e).lftree = (s.die e).lftree := by
  simp only [State.updGrove, State.die, State.updDie, Fin.getElem_fin, Vector.getElem_set]; split <;> simp_all
@[simp] theorem State.updGrove_die_egrate (s : State) (d e : DieId) (g : GroveId) (f : Grove → Grove) : ((s.updGrove d g f).die e).egrate = (s.die e).egrate := by
  simp only [State.updGrove, State.die, State.updDie, Fin.getElem_fin, Vector.getElem_set]; split <;> simp_all
@[simp] theorem State.updGrove_die_egressBusy (s : State) (d e : DieId) (g : GroveId) (f : Grove → Grove) : ((s.updGrove d g f).die e).egressBusy = (s.die e).egressBusy := by
  simp only [State.updGrove, State.die, State.updDie, Fin.getElem_fin, Vector.getElem_set]; split <;> simp_all
@[simp] theorem State.updGrove_die_copies (s : State) (d e : DieId) (g : GroveId) (f : Grove → Grove) : ((s.updGrove d g f).die e).copies = (s.die e).copies := by
  simp only [State.updGrove, State.die, State.updDie, Fin.getElem_fin, Vector.getElem_set]; split <;> simp_all
@[simp] theorem State.updGrove_die_standing (s : State) (d e : DieId) (g : GroveId) (f : Grove → Grove) : ((s.updGrove d g f).die e).standing = (s.die e).standing := by
  simp only [State.updGrove, State.die, State.updDie, Fin.getElem_fin, Vector.getElem_set]; split <;> simp_all
@[simp] theorem State.updGrove_die_lateNoted (s : State) (d e : DieId) (g : GroveId) (f : Grove → Grove) : ((s.updGrove d g f).die e).lateNoted = (s.die e).lateNoted := by
  simp only [State.updGrove, State.die, State.updDie, Fin.getElem_fin, Vector.getElem_set]; split <;> simp_all
@[simp] theorem State.updGrove_die_rerouted (s : State) (d e : DieId) (g : GroveId) (f : Grove → Grove) : ((s.updGrove d g f).die e).rerouted = (s.die e).rerouted := by
  simp only [State.updGrove, State.die, State.updDie, Fin.getElem_fin, Vector.getElem_set]; split <;> simp_all
@[simp] theorem State.updGrove_die_cores (s : State) (d e : DieId) (g : GroveId) (f : Grove → Grove) : ((s.updGrove d g f).die e).cores = (s.die e).cores := by
  simp only [State.updGrove, State.die, State.updDie, Fin.getElem_fin, Vector.getElem_set]; split <;> simp_all
@[simp] theorem State.updGrove_die_columns (s : State) (d e : DieId) (g : GroveId) (f : Grove → Grove) : ((s.updGrove d g f).die e).columns = (s.die e).columns := by
  simp only [State.updGrove, State.die, State.updDie, Fin.getElem_fin, Vector.getElem_set]; split <;> simp_all
@[simp] theorem State.updGrove_die_recs (s : State) (d e : DieId) (g : GroveId) (f : Grove → Grove) : ((s.updGrove d g f).die e).recs = (s.die e).recs := by
  simp only [State.updGrove, State.die, State.updDie, Fin.getElem_fin, Vector.getElem_set]; split <;> simp_all
@[simp] theorem State.updGrove_die_dcs (s : State) (d e : DieId) (g : GroveId) (f : Grove → Grove) : ((s.updGrove d g f).die e).dcs = (s.die e).dcs := by
  simp only [State.updGrove, State.die, State.updDie, Fin.getElem_fin, Vector.getElem_set]; split <;> simp_all
@[simp] theorem State.updGrove_die_decs (s : State) (d e : DieId) (g : GroveId) (f : Grove → Grove) : ((s.updGrove d g f).die e).decs = (s.die e).decs := by
  simp only [State.updGrove, State.die, State.updDie, Fin.getElem_fin, Vector.getElem_set]; split <;> simp_all
@[simp] theorem State.updGrove_die_onZero (s : State) (d e : DieId) (g : GroveId) (f : Grove → Grove) : ((s.updGrove d g f).die e).onZero = (s.die e).onZero := by
  simp only [State.updGrove, State.die, State.updDie, Fin.getElem_fin, Vector.getElem_set]; split <;> simp_all
@[simp] theorem State.updGrove_die_lqs (s : State) (d e : DieId) (g : GroveId) (f : Grove → Grove) : ((s.updGrove d g f).die e).lqs = (s.die e).lqs := by
  simp only [State.updGrove, State.die, State.updDie, Fin.getElem_fin, Vector.getElem_set]; split <;> simp_all
@[simp] theorem State.updGrove_die_launches (s : State) (d e : DieId) (g : GroveId) (f : Grove → Grove) : ((s.updGrove d g f).die e).launches = (s.die e).launches := by
  simp only [State.updGrove, State.die, State.updDie, Fin.getElem_fin, Vector.getElem_set]; split <;> simp_all
@[simp] theorem State.updGrove_die_forwards (s : State) (d e : DieId) (g : GroveId) (f : Grove → Grove) : ((s.updGrove d g f).die e).forwards = (s.die e).forwards := by
  simp only [State.updGrove, State.die, State.updDie, Fin.getElem_fin, Vector.getElem_set]; split <;> simp_all
@[simp] theorem State.updGrove_die_noDispatch (s : State) (d e : DieId) (g : GroveId) (f : Grove → Grove) : ((s.updGrove d g f).die e).noDispatch = (s.die e).noDispatch := by
  simp only [State.updGrove, State.die, State.updDie, Fin.getElem_fin, Vector.getElem_set]; split <;> simp_all
@[simp] theorem State.updGrove_die_evq (s : State) (d e : DieId) (g : GroveId) (f : Grove → Grove) : ((s.updGrove d g f).die e).evq = (s.die e).evq := by
  simp only [State.updGrove, State.die, State.updDie, Fin.getElem_fin, Vector.getElem_set]; split <;> simp_all
@[simp] theorem State.updGrove_die_evPend (s : State) (d e : DieId) (g : GroveId) (f : Grove → Grove) : ((s.updGrove d g f).die e).evPend = (s.die e).evPend := by
  simp only [State.updGrove, State.die, State.updDie, Fin.getElem_fin, Vector.getElem_set]; split <;> simp_all
@[simp] theorem State.updGrove_die_evOver (s : State) (d e : DieId) (g : GroveId) (f : Grove → Grove) : ((s.updGrove d g f).die e).evOver = (s.die e).evOver := by
  simp only [State.updGrove, State.die, State.updDie, Fin.getElem_fin, Vector.getElem_set]; split <;> simp_all
@[simp] theorem State.updGrove_die_capen (s : State) (d e : DieId) (g : GroveId) (f : Grove → Grove) : ((s.updGrove d g f).die e).capen = (s.die e).capen := by
  simp only [State.updGrove, State.die, State.updDie, Fin.getElem_fin, Vector.getElem_set]; split <;> simp_all
@[simp] theorem State.updGrove_die_capbase (s : State) (d e : DieId) (g : GroveId) (f : Grove → Grove) : ((s.updGrove d g f).die e).capbase = (s.die e).capbase := by
  simp only [State.updGrove, State.die, State.updDie, Fin.getElem_fin, Vector.getElem_set]; split <;> simp_all
@[simp] theorem State.updGrove_die_capsize (s : State) (d e : DieId) (g : GroveId) (f : Grove → Grove) : ((s.updGrove d g f).die e).capsize = (s.die e).capsize := by
  simp only [State.updGrove, State.die, State.updDie, Fin.getElem_fin, Vector.getElem_set]; split <;> simp_all
@[simp] theorem State.updGrove_die_caphead (s : State) (d e : DieId) (g : GroveId) (f : Grove → Grove) : ((s.updGrove d g f).die e).caphead = (s.die e).caphead := by
  simp only [State.updGrove, State.die, State.updDie, Fin.getElem_fin, Vector.getElem_set]; split <;> simp_all
@[simp] theorem State.updGrove_die_captail (s : State) (d e : DieId) (g : GroveId) (f : Grove → Grove) : ((s.updGrove d g f).die e).captail = (s.die e).captail := by
  simp only [State.updGrove, State.die, State.updDie, Fin.getElem_fin, Vector.getElem_set]; split <;> simp_all
@[simp] theorem State.updGrove_die_capdrop (s : State) (d e : DieId) (g : GroveId) (f : Grove → Grove) : ((s.updGrove d g f).die e).capdrop = (s.die e).capdrop := by
  simp only [State.updGrove, State.die, State.updDie, Fin.getElem_fin, Vector.getElem_set]; split <;> simp_all
@[simp] theorem State.updGrove_die_profbase (s : State) (d e : DieId) (g : GroveId) (f : Grove → Grove) : ((s.updGrove d g f).die e).profbase = (s.die e).profbase := by
  simp only [State.updGrove, State.die, State.updDie, Fin.getElem_fin, Vector.getElem_set]; split <;> simp_all
@[simp] theorem State.updGrove_die_profsize (s : State) (d e : DieId) (g : GroveId) (f : Grove → Grove) : ((s.updGrove d g f).die e).profsize = (s.die e).profsize := by
  simp only [State.updGrove, State.die, State.updDie, Fin.getElem_fin, Vector.getElem_set]; split <;> simp_all
@[simp] theorem State.updGrove_die_profhead (s : State) (d e : DieId) (g : GroveId) (f : Grove → Grove) : ((s.updGrove d g f).die e).profhead = (s.die e).profhead := by
  simp only [State.updGrove, State.die, State.updDie, Fin.getElem_fin, Vector.getElem_set]; split <;> simp_all
@[simp] theorem State.updGrove_die_proftail (s : State) (d e : DieId) (g : GroveId) (f : Grove → Grove) : ((s.updGrove d g f).die e).proftail = (s.die e).proftail := by
  simp only [State.updGrove, State.die, State.updDie, Fin.getElem_fin, Vector.getElem_set]; split <;> simp_all
@[simp] theorem State.updGrove_die_profdrop (s : State) (d e : DieId) (g : GroveId) (f : Grove → Grove) : ((s.updGrove d g f).die e).profdrop = (s.die e).profdrop := by
  simp only [State.updGrove, State.die, State.updDie, Fin.getElem_fin, Vector.getElem_set]; split <;> simp_all
@[simp] theorem State.updGrove_die_counts (s : State) (d e : DieId) (g : GroveId) (f : Grove → Grove) : ((s.updGrove d g f).die e).counts = (s.die e).counts := by
  simp only [State.updGrove, State.die, State.updDie, Fin.getElem_fin, Vector.getElem_set]; split <;> simp_all
@[simp] theorem State.updGrove_die_mons (s : State) (d e : DieId) (g : GroveId) (f : Grove → Grove) : ((s.updGrove d g f).die e).mons = (s.die e).mons := by
  simp only [State.updGrove, State.die, State.updDie, Fin.getElem_fin, Vector.getElem_set]; split <;> simp_all
@[simp] theorem State.updGrove_die_dispthr (s : State) (d e : DieId) (g : GroveId) (f : Grove → Grove) : ((s.updGrove d g f).die e).dispthr = (s.die e).dispthr := by
  simp only [State.updGrove, State.die, State.updDie, Fin.getElem_fin, Vector.getElem_set]; split <;> simp_all
@[simp] theorem State.updGrove_die_preemptd (s : State) (d e : DieId) (g : GroveId) (f : Grove → Grove) : ((s.updGrove d g f).die e).preemptd = (s.die e).preemptd := by
  simp only [State.updGrove, State.die, State.updDie, Fin.getElem_fin, Vector.getElem_set]; split <;> simp_all
@[simp] theorem State.updGrove_die_wdog (s : State) (d e : DieId) (g : GroveId) (f : Grove → Grove) : ((s.updGrove d g f).die e).wdog = (s.die e).wdog := by
  simp only [State.updGrove, State.die, State.updDie, Fin.getElem_fin, Vector.getElem_set]; split <;> simp_all
@[simp] theorem State.updGrove_die_audfrac (s : State) (d e : DieId) (g : GroveId) (f : Grove → Grove) : ((s.updGrove d g f).die e).audfrac = (s.die e).audfrac := by
  simp only [State.updGrove, State.die, State.updDie, Fin.getElem_fin, Vector.getElem_set]; split <;> simp_all
@[simp] theorem State.updGrove_die_drpthr (s : State) (d e : DieId) (g : GroveId) (f : Grove → Grove) : ((s.updGrove d g f).die e).drpthr = (s.die e).drpthr := by
  simp only [State.updGrove, State.die, State.updDie, Fin.getElem_fin, Vector.getElem_set]; split <;> simp_all
@[simp] theorem State.updGrove_die_drpstr (s : State) (d e : DieId) (g : GroveId) (f : Grove → Grove) : ((s.updGrove d g f).die e).drpstr = (s.die e).drpstr := by
  simp only [State.updGrove, State.die, State.updDie, Fin.getElem_fin, Vector.getElem_set]; split <;> simp_all
@[simp] theorem State.updGrove_die_drpthrot (s : State) (d e : DieId) (g : GroveId) (f : Grove → Grove) : ((s.updGrove d g f).die e).drpthrot = (s.die e).drpthrot := by
  simp only [State.updGrove, State.die, State.updDie, Fin.getElem_fin, Vector.getElem_set]; split <;> simp_all
@[simp] theorem State.updGrove_die_lockstat (s : State) (d e : DieId) (g : GroveId) (f : Grove → Grove) : ((s.updGrove d g f).die e).lockstat = (s.die e).lockstat := by
  simp only [State.updGrove, State.die, State.updDie, Fin.getElem_fin, Vector.getElem_set]; split <;> simp_all
@[simp] theorem State.updGrove_die_pwrlim (s : State) (d e : DieId) (g : GroveId) (f : Grove → Grove) : ((s.updGrove d g f).die e).pwrlim = (s.die e).pwrlim := by
  simp only [State.updGrove, State.die, State.updDie, Fin.getElem_fin, Vector.getElem_set]; split <;> simp_all
@[simp] theorem State.updGrove_die_pwravg (s : State) (d e : DieId) (g : GroveId) (f : Grove → Grove) : ((s.updGrove d g f).die e).pwravg = (s.die e).pwravg := by
  simp only [State.updGrove, State.die, State.updDie, Fin.getElem_fin, Vector.getElem_set]; split <;> simp_all
@[simp] theorem State.updGrove_die_duty (s : State) (d e : DieId) (g : GroveId) (f : Grove → Grove) : ((s.updGrove d g f).die e).duty = (s.die e).duty := by
  simp only [State.updGrove, State.die, State.updDie, Fin.getElem_fin, Vector.getElem_set]; split <;> simp_all
@[simp] theorem State.updGrove_die_capping (s : State) (d e : DieId) (g : GroveId) (f : Grove → Grove) : ((s.updGrove d g f).die e).capping = (s.die e).capping := by
  simp only [State.updGrove, State.die, State.updDie, Fin.getElem_fin, Vector.getElem_set]; split <;> simp_all
@[simp] theorem State.updGrove_die_hmfloor (s : State) (d e : DieId) (g : GroveId) (f : Grove → Grove) : ((s.updGrove d g f).die e).hmfloor = (s.die e).hmfloor := by
  simp only [State.updGrove, State.die, State.updDie, Fin.getElem_fin, Vector.getElem_set]; split <;> simp_all
@[simp] theorem State.updGrove_die_regions (s : State) (d e : DieId) (g : GroveId) (f : Grove → Grove) : ((s.updGrove d g f).die e).regions = (s.die e).regions := by
  simp only [State.updGrove, State.die, State.updDie, Fin.getElem_fin, Vector.getElem_set]; split <;> simp_all
@[simp] theorem State.updGrove_die_stamps (s : State) (d e : DieId) (g : GroveId) (f : Grove → Grove) : ((s.updGrove d g f).die e).stamps = (s.die e).stamps := by
  simp only [State.updGrove, State.die, State.updDie, Fin.getElem_fin, Vector.getElem_set]; split <;> simp_all
@[simp] theorem State.updGrove_die_spareGroups (s : State) (d e : DieId) (g : GroveId) (f : Grove → Grove) : ((s.updGrove d g f).die e).spareGroups = (s.die e).spareGroups := by
  simp only [State.updGrove, State.die, State.updDie, Fin.getElem_fin, Vector.getElem_set]; split <;> simp_all
@[simp] theorem State.updGrove_die_groupErrs (s : State) (d e : DieId) (g : GroveId) (f : Grove → Grove) : ((s.updGrove d g f).die e).groupErrs = (s.die e).groupErrs := by
  simp only [State.updGrove, State.die, State.updDie, Fin.getElem_fin, Vector.getElem_set]; split <;> simp_all
@[simp] theorem State.updGrove_die_groupBad (s : State) (d e : DieId) (g : GroveId) (f : Grove → Grove) : ((s.updGrove d g f).die e).groupBad = (s.die e).groupBad := by
  simp only [State.updGrove, State.die, State.updDie, Fin.getElem_fin, Vector.getElem_set]; split <;> simp_all
@[simp] theorem State.updGrove_die_pwrWindow (s : State) (d e : DieId) (g : GroveId) (f : Grove → Grove) : ((s.updGrove d g f).die e).pwrWindow = (s.die e).pwrWindow := by
  simp only [State.updGrove, State.die, State.updDie, Fin.getElem_fin, Vector.getElem_set]; split <;> simp_all
@[simp] theorem State.updGrove_die_thermAt (s : State) (d e : DieId) (g : GroveId) (f : Grove → Grove) : ((s.updGrove d g f).die e).thermAt = (s.die e).thermAt := by
  simp only [State.updGrove, State.die, State.updDie, Fin.getElem_fin, Vector.getElem_set]; split <;> simp_all
@[simp] theorem State.updGrove_die_audit (s : State) (d e : DieId) (g : GroveId) (f : Grove → Grove) : ((s.updGrove d g f).die e).audit = (s.die e).audit := by
  simp only [State.updGrove, State.die, State.updDie, Fin.getElem_fin, Vector.getElem_set]; split <;> simp_all
@[simp] theorem State.updGrove_die_notices (s : State) (d e : DieId) (g : GroveId) (f : Grove → Grove) : ((s.updGrove d g f).die e).notices = (s.die e).notices := by
  simp only [State.updGrove, State.die, State.updDie, Fin.getElem_fin, Vector.getElem_set]; split <;> simp_all
@[simp] theorem State.updGrove_die_sys (s : State) (d e : DieId) (g : GroveId) (f : Grove → Grove) : ((s.updGrove d g f).die e).sys = (s.die e).sys := by
  simp only [State.updGrove, State.die, State.updDie, Fin.getElem_fin, Vector.getElem_set]; split <;> simp_all
@[simp] theorem State.updColumn_die_fenced (s : State) (d e : DieId) (c : CoreId) (f : Column → Column) : ((s.updColumn d c f).die e).fenced = (s.die e).fenced := by
  simp only [State.updColumn, State.die, State.updDie, Fin.getElem_fin, Vector.getElem_set]; split <;> simp_all
@[simp] theorem State.updColumn_die_segs (s : State) (d e : DieId) (c : CoreId) (f : Column → Column) : ((s.updColumn d c f).die e).segs = (s.die e).segs := by
  simp only [State.updColumn, State.die, State.updDie, Fin.getElem_fin, Vector.getElem_set]; split <;> simp_all
@[simp] theorem State.updColumn_die_routes (s : State) (d e : DieId) (c : CoreId) (f : Column → Column) : ((s.updColumn d c f).die e).routes = (s.die e).routes := by
  simp only [State.updColumn, State.die, State.updDie, Fin.getElem_fin, Vector.getElem_set]; split <;> simp_all
@[simp] theorem State.updColumn_die_keys (s : State) (d e : DieId) (c : CoreId) (f : Column → Column) : ((s.updColumn d c f).die e).keys = (s.die e).keys := by
  simp only [State.updColumn, State.die, State.updDie, Fin.getElem_fin, Vector.getElem_set]; split <;> simp_all
@[simp] theorem State.updColumn_die_lftree (s : State) (d e : DieId) (c : CoreId) (f : Column → Column) : ((s.updColumn d c f).die e).lftree = (s.die e).lftree := by
  simp only [State.updColumn, State.die, State.updDie, Fin.getElem_fin, Vector.getElem_set]; split <;> simp_all
@[simp] theorem State.updColumn_die_egrate (s : State) (d e : DieId) (c : CoreId) (f : Column → Column) : ((s.updColumn d c f).die e).egrate = (s.die e).egrate := by
  simp only [State.updColumn, State.die, State.updDie, Fin.getElem_fin, Vector.getElem_set]; split <;> simp_all
@[simp] theorem State.updColumn_die_egressBusy (s : State) (d e : DieId) (c : CoreId) (f : Column → Column) : ((s.updColumn d c f).die e).egressBusy = (s.die e).egressBusy := by
  simp only [State.updColumn, State.die, State.updDie, Fin.getElem_fin, Vector.getElem_set]; split <;> simp_all
@[simp] theorem State.updColumn_die_copies (s : State) (d e : DieId) (c : CoreId) (f : Column → Column) : ((s.updColumn d c f).die e).copies = (s.die e).copies := by
  simp only [State.updColumn, State.die, State.updDie, Fin.getElem_fin, Vector.getElem_set]; split <;> simp_all
@[simp] theorem State.updColumn_die_standing (s : State) (d e : DieId) (c : CoreId) (f : Column → Column) : ((s.updColumn d c f).die e).standing = (s.die e).standing := by
  simp only [State.updColumn, State.die, State.updDie, Fin.getElem_fin, Vector.getElem_set]; split <;> simp_all
@[simp] theorem State.updColumn_die_lateNoted (s : State) (d e : DieId) (c : CoreId) (f : Column → Column) : ((s.updColumn d c f).die e).lateNoted = (s.die e).lateNoted := by
  simp only [State.updColumn, State.die, State.updDie, Fin.getElem_fin, Vector.getElem_set]; split <;> simp_all
@[simp] theorem State.updColumn_die_rerouted (s : State) (d e : DieId) (c : CoreId) (f : Column → Column) : ((s.updColumn d c f).die e).rerouted = (s.die e).rerouted := by
  simp only [State.updColumn, State.die, State.updDie, Fin.getElem_fin, Vector.getElem_set]; split <;> simp_all
@[simp] theorem State.updColumn_die_groves (s : State) (d e : DieId) (c : CoreId) (f : Column → Column) : ((s.updColumn d c f).die e).groves = (s.die e).groves := by
  simp only [State.updColumn, State.die, State.updDie, Fin.getElem_fin, Vector.getElem_set]; split <;> simp_all
@[simp] theorem State.updColumn_die_cores (s : State) (d e : DieId) (c : CoreId) (f : Column → Column) : ((s.updColumn d c f).die e).cores = (s.die e).cores := by
  simp only [State.updColumn, State.die, State.updDie, Fin.getElem_fin, Vector.getElem_set]; split <;> simp_all
@[simp] theorem State.updColumn_die_recs (s : State) (d e : DieId) (c : CoreId) (f : Column → Column) : ((s.updColumn d c f).die e).recs = (s.die e).recs := by
  simp only [State.updColumn, State.die, State.updDie, Fin.getElem_fin, Vector.getElem_set]; split <;> simp_all
@[simp] theorem State.updColumn_die_dcs (s : State) (d e : DieId) (c : CoreId) (f : Column → Column) : ((s.updColumn d c f).die e).dcs = (s.die e).dcs := by
  simp only [State.updColumn, State.die, State.updDie, Fin.getElem_fin, Vector.getElem_set]; split <;> simp_all
@[simp] theorem State.updColumn_die_decs (s : State) (d e : DieId) (c : CoreId) (f : Column → Column) : ((s.updColumn d c f).die e).decs = (s.die e).decs := by
  simp only [State.updColumn, State.die, State.updDie, Fin.getElem_fin, Vector.getElem_set]; split <;> simp_all
@[simp] theorem State.updColumn_die_onZero (s : State) (d e : DieId) (c : CoreId) (f : Column → Column) : ((s.updColumn d c f).die e).onZero = (s.die e).onZero := by
  simp only [State.updColumn, State.die, State.updDie, Fin.getElem_fin, Vector.getElem_set]; split <;> simp_all
@[simp] theorem State.updColumn_die_lqs (s : State) (d e : DieId) (c : CoreId) (f : Column → Column) : ((s.updColumn d c f).die e).lqs = (s.die e).lqs := by
  simp only [State.updColumn, State.die, State.updDie, Fin.getElem_fin, Vector.getElem_set]; split <;> simp_all
@[simp] theorem State.updColumn_die_launches (s : State) (d e : DieId) (c : CoreId) (f : Column → Column) : ((s.updColumn d c f).die e).launches = (s.die e).launches := by
  simp only [State.updColumn, State.die, State.updDie, Fin.getElem_fin, Vector.getElem_set]; split <;> simp_all
@[simp] theorem State.updColumn_die_forwards (s : State) (d e : DieId) (c : CoreId) (f : Column → Column) : ((s.updColumn d c f).die e).forwards = (s.die e).forwards := by
  simp only [State.updColumn, State.die, State.updDie, Fin.getElem_fin, Vector.getElem_set]; split <;> simp_all
@[simp] theorem State.updColumn_die_noDispatch (s : State) (d e : DieId) (c : CoreId) (f : Column → Column) : ((s.updColumn d c f).die e).noDispatch = (s.die e).noDispatch := by
  simp only [State.updColumn, State.die, State.updDie, Fin.getElem_fin, Vector.getElem_set]; split <;> simp_all
@[simp] theorem State.updColumn_die_evq (s : State) (d e : DieId) (c : CoreId) (f : Column → Column) : ((s.updColumn d c f).die e).evq = (s.die e).evq := by
  simp only [State.updColumn, State.die, State.updDie, Fin.getElem_fin, Vector.getElem_set]; split <;> simp_all
@[simp] theorem State.updColumn_die_evPend (s : State) (d e : DieId) (c : CoreId) (f : Column → Column) : ((s.updColumn d c f).die e).evPend = (s.die e).evPend := by
  simp only [State.updColumn, State.die, State.updDie, Fin.getElem_fin, Vector.getElem_set]; split <;> simp_all
@[simp] theorem State.updColumn_die_evOver (s : State) (d e : DieId) (c : CoreId) (f : Column → Column) : ((s.updColumn d c f).die e).evOver = (s.die e).evOver := by
  simp only [State.updColumn, State.die, State.updDie, Fin.getElem_fin, Vector.getElem_set]; split <;> simp_all
@[simp] theorem State.updColumn_die_capen (s : State) (d e : DieId) (c : CoreId) (f : Column → Column) : ((s.updColumn d c f).die e).capen = (s.die e).capen := by
  simp only [State.updColumn, State.die, State.updDie, Fin.getElem_fin, Vector.getElem_set]; split <;> simp_all
@[simp] theorem State.updColumn_die_capbase (s : State) (d e : DieId) (c : CoreId) (f : Column → Column) : ((s.updColumn d c f).die e).capbase = (s.die e).capbase := by
  simp only [State.updColumn, State.die, State.updDie, Fin.getElem_fin, Vector.getElem_set]; split <;> simp_all
@[simp] theorem State.updColumn_die_capsize (s : State) (d e : DieId) (c : CoreId) (f : Column → Column) : ((s.updColumn d c f).die e).capsize = (s.die e).capsize := by
  simp only [State.updColumn, State.die, State.updDie, Fin.getElem_fin, Vector.getElem_set]; split <;> simp_all
@[simp] theorem State.updColumn_die_caphead (s : State) (d e : DieId) (c : CoreId) (f : Column → Column) : ((s.updColumn d c f).die e).caphead = (s.die e).caphead := by
  simp only [State.updColumn, State.die, State.updDie, Fin.getElem_fin, Vector.getElem_set]; split <;> simp_all
@[simp] theorem State.updColumn_die_captail (s : State) (d e : DieId) (c : CoreId) (f : Column → Column) : ((s.updColumn d c f).die e).captail = (s.die e).captail := by
  simp only [State.updColumn, State.die, State.updDie, Fin.getElem_fin, Vector.getElem_set]; split <;> simp_all
@[simp] theorem State.updColumn_die_capdrop (s : State) (d e : DieId) (c : CoreId) (f : Column → Column) : ((s.updColumn d c f).die e).capdrop = (s.die e).capdrop := by
  simp only [State.updColumn, State.die, State.updDie, Fin.getElem_fin, Vector.getElem_set]; split <;> simp_all
@[simp] theorem State.updColumn_die_profbase (s : State) (d e : DieId) (c : CoreId) (f : Column → Column) : ((s.updColumn d c f).die e).profbase = (s.die e).profbase := by
  simp only [State.updColumn, State.die, State.updDie, Fin.getElem_fin, Vector.getElem_set]; split <;> simp_all
@[simp] theorem State.updColumn_die_profsize (s : State) (d e : DieId) (c : CoreId) (f : Column → Column) : ((s.updColumn d c f).die e).profsize = (s.die e).profsize := by
  simp only [State.updColumn, State.die, State.updDie, Fin.getElem_fin, Vector.getElem_set]; split <;> simp_all
@[simp] theorem State.updColumn_die_profhead (s : State) (d e : DieId) (c : CoreId) (f : Column → Column) : ((s.updColumn d c f).die e).profhead = (s.die e).profhead := by
  simp only [State.updColumn, State.die, State.updDie, Fin.getElem_fin, Vector.getElem_set]; split <;> simp_all
@[simp] theorem State.updColumn_die_proftail (s : State) (d e : DieId) (c : CoreId) (f : Column → Column) : ((s.updColumn d c f).die e).proftail = (s.die e).proftail := by
  simp only [State.updColumn, State.die, State.updDie, Fin.getElem_fin, Vector.getElem_set]; split <;> simp_all
@[simp] theorem State.updColumn_die_profdrop (s : State) (d e : DieId) (c : CoreId) (f : Column → Column) : ((s.updColumn d c f).die e).profdrop = (s.die e).profdrop := by
  simp only [State.updColumn, State.die, State.updDie, Fin.getElem_fin, Vector.getElem_set]; split <;> simp_all
@[simp] theorem State.updColumn_die_counts (s : State) (d e : DieId) (c : CoreId) (f : Column → Column) : ((s.updColumn d c f).die e).counts = (s.die e).counts := by
  simp only [State.updColumn, State.die, State.updDie, Fin.getElem_fin, Vector.getElem_set]; split <;> simp_all
@[simp] theorem State.updColumn_die_mons (s : State) (d e : DieId) (c : CoreId) (f : Column → Column) : ((s.updColumn d c f).die e).mons = (s.die e).mons := by
  simp only [State.updColumn, State.die, State.updDie, Fin.getElem_fin, Vector.getElem_set]; split <;> simp_all
@[simp] theorem State.updColumn_die_dispthr (s : State) (d e : DieId) (c : CoreId) (f : Column → Column) : ((s.updColumn d c f).die e).dispthr = (s.die e).dispthr := by
  simp only [State.updColumn, State.die, State.updDie, Fin.getElem_fin, Vector.getElem_set]; split <;> simp_all
@[simp] theorem State.updColumn_die_preemptd (s : State) (d e : DieId) (c : CoreId) (f : Column → Column) : ((s.updColumn d c f).die e).preemptd = (s.die e).preemptd := by
  simp only [State.updColumn, State.die, State.updDie, Fin.getElem_fin, Vector.getElem_set]; split <;> simp_all
@[simp] theorem State.updColumn_die_wdog (s : State) (d e : DieId) (c : CoreId) (f : Column → Column) : ((s.updColumn d c f).die e).wdog = (s.die e).wdog := by
  simp only [State.updColumn, State.die, State.updDie, Fin.getElem_fin, Vector.getElem_set]; split <;> simp_all
@[simp] theorem State.updColumn_die_audfrac (s : State) (d e : DieId) (c : CoreId) (f : Column → Column) : ((s.updColumn d c f).die e).audfrac = (s.die e).audfrac := by
  simp only [State.updColumn, State.die, State.updDie, Fin.getElem_fin, Vector.getElem_set]; split <;> simp_all
@[simp] theorem State.updColumn_die_drpthr (s : State) (d e : DieId) (c : CoreId) (f : Column → Column) : ((s.updColumn d c f).die e).drpthr = (s.die e).drpthr := by
  simp only [State.updColumn, State.die, State.updDie, Fin.getElem_fin, Vector.getElem_set]; split <;> simp_all
@[simp] theorem State.updColumn_die_drpstr (s : State) (d e : DieId) (c : CoreId) (f : Column → Column) : ((s.updColumn d c f).die e).drpstr = (s.die e).drpstr := by
  simp only [State.updColumn, State.die, State.updDie, Fin.getElem_fin, Vector.getElem_set]; split <;> simp_all
@[simp] theorem State.updColumn_die_drpthrot (s : State) (d e : DieId) (c : CoreId) (f : Column → Column) : ((s.updColumn d c f).die e).drpthrot = (s.die e).drpthrot := by
  simp only [State.updColumn, State.die, State.updDie, Fin.getElem_fin, Vector.getElem_set]; split <;> simp_all
@[simp] theorem State.updColumn_die_lockstat (s : State) (d e : DieId) (c : CoreId) (f : Column → Column) : ((s.updColumn d c f).die e).lockstat = (s.die e).lockstat := by
  simp only [State.updColumn, State.die, State.updDie, Fin.getElem_fin, Vector.getElem_set]; split <;> simp_all
@[simp] theorem State.updColumn_die_pwrlim (s : State) (d e : DieId) (c : CoreId) (f : Column → Column) : ((s.updColumn d c f).die e).pwrlim = (s.die e).pwrlim := by
  simp only [State.updColumn, State.die, State.updDie, Fin.getElem_fin, Vector.getElem_set]; split <;> simp_all
@[simp] theorem State.updColumn_die_pwravg (s : State) (d e : DieId) (c : CoreId) (f : Column → Column) : ((s.updColumn d c f).die e).pwravg = (s.die e).pwravg := by
  simp only [State.updColumn, State.die, State.updDie, Fin.getElem_fin, Vector.getElem_set]; split <;> simp_all
@[simp] theorem State.updColumn_die_duty (s : State) (d e : DieId) (c : CoreId) (f : Column → Column) : ((s.updColumn d c f).die e).duty = (s.die e).duty := by
  simp only [State.updColumn, State.die, State.updDie, Fin.getElem_fin, Vector.getElem_set]; split <;> simp_all
@[simp] theorem State.updColumn_die_capping (s : State) (d e : DieId) (c : CoreId) (f : Column → Column) : ((s.updColumn d c f).die e).capping = (s.die e).capping := by
  simp only [State.updColumn, State.die, State.updDie, Fin.getElem_fin, Vector.getElem_set]; split <;> simp_all
@[simp] theorem State.updColumn_die_hmfloor (s : State) (d e : DieId) (c : CoreId) (f : Column → Column) : ((s.updColumn d c f).die e).hmfloor = (s.die e).hmfloor := by
  simp only [State.updColumn, State.die, State.updDie, Fin.getElem_fin, Vector.getElem_set]; split <;> simp_all
@[simp] theorem State.updColumn_die_regions (s : State) (d e : DieId) (c : CoreId) (f : Column → Column) : ((s.updColumn d c f).die e).regions = (s.die e).regions := by
  simp only [State.updColumn, State.die, State.updDie, Fin.getElem_fin, Vector.getElem_set]; split <;> simp_all
@[simp] theorem State.updColumn_die_stamps (s : State) (d e : DieId) (c : CoreId) (f : Column → Column) : ((s.updColumn d c f).die e).stamps = (s.die e).stamps := by
  simp only [State.updColumn, State.die, State.updDie, Fin.getElem_fin, Vector.getElem_set]; split <;> simp_all
@[simp] theorem State.updColumn_die_spareGroups (s : State) (d e : DieId) (c : CoreId) (f : Column → Column) : ((s.updColumn d c f).die e).spareGroups = (s.die e).spareGroups := by
  simp only [State.updColumn, State.die, State.updDie, Fin.getElem_fin, Vector.getElem_set]; split <;> simp_all
@[simp] theorem State.updColumn_die_groupErrs (s : State) (d e : DieId) (c : CoreId) (f : Column → Column) : ((s.updColumn d c f).die e).groupErrs = (s.die e).groupErrs := by
  simp only [State.updColumn, State.die, State.updDie, Fin.getElem_fin, Vector.getElem_set]; split <;> simp_all
@[simp] theorem State.updColumn_die_groupBad (s : State) (d e : DieId) (c : CoreId) (f : Column → Column) : ((s.updColumn d c f).die e).groupBad = (s.die e).groupBad := by
  simp only [State.updColumn, State.die, State.updDie, Fin.getElem_fin, Vector.getElem_set]; split <;> simp_all
@[simp] theorem State.updColumn_die_pwrWindow (s : State) (d e : DieId) (c : CoreId) (f : Column → Column) : ((s.updColumn d c f).die e).pwrWindow = (s.die e).pwrWindow := by
  simp only [State.updColumn, State.die, State.updDie, Fin.getElem_fin, Vector.getElem_set]; split <;> simp_all
@[simp] theorem State.updColumn_die_thermAt (s : State) (d e : DieId) (c : CoreId) (f : Column → Column) : ((s.updColumn d c f).die e).thermAt = (s.die e).thermAt := by
  simp only [State.updColumn, State.die, State.updDie, Fin.getElem_fin, Vector.getElem_set]; split <;> simp_all
@[simp] theorem State.updColumn_die_audit (s : State) (d e : DieId) (c : CoreId) (f : Column → Column) : ((s.updColumn d c f).die e).audit = (s.die e).audit := by
  simp only [State.updColumn, State.die, State.updDie, Fin.getElem_fin, Vector.getElem_set]; split <;> simp_all
@[simp] theorem State.updColumn_die_notices (s : State) (d e : DieId) (c : CoreId) (f : Column → Column) : ((s.updColumn d c f).die e).notices = (s.die e).notices := by
  simp only [State.updColumn, State.die, State.updDie, Fin.getElem_fin, Vector.getElem_set]; split <;> simp_all
@[simp] theorem State.updColumn_die_sys (s : State) (d e : DieId) (c : CoreId) (f : Column → Column) : ((s.updColumn d c f).die e).sys = (s.die e).sys := by
  simp only [State.updColumn, State.die, State.updDie, Fin.getElem_fin, Vector.getElem_set]; split <;> simp_all

end Sys2Proof.Machine
end

