-- ==== Sys2Proof/Laws/Issue.lean ====
section
/-! SUPPORT. What the running of a word can do, said once: the three outcomes of runWord, the guarded form, and what an update of a stream
leaves in that stream. -/

namespace Sys2Proof.Machine
open Sys2Proof

/-! ## Vectors changed in one place -/

theorem updAt_getElem {α : Type} {n : Nat} (v : Vector α n) (i : Nat) (f : α → α) (k : Nat) (h : k < n) :
    (updAt v i f)[k] = if i = k then f v[k] else v[k] := by
  unfold updAt
  split
  next a ha =>
    rw [Vector.getElem?_eq_some_iff] at ha
    obtain ⟨hi, rfl⟩ := ha
    rw [Vector.getElem_setIfInBounds (hj := h)]
    split <;> simp_all
  next ha =>
    rw [Vector.getElem?_eq_none_iff] at ha
    rw [if_neg (by omega)]

theorem updAt_getElem?_self {α : Type} {n : Nat} (v : Vector α n) (i : Nat) (f : α → α) : (updAt v i f)[i]? = v[i]?.map f := by
  by_cases h : i < n
  · rw [Vector.getElem?_eq_getElem h, Vector.getElem?_eq_getElem h, updAt_getElem v i f i h]; simp
  · rw [Vector.getElem?_eq_none (by omega), Vector.getElem?_eq_none (by omega)]; rfl

/-! ## The state of one die -/

@[simp] theorem State.updDie_die (s : State) (d : DieId) (f : Die → Die) : (s.updDie d f).die d = f (s.die d) := by
  simp [State.updDie, State.die]

theorem State.updDie_die_ne (s : State) {d e : DieId} (f : Die → Die) (h : e ≠ d) : (s.updDie d f).die e = s.die e := by
  simp only [State.updDie, State.die, Fin.getElem_fin, Vector.getElem_set]
  rw [if_neg (fun x => h (Fin.ext x.symm))]

@[simp] theorem State.updJob_slotRec? (s : State) (d : DieId) (r : Nat) (f : Job → Job) (e : DieId) (c : CoreId) (k : SlotId) :
    (s.updJob d r f).slotRec? e c k = s.slotRec? e c k := by
  unfold State.slotRec? State.core State.updJob
  by_cases h : e = d
  · subst h; simp
  · rw [State.updDie_die_ne _ _ h]

@[simp] theorem State.updJob_job? (s : State) (d : DieId) (r : Nat) (f : Job → Job) : (s.updJob d r f).job? d r = (s.job? d r).map f := by
  unfold State.job? State.updJob
  rw [State.updDie_die, updAt_getElem?_self]
  cases ((s.die d).recs[r]?) <;> rfl

/-- A stream that was changed is the changed stream. -/
theorem State.updStream_stream? (s : State) (w : Who) (f : Stream → Stream) : (s.updStream w f).stream? w = (s.stream? w).map f := by
  cases w with
  | eng d c k e =>
    simp only [State.updStream, State.stream?, State.slotJob?]
    cases hr : s.slotRec? d c k with
    | none => simp [hr]
    | some r =>
      simp only [State.updJob_slotRec?, hr, Option.bind_some, State.updJob_job?, Option.map_map]
      congr 1; funext j; simp
  | sys d =>
    simp only [State.updStream, State.stream?, State.updSys, State.sysc, State.updDie_die]
    split <;> simp_all

/-- The current stream after a change of it. -/
theorem State.updStr_str {s : State} (f : Stream → Stream) (h : (s.stream? s.cur).isSome = true) : (s.updStr f).str = f s.str := by
  unfold State.str State.updStr
  rw [State.updStream_cur, State.updStream_stream?]
  obtain ⟨st, hs⟩ := Option.isSome_iff_exists.mp h
  simp [hs]

/-! ## Running a word -/

/-- What runWord can answer, when the machine goes on: nothing happened, a stop at issue, or the word's own state. -/
theorem runWord_cases {i : Instr} {h : Hdr} {ready : State → Bool} {body : Body} {s t : State} (e : runWord i h ready body s = .next t) :
    t = s ∨ (∃ st, body (s.popped h (extraPop i)) = .error st ∧ t = s.stopIssue st) ∨
      ∃ r, body (s.popped h (extraPop i)) = .ok r ∧ t = r.1.finish r.2 := by
  unfold runWord at e
  split at e
  · cases e
  · split at e
    · split at e
      next st hb => exact .inr (.inl ⟨st, hb, by injection e with e; exact e.symm⟩)
      next r hb => exact .inr (.inr ⟨r, hb, by injection e with e; exact e.symm⟩)
    · injection e with e; exact .inl e.symm

/-- A word that issues runs its body. -/
theorem runWord_issues {i : Instr} {h : Hdr} {ready : State → Bool} {body : Body} {s : State} (hi : s.issues i h) (hr : ready s = true) :
    runWord i h ready body s = match body (s.popped h (extraPop i)) with
      | .error st => .next (s.stopIssue st)
      | .ok r => .next (r.1.finish r.2) := by
  obtain ⟨st, hs⟩ := Option.isSome_iff_exists.mp hi.1
  unfold runWord
  simp only [hs, hi.2, hr, Bool.and_self, if_true] <;> rfl

/-- A word whose conditions are not met changes nothing (R29). -/
theorem runWord_waits {i : Instr} {h : Hdr} {ready : State → Bool} {body : Body} {s : State} (hs : (s.stream? s.cur).isSome = true)
    (hw : s.canIssue i h = false ∨ ready s = false) : runWord i h ready body s = .next s := by
  obtain ⟨st, he⟩ := Option.isSome_iff_exists.mp hs
  unfold runWord
  rcases hw with hw | hw <;> simp [he, hw]

/-- A guarded word with a true guard runs its body (R78). -/
theorem runGuarded_opens {i : Instr} {h : Hdr} {g : Guard} {ready : State → Bool} {body : Body} {s : State} (he : extraPop i = none)
    (ho : s.opens i h g) (hr : ready s = true) :
    runGuarded i h g ready body s = match body (s.opened h) with
      | .error st => .next (s.stopIssue st)
      | .ok r => .next (r.1.finish r.2) := by
  unfold runGuarded
  rw [runWord_issues ho.1 (by simp [hr]), he]
  have hg := ho.2
  unfold State.opened at hg ⊢
  simp [hg]

/-- A word that lands results leaves the state `sends` names. -/
theorem results_finish (h : Hdr) (lat : Nat) (effs : List Eff) (s : State) :
    results h lat effs s = .ok (s.launchWord h.tks (some (s.now + lat)) effs .fixed, .fall) := rfl

/-- A guarded word whose whole effect is results. -/
theorem runGuarded_sends {i : Instr} {h : Hdr} {g : Guard} {ready : State → Bool} {lat : Nat} {effs : State → List Eff} {s : State}
    (he : extraPop i = none) (ho : s.opens i h g) (hr : ready s = true) :
    runGuarded i h g ready (fun s => results h lat (effs s) s) s = .next ((s.opened h).sends h lat (effs (s.opened h))) := by
  rw [runGuarded_opens he ho hr]; rfl

/-- A guarded word with no condition of its own that lands results, in the form the statements use. -/
theorem landsGuarded_of {i : Instr} {h : Hdr} {g : Guard} {lat : Nat} {effs : State → List Eff} (he : extraPop i = none)
    (hx : ∀ s, exec i s = runGuarded i h g always (fun s => results h lat (effs s) s) s) : landsGuarded i h g lat effs := by
  intro s hi
  rw [hx]
  unfold runGuarded
  rw [runWord_issues hi (by simp [always]), he]
  show (match (if (s.opened h).guard g = true then results h lat (effs (s.opened h)) (s.opened h) else asNop h (s.opened h)) with
    | .error st => Host.Outcome.next (s.stopIssue st)
    | .ok r => .next (r.1.finish r.2)) = _
  cases (s.opened h).guard g <;> rfl

/-- A word without a guard or a condition of its own that lands results. -/
theorem landsAlways_of {i : Instr} {h : Hdr} {lat : Nat} {effs : State → List Eff} (he : extraPop i = none)
    (hx : ∀ s, exec i s = runWord i h always (fun s => results h lat (effs s) s) s) : landsAlways i h lat effs := by
  intro s hi
  rw [hx, runWord_issues hi rfl, he]
  rfl

/-- A guarded word that stops at issue. -/
theorem stopsWith_of {i : Instr} {h : Hdr} {g : Guard} {ready : State → Bool} {body : Body} {bad : State → Prop} {st : State → Stop}
    (he : extraPop i = none) (hx : ∀ s, exec i s = runGuarded i h g ready body s)
    (hb : ∀ s, bad s → ready s = true ∧ body (s.opened h) = .error (st (s.opened h))) : stopsWith i h g bad st := by
  intro s ho b
  rw [hx, runGuarded_opens he ho (hb s b).1, (hb s b).2]

/-- A guarded word that goes on. -/
theorem goesTo_of {i : Instr} {h : Hdr} {g : Guard} {ready : State → Bool} {body : Body} {ok : State → Prop} {next : State → State} {t : State → State × Flow}
    (he : extraPop i = none) (hx : ∀ s, exec i s = runGuarded i h g ready body s)
    (hb : ∀ s, ok s → ready s = true ∧ body (s.opened h) = .ok (t (s.opened h)))
    (ht : ∀ u, (t u).1.finish (t u).2 = next u) : goesTo i h g ok next := by
  intro s ho b
  rw [hx, runGuarded_opens he ho (hb s b).1, (hb s b).2, ← ht]

/-! ## Streams -/

@[simp] theorem Stream.loopEnd_x (st : Stream) : st.loopEnd.x = st.x := by simp only [Stream.loopEnd]; split <;> (try split) <;> rfl
@[simp] theorem Stream.loopEnd_p (st : Stream) : st.loopEnd.p = st.p := by simp only [Stream.loopEnd]; split <;> (try split) <;> rfl
@[simp] theorem Stream.loopEnd_b (st : Stream) : st.loopEnd.b = st.b := by simp only [Stream.loopEnd]; split <;> (try split) <;> rfl
@[simp] theorem Stream.loopEnd_fstat (st : Stream) : st.loopEnd.fstat = st.fstat := by simp only [Stream.loopEnd]; split <;> (try split) <;> rfl
@[simp] theorem Stream.loopEnd_rmode (st : Stream) : st.loopEnd.rmode = st.rmode := by simp only [Stream.loopEnd]; split <;> (try split) <;> rfl
@[simp] theorem Stream.loopEnd_flights (st : Stream) : st.loopEnd.flights = st.flights := by simp only [Stream.loopEnd]; split <;> (try split) <;> rfl
@[simp] theorem Stream.loopEnd_nextId (st : Stream) : st.loopEnd.nextId = st.nextId := by simp only [Stream.loopEnd]; split <;> (try split) <;> rfl
@[simp] theorem Stream.loopEnd_atEnd (st : Stream) : st.loopEnd.atEnd = st.atEnd := by simp only [Stream.loopEnd]; split <;> (try split) <;> rfl

end Sys2Proof.Machine
end

