-- ==== Sys2Proof/Laws/Memory.lean ====
section
/-! SUPPORT. The laws of a byte memory: read after write, writes elsewhere, and that every operation keeps the canonical form. -/

namespace Sys2Proof.Machine
open Sys2Proof

theorem Memory.wfFrom_mono {lo lo' : Nat} {m : Memory} (h : lo' ≤ lo) (w : Memory.wfFrom lo m = true) : Memory.wfFrom lo' m = true := by
  cases m with
  | nil => rfl
  | cons c r => obtain ⟨k, v⟩ := c; simp only [Memory.wfFrom, Bool.and_eq_true, decide_eq_true_eq] at w ⊢; exact ⟨⟨by omega, w.1.2⟩, w.2⟩

/-- Below its first address a canonical memory reads blank. -/
theorem Memory.read_below {lo a : Nat} {m : Memory} (w : Memory.wfFrom lo m = true) (h : a < lo) : m.read a = Memory.blank := by
  cases m with
  | nil => rfl
  | cons c r =>
    obtain ⟨k, v⟩ := c
    simp only [Memory.wfFrom, Bool.and_eq_true, decide_eq_true_eq] at w
    simp only [Memory.read]; rw [if_neg (by omega), if_pos (by omega)]

theorem Memory.wfFrom_write {lo a : Nat} {m : Memory} (b : Byte) (w : Memory.wfFrom lo m = true) (h : lo ≤ a) :
    Memory.wfFrom lo (m.write a b) = true := by
  induction m generalizing lo with
  | nil => simp only [Memory.write]; split <;> simp_all [Memory.wfFrom]
  | cons c r ih =>
    obtain ⟨k, v⟩ := c
    simp only [Memory.wfFrom, Bool.and_eq_true, decide_eq_true_eq] at w
    obtain ⟨⟨hk, hv⟩, hr⟩ := w
    simp only [Memory.write]
    split
    · split <;> simp_all [Memory.wfFrom] <;> omega
    · split
      · subst_vars
        split
        · exact Memory.wfFrom_mono (by omega) hr
        · simp_all [Memory.wfFrom]
      · simp only [Memory.wfFrom, Bool.and_eq_true, decide_eq_true_eq]
        exact ⟨⟨hk, hv⟩, ih hr (by omega)⟩

/-- A byte write keeps the canonical form. -/
theorem Memory.write_wf {m : Memory} (a : Nat) (b : Byte) (w : m.wf = true) : (m.write a b).wf = true :=
  Memory.wfFrom_write b w (Nat.zero_le a)

/-- A write of a run of bytes keeps the canonical form. -/
theorem Memory.writes_wf {m : Memory} (a : Nat) (l : List Byte) (w : m.wf = true) : (m.writes a l).wf = true := by
  induction l generalizing m a with
  | nil => exact w
  | cons b r ih => exact ih _ (Memory.write_wf a b w)

theorem Memory.nil_wf : Memory.wf [] = true := rfl

theorem Memory.read_write_from {lo : Nat} {m : Memory} (a x : Nat) (b : Byte) (w : Memory.wfFrom lo m = true) :
    (m.write a b).read x = if x = a then b else m.read x := by
  induction m generalizing lo with
  | nil => simp only [Memory.write]; split <;> (simp only [Memory.read]; split <;> simp_all) <;> (intro h; omega)
  | cons c r ih =>
    obtain ⟨k, v⟩ := c
    simp only [Memory.wfFrom, Bool.and_eq_true, decide_eq_true_eq] at w
    simp only [Memory.write]
    split
    next h =>
      split
      next hb =>
        subst hb
        by_cases hx : x = a
        · subst hx; rw [if_pos rfl]; simp only [Memory.read]; rw [if_neg (by omega), if_pos h]
        · rw [if_neg hx]
      next hb =>
        simp only [Memory.read]
        by_cases hx : x = a
        · subst hx; simp
        · rw [if_neg (fun e => hx e.symm), if_neg hx]
          by_cases hl : x < a
          · rw [if_pos hl, if_neg (by omega), if_pos (by omega)]
          · rw [if_neg hl]
    next h =>
      split
      next he =>
        subst he
        split
        next hb =>
          subst hb
          by_cases hx : x = k
          · subst hx; rw [if_pos rfl]; exact Memory.read_below w.2 (by omega)
          · rw [if_neg hx]; simp only [Memory.read]; rw [if_neg (fun e => hx e.symm)]
            by_cases hl : x < k
            · rw [if_pos hl]; exact Memory.read_below w.2 (by omega)
            · rw [if_neg hl]
        next hb =>
          simp only [Memory.read]
          by_cases hx : x = k
          · subst hx; simp
          · simp [hx, Ne.symm hx]
      next he =>
        simp only [Memory.read]
        rw [ih w.2]
        by_cases hx : x = a
        · subst hx; rw [if_neg (by omega), if_neg (by omega), if_pos rfl]; simp
        · simp only [if_neg hx]

/-- Read after write: the byte written, and every other address as before. -/
theorem Memory.read_write {m : Memory} (a x : Nat) (b : Byte) (w : m.wf = true) :
    (m.write a b).read x = if x = a then b else m.read x := Memory.read_write_from a x b w

/-- A write of a run of bytes leaves the bytes outside it. -/
theorem Memory.read_writes_ne {m : Memory} (a x : Nat) (l : List Byte) (w : m.wf = true) (h : x < a ∨ a + l.length ≤ x) :
    (m.writes a l).read x = m.read x := by
  induction l generalizing m a with
  | nil => rfl
  | cons b r ih =>
    simp only [Memory.writes, List.length_cons] at h ⊢
    rw [ih _ (Memory.write_wf a b w) (by omega), Memory.read_write a x b w, if_neg (by omega)]

/-- A run of bytes written reads back. -/
theorem Memory.read_writes {m : Memory} (a i : Nat) (l : List Byte) (w : m.wf = true) (h : i < l.length) :
    (m.writes a l).read (a + i) = l[i] := by
  induction l generalizing m a i with
  | nil => simp at h
  | cons b r ih =>
    simp only [Memory.writes]
    cases i with
    | zero =>
      rw [Memory.read_writes_ne _ _ _ (Memory.write_wf a b w) (by omega), Memory.read_write a _ b w]; simp
    | succ j =>
      have := ih (m := m.write a b) (a + 1) j (Memory.write_wf a b w) (by simpa using h)
      rw [Nat.add_right_comm] at this
      simpa [Nat.add_assoc] using this

/-! ## The package's memories -/

/-- Reset's memories are canonical. -/
theorem State.reset_memoryWf : State.reset.memoryWf := ⟨rfl, rfl⟩

/-- A line going back to its frame keeps the package's memories canonical. -/
theorem State.toBacking_memoryWf {s : State} (key : Nat) (l : Line) (w : s.memoryWf) : (s.toBacking key l).memoryWf := by
  obtain ⟨hl, hh⟩ := w
  simp only [State.toBacking, State.memoryWf]
  generalize bytesOf l.data 0 128 = bs
  generalize key / 3 * 128 = a
  have h1 := Memory.writes_wf a bs hl
  have h2 := Memory.writes_wf a bs hh
  repeat' split
  all_goals first | exact ⟨hl, hh⟩ | exact ⟨h1, hh⟩ | exact ⟨hl, h2⟩

theorem State.writeBack_memoryWf {s : State} (key : Nat) (w : s.memoryWf) : (s.writeBack key).memoryWf := by
  unfold State.writeBack
  split
  · split
    · exact w
    · exact State.toBacking_memoryWf key _ w
  · exact w

theorem State.evictMaster_memoryWf {s : State} (key : Nat) (w : s.memoryWf) : (s.evictMaster key).memoryWf := by
  unfold State.evictMaster
  split
  · split
    · exact w
    · exact State.toBacking_memoryWf key _ w
  · exact w

/-- Making room in a full die cache keeps the package's memories canonical. -/
theorem State.evictFor_memoryWf {s : State} (d : DieId) (w : s.memoryWf) : (s.evictFor d).memoryWf := by
  unfold State.evictFor
  split
  · exact w
  · dsimp only
    split
    · exact State.evictMaster_memoryWf _ w
    · exact w

/-- A line that enters a die cache keeps the package's memories canonical, whether it finds room or goes to its frame. -/
theorem State.enter_memoryWf {s : State} (key : Nat) (l : Line) (w : s.memoryWf) : (s.enter key l).memoryWf := by
  have room := State.evictFor_memoryWf l.home w
  unfold State.enter
  split
  · exact w
  · dsimp only
    split
    · exact State.toBacking_memoryWf key l room
    · exact room

/-- A write at a line's home keeps the package's memories canonical. -/
theorem State.masterWrite_memoryWf {s : State} (key off : Nat) (home : DieId) (data : List Byte) (poison : Bool) (w : s.memoryWf) :
    (s.masterWrite key off home data poison).memoryWf := State.enter_memoryWf key _ w

/-- Clearing the frame pools' LATECNT keeps the canonical form. -/
theorem Memory.clearLatecnt_wf {m : Memory} (w : m.wf = true) : m.clearLatecnt.wf = true := by
  have h : ∀ (l : List Nat) {m : Memory}, m.wf = true → (l.foldl (fun m d => m.writes (d * 2 ^ 37 + 40) (leBytes 8 0)) m).wf = true := by
    intro l
    induction l with
    | nil => exact fun w => w
    | cons d r ih => exact fun w => ih (Memory.writes_wf _ _ w)
  unfold Memory.clearLatecnt
  exact h _ w

/-- A package reset keeps the canonical form of its memories. -/
theorem State.packageReset_memoryWf {s : State} (trip : Bool) (w : s.memoryWf) : (s.packageReset trip).memoryWf := by
  have h := Memory.clearLatecnt_wf w.1
  simp only [State.memoryWf, State.packageReset]
  exact ⟨h, w.2⟩

/-! ## Tables -/

/-- An entry just written is read back. -/
theorem Map.get?_put_same {α : Type} (m : Map α) (n : Nat) (a : α) : (Map.put m n a).get? n = some a := by
  induction m with
  | nil => simp [Map.put, Map.get?]
  | cons c r ih =>
    obtain ⟨k, v⟩ := c
    simp only [Map.put]
    split
    · simp [Map.get?]
    · split
      · simp [Map.get?]
      next h1 h2 => simp only [Map.get?]; rw [if_neg h2, if_neg h1, ih]

end Sys2Proof.Machine
end

