-- ==== Sys2Proof/Laws/PerInstr.lean ====
section
/-! SUPPORT. Per instruction: exactly the words of the opcode map have an encoding and a header; the encoding carries that header; and a step of
the machine, which has no word, is well formed for no stream. -/

namespace Sys2Proof.Laws
open Sys2Proof Sys2Proof.Machine

/-- The header of a packed word is the header it was packed from (R75). -/
theorem hdrOf_packWord (h : Hdr) (op : BitVec 9) (body : BitVec 36) : hdrOf (packWord h op body) = h := by
  obtain ⟨idle, sw, tkp, tks⟩ := h
  simp only [hdrOf, packWord, fld, flg, Hdr.mk.injEq]
  refine ⟨?_, ?_, ?_, ?_⟩
  · apply BitVec.eq_of_getLsbD_eq; intro i hi
    simp only [BitVec.getLsbD_extractLsb', BitVec.getLsbD_append, hi, decide_true, Bool.true_and]
    rw [if_neg (by omega), if_neg (by omega), if_neg (by omega), if_neg (by omega), if_neg (by omega)]
    congr 1; omega
  · rw [BitVec.getLsbD_append, if_neg (by omega), BitVec.getLsbD_append, if_neg (by omega), BitVec.getLsbD_append, if_neg (by omega),
      BitVec.getLsbD_append, if_neg (by omega), BitVec.getLsbD_append, if_pos (by omega)]
    simp
  · apply BitVec.eq_of_getLsbD_eq; intro i hi
    simp only [BitVec.getLsbD_extractLsb', BitVec.getLsbD_append, hi, decide_true, Bool.true_and]
    rw [if_neg (by omega), if_neg (by omega), if_neg (by omega), if_pos (by omega)]
    congr 1; omega
  · apply BitVec.eq_of_getLsbD_eq; intro i hi
    simp only [BitVec.getLsbD_extractLsb', BitVec.getLsbD_append, hi, decide_true, Bool.true_and]
    rw [if_neg (by omega), if_neg (by omega), if_pos (by omega)]
    congr 1; omega

namespace CarriesHeader

/-- What is said of every instruction. -/
def Statement (i : Instr) : Prop :=
  (encode i).isSome = (hdr? i).isSome ∧ (∀ w h, encode i = some w → hdr? i = some h → hdrOf w = h) ∧ (∀ e, i.wf e = true → (encode i).isSome = true)

/-- A word: its encoding is packed from its header. -/
theorem word {i : Instr} {h : Hdr} {op : BitVec 9} {body : BitVec 36} (he : encode i = some (packWord h op body)) (hh : hdr? i = some h) :
    Statement i := by
  refine ⟨by rw [he, hh]; rfl, fun w k ew ek => ?_, fun _ _ => by rw [he]; rfl⟩
  rw [he] at ew; rw [hh] at ek
  cases ew; cases ek
  exact hdrOf_packWord h op body

/-- A step of the machine: no encoding, no header. -/
theorem event {i : Instr} (he : encode i = none) (hh : hdr? i = none) (hw : ∀ e, i.wf e = false) : Statement i :=
  ⟨by rw [he, hh]; rfl, (fun w _ ew _ => by rw [he] at ew; cases ew), (fun e h => by rw [hw e] at h; cases h)⟩

theorem nop (h : Hdr) : Statement (.nop h) := word rfl rfl
theorem prep (h : Hdr) (b : BitVec 2) (off24 : BitVec 24) : Statement (.prep h b off24) := word rfl rfl
theorem prepr (h : Hdr) (b : BitVec 2) (s : BitVec 5) : Statement (.prepr h b s) := word rfl rfl
theorem br (h : Hdr) (g : Guard) (b : BitVec 2) : Statement (.br h g b) := word rfl rfl
theorem brl (h : Hdr) (g : Guard) (b : BitVec 2) : Statement (.brl h g b) := word rfl rfl
theorem loop (h : Hdr) (l : BitVec 2) (s : BitVec 5) (end16 : BitVec 16) : Statement (.loop h l s end16) := word rfl rfl
theorem loopi (h : Hdr) (l : BitVec 2) (cnt18 : BitVec 18) (end16 : BitVec 16) : Statement (.loopi h l cnt18 end16) := word rfl rfl
theorem lbrk (h : Hdr) (g : Guard) (l : BitVec 2) : Statement (.lbrk h g l) := word rfl rfl
theorem endw (h : Hdr) : Statement (.endw h) := word rfl rfl
theorem hold (h : Hdr) (g : Guard) (cyc24 : BitVec 24) : Statement (.hold h g cyc24) := word rfl rfl
theorem trap (h : Hdr) (g : Guard) (code16 : BitVec 16) (n : BitVec 3) : Statement (.trap h g code16 n) := word rfl rfl
theorem mark (h : Hdr) (g : Guard) (tag16 : BitVec 16) : Statement (.mark h g tag16) := word rfl rfl
theorem tksend (h : Hdr) (eng : BitVec 3) (cnt : BitVec 4) : Statement (.tksend h eng cnt) := word rfl rfl
theorem tkwait (h : Hdr) (eng : BitVec 3) (cnt : BitVec 4) : Statement (.tkwait h eng cnt) := word rfl rfl
theorem qpop (h : Hdr) (g : Guard) (d : BitVec 5) (q : BitVec 4) (size : BitVec 3) : Statement (.qpop h g d q size) := word rfl rfl
theorem qpush (h : Hdr) (g : Guard) (s : BitVec 5) (q : BitVec 4) (size : BitVec 3) : Statement (.qpush h g s q size) := word rfl rfl
theorem waitv (h : Hdr) (kind : BitVec 4) (index : BitVec 12) (cond : BitVec 2) (mode : Bool) (arg : BitVec 17) : Statement (.waitv h kind index cond mode arg) := word rfl rfl
theorem tsread (h : Hdr) (g : Guard) (d : BitVec 5) : Statement (.tsread h g d) := word rfl rfl
theorem csrr (h : Hdr) (g : Guard) (d : BitVec 5) (csrn : BitVec 12) : Statement (.csrr h g d csrn) := word rfl rfl
theorem csrw (h : Hdr) (g : Guard) (s : BitVec 5) (csrn : BitVec 12) : Statement (.csrw h g s csrn) := word rfl rfl
theorem csrx (h : Hdr) (g : Guard) (d : BitVec 5) (s : BitVec 5) (csrn : BitVec 12) : Statement (.csrx h g d s csrn) := word rfl rfl
theorem add (h : Hdr) (g : Guard) (d : BitVec 5) (s1 : BitVec 5) (s2 : BitVec 5) : Statement (.add h g d s1 s2) := word rfl rfl
theorem sub (h : Hdr) (g : Guard) (d : BitVec 5) (s1 : BitVec 5) (s2 : BitVec 5) : Statement (.sub h g d s1 s2) := word rfl rfl
theorem mul (h : Hdr) (g : Guard) (d : BitVec 5) (s1 : BitVec 5) (s2 : BitVec 5) : Statement (.mul h g d s1 s2) := word rfl rfl
theorem mulh (h : Hdr) (g : Guard) (d : BitVec 5) (s1 : BitVec 5) (s2 : BitVec 5) : Statement (.mulh h g d s1 s2) := word rfl rfl
theorem mulhu (h : Hdr) (g : Guard) (d : BitVec 5) (s1 : BitVec 5) (s2 : BitVec 5) : Statement (.mulhu h g d s1 s2) := word rfl rfl
theorem div (h : Hdr) (g : Guard) (d : BitVec 5) (s1 : BitVec 5) (s2 : BitVec 5) : Statement (.div h g d s1 s2) := word rfl rfl
theorem divu (h : Hdr) (g : Guard) (d : BitVec 5) (s1 : BitVec 5) (s2 : BitVec 5) : Statement (.divu h g d s1 s2) := word rfl rfl
theorem rem (h : Hdr) (g : Guard) (d : BitVec 5) (s1 : BitVec 5) (s2 : BitVec 5) : Statement (.rem h g d s1 s2) := word rfl rfl
theorem remu (h : Hdr) (g : Guard) (d : BitVec 5) (s1 : BitVec 5) (s2 : BitVec 5) : Statement (.remu h g d s1 s2) := word rfl rfl
theorem and (h : Hdr) (g : Guard) (d : BitVec 5) (s1 : BitVec 5) (s2 : BitVec 5) : Statement (.and h g d s1 s2) := word rfl rfl
theorem or (h : Hdr) (g : Guard) (d : BitVec 5) (s1 : BitVec 5) (s2 : BitVec 5) : Statement (.or h g d s1 s2) := word rfl rfl
theorem xor (h : Hdr) (g : Guard) (d : BitVec 5) (s1 : BitVec 5) (s2 : BitVec 5) : Statement (.xor h g d s1 s2) := word rfl rfl
theorem shl (h : Hdr) (g : Guard) (d : BitVec 5) (s1 : BitVec 5) (s2 : BitVec 5) : Statement (.shl h g d s1 s2) := word rfl rfl
theorem shr (h : Hdr) (g : Guard) (d : BitVec 5) (s1 : BitVec 5) (s2 : BitVec 5) : Statement (.shr h g d s1 s2) := word rfl rfl
theorem sar (h : Hdr) (g : Guard) (d : BitVec 5) (s1 : BitVec 5) (s2 : BitVec 5) : Statement (.sar h g d s1 s2) := word rfl rfl
theorem min (h : Hdr) (g : Guard) (d : BitVec 5) (s1 : BitVec 5) (s2 : BitVec 5) : Statement (.min h g d s1 s2) := word rfl rfl
theorem minu (h : Hdr) (g : Guard) (d : BitVec 5) (s1 : BitVec 5) (s2 : BitVec 5) : Statement (.minu h g d s1 s2) := word rfl rfl
theorem max (h : Hdr) (g : Guard) (d : BitVec 5) (s1 : BitVec 5) (s2 : BitVec 5) : Statement (.max h g d s1 s2) := word rfl rfl
theorem maxu (h : Hdr) (g : Guard) (d : BitVec 5) (s1 : BitVec 5) (s2 : BitVec 5) : Statement (.maxu h g d s1 s2) := word rfl rfl
theorem sel (h : Hdr) (g : Guard) (d : BitVec 5) (s1 : BitVec 5) (s2 : BitVec 5) (sp : BitVec 3) : Statement (.sel h g d s1 s2 sp) := word rfl rfl
theorem clz (h : Hdr) (g : Guard) (d : BitVec 5) (s1 : BitVec 5) : Statement (.clz h g d s1) := word rfl rfl
theorem ctz (h : Hdr) (g : Guard) (d : BitVec 5) (s1 : BitVec 5) : Statement (.ctz h g d s1) := word rfl rfl
theorem popc (h : Hdr) (g : Guard) (d : BitVec 5) (s1 : BitVec 5) : Statement (.popc h g d s1) := word rfl rfl
theorem addi (h : Hdr) (g : Guard) (d : BitVec 5) (s1 : BitVec 5) (imm22 : BitVec 22) : Statement (.addi h g d s1 imm22) := word rfl rfl
theorem andi (h : Hdr) (g : Guard) (d : BitVec 5) (s1 : BitVec 5) (imm22 : BitVec 22) : Statement (.andi h g d s1 imm22) := word rfl rfl
theorem ori (h : Hdr) (g : Guard) (d : BitVec 5) (s1 : BitVec 5) (imm22 : BitVec 22) : Statement (.ori h g d s1 imm22) := word rfl rfl
theorem xori (h : Hdr) (g : Guard) (d : BitVec 5) (s1 : BitVec 5) (imm22 : BitVec 22) : Statement (.xori h g d s1 imm22) := word rfl rfl
theorem shli (h : Hdr) (g : Guard) (d : BitVec 5) (s1 : BitVec 5) (sh : BitVec 6) : Statement (.shli h g d s1 sh) := word rfl rfl
theorem shri (h : Hdr) (g : Guard) (d : BitVec 5) (s1 : BitVec 5) (sh : BitVec 6) : Statement (.shri h g d s1 sh) := word rfl rfl
theorem sari (h : Hdr) (g : Guard) (d : BitVec 5) (s1 : BitVec 5) (sh : BitVec 6) : Statement (.sari h g d s1 sh) := word rfl rfl
theorem muli (h : Hdr) (g : Guard) (d : BitVec 5) (s1 : BitVec 5) (imm22 : BitVec 22) : Statement (.muli h g d s1 imm22) := word rfl rfl
theorem movi (h : Hdr) (d : BitVec 5) (imm31 : BitVec 31) : Statement (.movi h d imm31) := word rfl rfl
theorem movhi (h : Hdr) (d : BitVec 5) (imm31 : BitVec 31) : Statement (.movhi h d imm31) := word rfl rfl
theorem ceq (h : Hdr) (g : Guard) (pd : BitVec 3) (s1 : BitVec 5) (s2 : BitVec 5) : Statement (.ceq h g pd s1 s2) := word rfl rfl
theorem cne (h : Hdr) (g : Guard) (pd : BitVec 3) (s1 : BitVec 5) (s2 : BitVec 5) : Statement (.cne h g pd s1 s2) := word rfl rfl
theorem clt (h : Hdr) (g : Guard) (pd : BitVec 3) (s1 : BitVec 5) (s2 : BitVec 5) : Statement (.clt h g pd s1 s2) := word rfl rfl
theorem cltu (h : Hdr) (g : Guard) (pd : BitVec 3) (s1 : BitVec 5) (s2 : BitVec 5) : Statement (.cltu h g pd s1 s2) := word rfl rfl
theorem cle (h : Hdr) (g : Guard) (pd : BitVec 3) (s1 : BitVec 5) (s2 : BitVec 5) : Statement (.cle h g pd s1 s2) := word rfl rfl
theorem cleu (h : Hdr) (g : Guard) (pd : BitVec 3) (s1 : BitVec 5) (s2 : BitVec 5) : Statement (.cleu h g pd s1 s2) := word rfl rfl
theorem ceqi (h : Hdr) (g : Guard) (pd : BitVec 3) (s1 : BitVec 5) (imm22 : BitVec 22) : Statement (.ceqi h g pd s1 imm22) := word rfl rfl
theorem cnei (h : Hdr) (g : Guard) (pd : BitVec 3) (s1 : BitVec 5) (imm22 : BitVec 22) : Statement (.cnei h g pd s1 imm22) := word rfl rfl
theorem clti (h : Hdr) (g : Guard) (pd : BitVec 3) (s1 : BitVec 5) (imm22 : BitVec 22) : Statement (.clti h g pd s1 imm22) := word rfl rfl
theorem cgei (h : Hdr) (g : Guard) (pd : BitVec 3) (s1 : BitVec 5) (imm22 : BitVec 22) : Statement (.cgei h g pd s1 imm22) := word rfl rfl
theorem pand (h : Hdr) (g : Guard) (pd : BitVec 3) (ps1 : BitVec 3) (ps2 : BitVec 3) : Statement (.pand h g pd ps1 ps2) := word rfl rfl
theorem por (h : Hdr) (g : Guard) (pd : BitVec 3) (ps1 : BitVec 3) (ps2 : BitVec 3) : Statement (.por h g pd ps1 ps2) := word rfl rfl
theorem pxor (h : Hdr) (g : Guard) (pd : BitVec 3) (ps1 : BitVec 3) (ps2 : BitVec 3) : Statement (.pxor h g pd ps1 ps2) := word rfl rfl
theorem pandn (h : Hdr) (g : Guard) (pd : BitVec 3) (ps1 : BitVec 3) (ps2 : BitVec 3) : Statement (.pandn h g pd ps1 ps2) := word rfl rfl
theorem pset (h : Hdr) (g : Guard) (pd : BitVec 3) (s1 : BitVec 5) : Statement (.pset h g pd s1) := word rfl rfl
theorem pget (h : Hdr) (g : Guard) (d : BitVec 5) (ps1 : BitVec 3) : Statement (.pget h g d ps1) := word rfl rfl
theorem fadd (h : Hdr) (g : Guard) (d : BitVec 5) (s1 : BitVec 5) (s2 : BitVec 5) (fmt2 : BitVec 2) : Statement (.fadd h g d s1 s2 fmt2) := word rfl rfl
theorem fsub (h : Hdr) (g : Guard) (d : BitVec 5) (s1 : BitVec 5) (s2 : BitVec 5) (fmt2 : BitVec 2) : Statement (.fsub h g d s1 s2 fmt2) := word rfl rfl
theorem fmul (h : Hdr) (g : Guard) (d : BitVec 5) (s1 : BitVec 5) (s2 : BitVec 5) (fmt2 : BitVec 2) : Statement (.fmul h g d s1 s2 fmt2) := word rfl rfl
theorem ffma (h : Hdr) (g : Guard) (d : BitVec 5) (s1 : BitVec 5) (s2 : BitVec 5) (fmt2 : BitVec 2) (s3 : BitVec 5) : Statement (.ffma h g d s1 s2 fmt2 s3) := word rfl rfl
theorem fmin (h : Hdr) (g : Guard) (d : BitVec 5) (s1 : BitVec 5) (s2 : BitVec 5) (fmt2 : BitVec 2) : Statement (.fmin h g d s1 s2 fmt2) := word rfl rfl
theorem fmax (h : Hdr) (g : Guard) (d : BitVec 5) (s1 : BitVec 5) (s2 : BitVec 5) (fmt2 : BitVec 2) : Statement (.fmax h g d s1 s2 fmt2) := word rfl rfl
theorem fcvt (h : Hdr) (g : Guard) (d : BitVec 5) (s1 : BitVec 5) (from5 : BitVec 5) (to5 : BitVec 5) (rnd : BitVec 3) (sat : Bool) (fin : Bool) : Statement (.fcvt h g d s1 from5 to5 rnd sat fin) := word rfl rfl
theorem fceq (h : Hdr) (g : Guard) (pd : BitVec 3) (s1 : BitVec 5) (s2 : BitVec 5) (fmt2 : BitVec 2) : Statement (.fceq h g pd s1 s2 fmt2) := word rfl rfl
theorem fclt (h : Hdr) (g : Guard) (pd : BitVec 3) (s1 : BitVec 5) (s2 : BitVec 5) (fmt2 : BitVec 2) : Statement (.fclt h g pd s1 s2 fmt2) := word rfl rfl
theorem fcle (h : Hdr) (g : Guard) (pd : BitVec 3) (s1 : BitVec 5) (s2 : BitVec 5) (fmt2 : BitVec 2) : Statement (.fcle h g pd s1 s2 fmt2) := word rfl rfl
theorem ldq (h : Hdr) (g : Guard) (q : BitVec 4) (base : BitVec 5) (len : BitVec 5) (off18 : BitVec 18) : Statement (.ldq h g q base len off18) := word rfl rfl
theorem ldsq (h : Hdr) (g : Guard) (q : BitVec 4) (base : BitVec 5) (shape : BitVec 5) (stride : BitVec 5) : Statement (.ldsq h g q base shape stride) := word rfl rfl
theorem stq (h : Hdr) (g : Guard) (q : BitVec 4) (base : BitVec 5) (len : BitVec 5) (off18 : BitVec 18) : Statement (.stq h g q base len off18) := word rfl rfl
theorem stsq (h : Hdr) (g : Guard) (q : BitVec 4) (base : BitVec 5) (shape : BitVec 5) (stride : BitVec 5) : Statement (.stsq h g q base shape stride) := word rfl rfl
theorem ldx (h : Hdr) (g : Guard) (d : BitVec 5) (base : BitVec 5) (size : BitVec 2) (sx : Bool) (off19 : BitVec 19) : Statement (.ldx h g d base size sx off19) := word rfl rfl
theorem stx (h : Hdr) (g : Guard) (s : BitVec 5) (base : BitVec 5) (size : BitVec 2) (off19 : BitVec 19) : Statement (.stx h g s base size off19) := word rfl rfl
theorem gather (h : Hdr) (g : Guard) (dq : BitVec 4) (iq : BitVec 4) (tensor : BitVec 6) (cnt : BitVec 5) (isz : BitVec 2) : Statement (.gather h g dq iq tensor cnt isz) := word rfl rfl
theorem scatter (h : Hdr) (g : Guard) (dq : BitVec 4) (iq : BitVec 4) (tensor : BitVec 6) (cnt : BitVec 5) (isz : BitVec 2) : Statement (.scatter h g dq iq tensor cnt isz) := word rfl rfl
theorem scadd (h : Hdr) (g : Guard) (dq : BitVec 4) (iq : BitVec 4) (tensor : BitVec 6) (cnt : BitVec 5) (isz : BitVec 2) : Statement (.scadd h g dq iq tensor cnt isz) := word rfl rfl
theorem aadd (h : Hdr) (g : Guard) (d : BitVec 5) (base : BitVec 5) (s : BitVec 5) (size : BitVec 2) (scope : BitVec 3) (off12 : BitVec 12) : Statement (.aadd h g d base s size scope off12) := word rfl rfl
theorem amin (h : Hdr) (g : Guard) (d : BitVec 5) (base : BitVec 5) (s : BitVec 5) (size : BitVec 2) (scope : BitVec 3) (off12 : BitVec 12) : Statement (.amin h g d base s size scope off12) := word rfl rfl
theorem amax (h : Hdr) (g : Guard) (d : BitVec 5) (base : BitVec 5) (s : BitVec 5) (size : BitVec 2) (scope : BitVec 3) (off12 : BitVec 12) : Statement (.amax h g d base s size scope off12) := word rfl rfl
theorem aand (h : Hdr) (g : Guard) (d : BitVec 5) (base : BitVec 5) (s : BitVec 5) (size : BitVec 2) (scope : BitVec 3) (off12 : BitVec 12) : Statement (.aand h g d base s size scope off12) := word rfl rfl
theorem aor (h : Hdr) (g : Guard) (d : BitVec 5) (base : BitVec 5) (s : BitVec 5) (size : BitVec 2) (scope : BitVec 3) (off12 : BitVec 12) : Statement (.aor h g d base s size scope off12) := word rfl rfl
theorem axor (h : Hdr) (g : Guard) (d : BitVec 5) (base : BitVec 5) (s : BitVec 5) (size : BitVec 2) (scope : BitVec 3) (off12 : BitVec 12) : Statement (.axor h g d base s size scope off12) := word rfl rfl
theorem axchg (h : Hdr) (g : Guard) (d : BitVec 5) (base : BitVec 5) (s : BitVec 5) (size : BitVec 2) (scope : BitVec 3) (off12 : BitVec 12) : Statement (.axchg h g d base s size scope off12) := word rfl rfl
theorem acas (h : Hdr) (g : Guard) (d : BitVec 5) (base : BitVec 5) (s : BitVec 5) (size : BitVec 2) (scope : BitVec 3) (off12 : BitVec 12) : Statement (.acas h g d base s size scope off12) := word rfl rfl
theorem afadd (h : Hdr) (g : Guard) (d : BitVec 5) (base : BitVec 5) (s : BitVec 5) (size : BitVec 2) (scope : BitVec 3) (off12 : BitVec 12) : Statement (.afadd h g d base s size scope off12) := word rfl rfl
theorem rprobe (h : Hdr) (g : Guard) (d : BitVec 5) (base : BitVec 5) (len : BitVec 5) (kind : BitVec 2) : Statement (.rprobe h g d base len kind) := word rfl rfl
theorem lock (h : Hdr) (g : Guard) (d : BitVec 5) (base : BitVec 5) (len : BitVec 5) : Statement (.lock h g d base len) := word rfl rfl
theorem unlock (h : Hdr) (g : Guard) (d : BitVec 5) (base : BitVec 5) (len : BitVec 5) : Statement (.unlock h g d base len) := word rfl rfl
theorem rwb (h : Hdr) (g : Guard) (base : BitVec 5) (len : BitVec 5) (scope : BitVec 3) (level : BitVec 2) : Statement (.rwb h g base len scope level) := word rfl rfl
theorem rinv (h : Hdr) (g : Guard) (base : BitVec 5) (len : BitVec 5) (scope : BitVec 3) (level : BitVec 2) : Statement (.rinv h g base len scope level) := word rfl rfl
theorem ubdisc (h : Hdr) (g : Guard) (base : BitVec 5) (len : BitVec 5) (scope : BitVec 3) (level : BitVec 2) : Statement (.ubdisc h g base len scope level) := word rfl rfl
theorem pref (h : Hdr) (g : Guard) (base : BitVec 5) (len : BitVec 5) (scope : BitVec 3) (level : BitVec 2) : Statement (.pref h g base len scope level) := word rfl rfl
theorem msend (h : Hdr) (g : Guard) (q : BitVec 4) (tgt : BitVec 5) (bytes : BitVec 5) : Statement (.msend h g q tgt bytes) := word rfl rfl
theorem acq (h : Hdr) (scope : BitVec 3) : Statement (.acq h scope) := word rfl rfl
theorem rel (h : Hdr) (scope : BitVec 3) : Statement (.rel h scope) := word rfl rfl
theorem phase (h : Hdr) (scope : BitVec 3) : Statement (.phase h scope) := word rfl rfl
theorem tdef (h : Hdr) (g : Guard) (tensor : BitVec 6) (s : BitVec 5) : Statement (.tdef h g tensor s) := word rfl rfl
theorem xcopy (h : Hdr) (g : Guard) (k : BitVec 2) (st : BitVec 6) (dt : BitVec 6) (xs : BitVec 4) (sorg : BitVec 5) (dorg : BitVec 5) : Statement (.xcopy h g k st dt xs sorg dorg) := word rfl rfl
theorem xset (h : Hdr) (g : Guard) (xs : BitVec 4) (s : BitVec 5) : Statement (.xset h g xs s) := word rfl rfl
theorem xchain (h : Hdr) (g : Guard) (k : BitVec 2) (head : BitVec 5) : Statement (.xchain h g k head) := word rfl rfl
theorem xstat (h : Hdr) (g : Guard) (d : BitVec 5) (k : BitVec 2) : Statement (.xstat h g d k) := word rfl rfl
theorem xcancel (h : Hdr) (g : Guard) (k : BitVec 2) : Statement (.xcancel h g k) := word rfl rfl
theorem xfill (h : Hdr) (g : Guard) (dt : BitVec 6) (val : BitVec 5) (org : BitVec 5) : Statement (.xfill h g dt val org) := word rfl rfl
theorem tqin (h : Hdr) (g : Guard) (tq : BitVec 6) (tensor : BitVec 6) (org : BitVec 5) : Statement (.tqin h g tq tensor org) := word rfl rfl
theorem tqout (h : Hdr) (g : Guard) (tq : BitVec 6) (tensor : BitVec 6) (org : BitVec 5) : Statement (.tqout h g tq tensor org) := word rfl rfl
theorem pgmrow (h : Hdr) (g : Guard) (row : BitVec 5) (tensor : BitVec 6) (off : BitVec 5) (dc : BitVec 5) : Statement (.pgmrow h g row tensor off dc) := word rfl rfl
theorem pgmtile (h : Hdr) (g : Guard) (idx : BitVec 5) (tensor : BitVec 6) (kl : BitVec 5) (dc : BitVec 5) : Statement (.pgmtile h g idx tensor kl dc) := word rfl rfl
theorem pgmstat (h : Hdr) (g : Guard) (d : BitVec 5) (tag : BitVec 5) : Statement (.pgmstat h g d tag) := word rfl rfl
theorem pgmret (h : Hdr) (g : Guard) (prow : BitVec 5) : Statement (.pgmret h g prow) := word rfl rfl
theorem mopen (h : Hdr) (g : Guard) (z : BitVec 2) (zf : Bool) (type5 : BitVec 5) : Statement (.mopen h g z zf type5) := word rfl rfl
theorem mma (h : Hdr) (g : Guard) (z : BitVec 2) (ta : BitVec 6) (tb : BitVec 6) (idx : BitVec 5) (kr : BitVec 5) (ck : Bool) : Statement (.mma h g z ta tb idx kr ck) := word rfl rfl
theorem tstart (h : Hdr) (g : Guard) (z : BitVec 2) (k : BitVec 2) (we : Bool) (thr : BitVec 5) : Statement (.tstart h g z k we thr) := word rfl rfl
theorem tend (h : Hdr) (g : Guard) (z : BitVec 2) : Statement (.tend h g z) := word rfl rfl
theorem mrd (h : Hdr) (g : Guard) (z : BitVec 2) (dt : BitVec 6) (fmt : BitVec 5) (rnd : BitVec 3) (sat : Bool) (fin : Bool) (org : BitVec 5) : Statement (.mrd h g z dt fmt rnd sat fin org) := word rfl rfl
theorem mcvt (h : Hdr) (g : Guard) (z : BitVec 2) (fmt : BitVec 5) (rnd : BitVec 3) (sat : Bool) (fin : Bool) : Statement (.mcvt h g z fmt rnd sat fin) := word rfl rfl
theorem mchk (h : Hdr) (g : Guard) (d : BitVec 5) (pd : BitVec 3) (z : BitVec 2) : Statement (.mchk h g d pd z) := word rfl rfl
theorem seedscan (h : Hdr) (g : Guard) (z : BitVec 2) (tt : BitVec 6) (fs : BitVec 5) (cnt : BitVec 5) (j1 : BitVec 4) (d : BitVec 5) : Statement (.seedscan h g z tt fs cnt j1 d) := word rfl rfl
theorem seedfit (h : Hdr) (g : Guard) (z : BitVec 2) (tt : BitVec 6) (seed : BitVec 5) (j1 : BitVec 4) (rt : BitVec 6) (d : BitVec 5) : Statement (.seedfit h g z tt seed j1 rt d) := word rfl rfl
theorem vadd (h : Hdr) (g : Guard) (vd : BitVec 7) (vs1 : BitVec 7) (vs2 : BitVec 7) (mask : BitVec 3) : Statement (.vadd h g vd vs1 vs2 mask) := word rfl rfl
theorem vsub (h : Hdr) (g : Guard) (vd : BitVec 7) (vs1 : BitVec 7) (vs2 : BitVec 7) (mask : BitVec 3) : Statement (.vsub h g vd vs1 vs2 mask) := word rfl rfl
theorem vmul (h : Hdr) (g : Guard) (vd : BitVec 7) (vs1 : BitVec 7) (vs2 : BitVec 7) (mask : BitVec 3) : Statement (.vmul h g vd vs1 vs2 mask) := word rfl rfl
theorem vfma (h : Hdr) (g : Guard) (vd : BitVec 7) (vs1 : BitVec 7) (vs2 : BitVec 7) (mask : BitVec 3) : Statement (.vfma h g vd vs1 vs2 mask) := word rfl rfl
theorem vmin (h : Hdr) (g : Guard) (vd : BitVec 7) (vs1 : BitVec 7) (vs2 : BitVec 7) (mask : BitVec 3) : Statement (.vmin h g vd vs1 vs2 mask) := word rfl rfl
theorem vmax (h : Hdr) (g : Guard) (vd : BitVec 7) (vs1 : BitVec 7) (vs2 : BitVec 7) (mask : BitVec 3) : Statement (.vmax h g vd vs1 vs2 mask) := word rfl rfl
theorem vabs (h : Hdr) (g : Guard) (vd : BitVec 7) (vs1 : BitVec 7) (mask : BitVec 3) : Statement (.vabs h g vd vs1 mask) := word rfl rfl
theorem vneg (h : Hdr) (g : Guard) (vd : BitVec 7) (vs1 : BitVec 7) (mask : BitVec 3) : Statement (.vneg h g vd vs1 mask) := word rfl rfl
theorem vand (h : Hdr) (g : Guard) (vd : BitVec 7) (vs1 : BitVec 7) (vs2 : BitVec 7) (mask : BitVec 3) : Statement (.vand h g vd vs1 vs2 mask) := word rfl rfl
theorem vor (h : Hdr) (g : Guard) (vd : BitVec 7) (vs1 : BitVec 7) (vs2 : BitVec 7) (mask : BitVec 3) : Statement (.vor h g vd vs1 vs2 mask) := word rfl rfl
theorem vxor (h : Hdr) (g : Guard) (vd : BitVec 7) (vs1 : BitVec 7) (vs2 : BitVec 7) (mask : BitVec 3) : Statement (.vxor h g vd vs1 vs2 mask) := word rfl rfl
theorem vshl (h : Hdr) (g : Guard) (vd : BitVec 7) (vs1 : BitVec 7) (vs2 : BitVec 7) (mask : BitVec 3) : Statement (.vshl h g vd vs1 vs2 mask) := word rfl rfl
theorem vshr (h : Hdr) (g : Guard) (vd : BitVec 7) (vs1 : BitVec 7) (vs2 : BitVec 7) (mask : BitVec 3) : Statement (.vshr h g vd vs1 vs2 mask) := word rfl rfl
theorem vsar (h : Hdr) (g : Guard) (vd : BitVec 7) (vs1 : BitVec 7) (vs2 : BitVec 7) (mask : BitVec 3) : Statement (.vsar h g vd vs1 vs2 mask) := word rfl rfl
theorem vcmp (h : Hdr) (g : Guard) (md : BitVec 3) (vs1 : BitVec 7) (vs2 : BitVec 7) (mask : BitVec 3) (cond : BitVec 3) : Statement (.vcmp h g md vs1 vs2 mask cond) := word rfl rfl
theorem vsel (h : Hdr) (g : Guard) (vd : BitVec 7) (vs1 : BitVec 7) (vs2 : BitVec 7) (mask : BitVec 3) : Statement (.vsel h g vd vs1 vs2 mask) := word rfl rfl
theorem vmov (h : Hdr) (g : Guard) (vd : BitVec 7) (vs1 : BitVec 7) (mask : BitVec 3) : Statement (.vmov h g vd vs1 mask) := word rfl rfl
theorem vbcast (h : Hdr) (g : Guard) (vd : BitVec 7) (val : BitVec 5) (mask : BitVec 3) : Statement (.vbcast h g vd val mask) := word rfl rfl
theorem vcvt (h : Hdr) (g : Guard) (vd : BitVec 7) (vs1 : BitVec 7) (mask : BitVec 3) (rnd : BitVec 3) (sat : Bool) (fin : Bool) : Statement (.vcvt h g vd vs1 mask rnd sat fin) := word rfl rfl
theorem vrnd (h : Hdr) (g : Guard) (vd : BitVec 7) (vs1 : BitVec 7) (mask : BitVec 3) (rnd : BitVec 3) (sat : Bool) (fin : Bool) : Statement (.vrnd h g vd vs1 mask rnd sat fin) := word rfl rfl
theorem vred (h : Hdr) (g : Guard) (vd : BitVec 7) (vs1 : BitVec 7) (vs2 : BitVec 7) (mask : BitVec 3) (opr : BitVec 3) (seg : BitVec 5) : Statement (.vred h g vd vs1 vs2 mask opr seg) := word rfl rfl
theorem vscan (h : Hdr) (g : Guard) (vd : BitVec 7) (vs1 : BitVec 7) (vs2 : BitVec 7) (mask : BitVec 3) (opr : BitVec 3) (seg : BitVec 5) : Statement (.vscan h g vd vs1 vs2 mask opr seg) := word rfl rfl
theorem vperm (h : Hdr) (g : Guard) (vd : BitVec 7) (vs1 : BitVec 7) (vs2 : BitVec 7) (mask : BitVec 3) : Statement (.vperm h g vd vs1 vs2 mask) := word rfl rfl
theorem vrot (h : Hdr) (g : Guard) (vd : BitVec 7) (vs1 : BitVec 7) (amt : BitVec 5) (mask : BitVec 3) : Statement (.vrot h g vd vs1 amt mask) := word rfl rfl
theorem vexp2 (h : Hdr) (g : Guard) (vd : BitVec 7) (vs1 : BitVec 7) (mask : BitVec 3) : Statement (.vexp2 h g vd vs1 mask) := word rfl rfl
theorem vlog2 (h : Hdr) (g : Guard) (vd : BitVec 7) (vs1 : BitVec 7) (mask : BitVec 3) : Statement (.vlog2 h g vd vs1 mask) := word rfl rfl
theorem vrcp (h : Hdr) (g : Guard) (vd : BitVec 7) (vs1 : BitVec 7) (mask : BitVec 3) : Statement (.vrcp h g vd vs1 mask) := word rfl rfl
theorem vrsq (h : Hdr) (g : Guard) (vd : BitVec 7) (vs1 : BitVec 7) (mask : BitVec 3) : Statement (.vrsq h g vd vs1 mask) := word rfl rfl
theorem vsqrt (h : Hdr) (g : Guard) (vd : BitVec 7) (vs1 : BitVec 7) (mask : BitVec 3) : Statement (.vsqrt h g vd vs1 mask) := word rfl rfl
theorem vtanh (h : Hdr) (g : Guard) (vd : BitVec 7) (vs1 : BitVec 7) (mask : BitVec 3) : Statement (.vtanh h g vd vs1 mask) := word rfl rfl
theorem vsigm (h : Hdr) (g : Guard) (vd : BitVec 7) (vs1 : BitVec 7) (mask : BitVec 3) : Statement (.vsigm h g vd vs1 mask) := word rfl rfl
theorem verf (h : Hdr) (g : Guard) (vd : BitVec 7) (vs1 : BitVec 7) (mask : BitVec 3) : Statement (.verf h g vd vs1 mask) := word rfl rfl
theorem vsin (h : Hdr) (g : Guard) (vd : BitVec 7) (vs1 : BitVec 7) (mask : BitVec 3) : Statement (.vsin h g vd vs1 mask) := word rfl rfl
theorem vcos (h : Hdr) (g : Guard) (vd : BitVec 7) (vs1 : BitVec 7) (mask : BitVec 3) : Statement (.vcos h g vd vs1 mask) := word rfl rfl
theorem vpop (h : Hdr) (g : Guard) (vd : BitVec 7) (q6 : BitVec 6) : Statement (.vpop h g vd q6) := word rfl rfl
theorem vpush (h : Hdr) (g : Guard) (q6 : BitVec 6) (vs : BitVec 7) : Statement (.vpush h g q6 vs) := word rfl rfl
theorem chain (h : Hdr) (g : Guard) (iq6 : BitVec 6) (oq6 : BitVec 6) (ct : BitVec 3) (cnt : BitVec 5) : Statement (.chain h g iq6 oq6 ct cnt) := word rfl rfl
theorem mand (h : Hdr) (g : Guard) (md : BitVec 3) (ms1 : BitVec 3) (ms2 : BitVec 3) : Statement (.mand h g md ms1 ms2) := word rfl rfl
theorem mor (h : Hdr) (g : Guard) (md : BitVec 3) (ms1 : BitVec 3) (ms2 : BitVec 3) : Statement (.mor h g md ms1 ms2) := word rfl rfl
theorem mnot (h : Hdr) (g : Guard) (md : BitVec 3) (ms1 : BitVec 3) : Statement (.mnot h g md ms1) := word rfl rfl
theorem mseti (h : Hdr) (g : Guard) (md : BitVec 3) (first : BitVec 13) (count : BitVec 13) : Statement (.mseti h g md first count) := word rfl rfl
theorem vget (h : Hdr) (g : Guard) (d : BitVec 5) (vs : BitVec 7) (lane : BitVec 5) : Statement (.vget h g d vs lane) := word rfl rfl
theorem vput (h : Hdr) (g : Guard) (vd : BitVec 7) (val : BitVec 5) (lane : BitVec 5) : Statement (.vput h g vd val lane) := word rfl rfl
theorem vsnap (h : Hdr) (g : Guard) (vd : BitVec 7) (vs : BitVec 7) (d : BitVec 5) : Statement (.vsnap h g vd vs d) := word rfl rfl
theorem cset (h : Hdr) (g : Guard) (ct : BitVec 3) (s : BitVec 5) : Statement (.cset h g ct s) := word rfl rfl
theorem launch (h : Hdr) (g : Guard) (rec : BitVec 5) (lq : BitVec 4) (d : BitVec 5) : Statement (.launch h g rec lq d) := word rfl rfl
theorem depdec (h : Hdr) (g : Guard) (ctr : BitVec 5) (amt : BitVec 5) : Statement (.depdec h g ctr amt) := word rfl rfl
theorem depset (h : Hdr) (g : Guard) (ctr : BitVec 5) (val : BitVec 5) (lrec : BitVec 5) : Statement (.depset h g ctr val lrec) := word rfl rfl
theorem depread (h : Hdr) (g : Guard) (d : BitVec 5) (ctr : BitVec 5) : Statement (.depread h g d ctr) := word rfl rfl
theorem abort (h : Hdr) (g : Guard) (code : BitVec 16) : Statement (.abort h g code) := word rfl rfl
theorem resume (h : Hdr) (g : Guard) (hreg : BitVec 5) : Statement (.resume h g hreg) := word rfl rfl
theorem kill (h : Hdr) (g : Guard) (hreg : BitVec 5) : Statement (.kill h g hreg) := word rfl rfl
theorem suspend (h : Hdr) (g : Guard) (hreg : BitVec 5) : Statement (.suspend h g hreg) := word rfl rfl
theorem tlbinv (h : Hdr) (g : Guard) (cb : BitVec 5) (rng : BitVec 5) (scope : BitVec 3) : Statement (.tlbinv h g cb rng scope) := word rfl rfl
theorem segset (h : Hdr) (g : Guard) (cb : BitVec 5) (s : BitVec 5) : Statement (.segset h g cb s) := word rfl rfl
theorem frame (h : Hdr) (g : Guard) (va : BitVec 5) (fs : BitVec 5) : Statement (.frame h g va fs) := word rfl rfl
theorem migrate (h : Hdr) (g : Guard) (buf : BitVec 5) (die : BitVec 5) : Statement (.migrate h g buf die) := word rfl rfl
theorem sysrd (h : Hdr) (g : Guard) (d : BitVec 5) (addr : BitVec 5) : Statement (.sysrd h g d addr) := word rfl rfl
theorem syswr (h : Hdr) (g : Guard) (val : BitVec 5) (addr : BitVec 5) : Statement (.syswr h g val addr) := word rfl rfl
theorem eret (h : Hdr) : Statement (.eret h) := word rfl rfl
theorem routew (h : Hdr) (g : Guard) (idx : BitVec 5) (s : BitVec 5) : Statement (.routew h g idx s) := word rfl rfl
theorem lockdown (h : Hdr) (g : Guard) (mask16 : BitVec 16) : Statement (.lockdown h g mask16) := word rfl rfl
theorem holdExpire (d : DieId) (c : CoreId) (k : SlotId) (e : Engine) : Statement (.holdExpire d c k e) := event rfl rfl fun _ => rfl
theorem evtheadRead (d : DieId) : Statement (.evtheadRead d) := event rfl rfl fun _ => rfl
theorem indexStep (d : DieId) (c : CoreId) (k : SlotId) : Statement (.indexStep d c k) := event rfl rfl fun _ => rfl
theorem releaseDone (w : Who) (id : Nat) : Statement (.releaseDone w id) := event rfl rfl fun _ => rfl
theorem channelAccept (d : DieId) (c : CoreId) (k : SlotId) : Statement (.channelAccept d c k) := event rfl rfl fun _ => rfl
theorem channelGranule (d : DieId) (c : CoreId) (k : SlotId) (ch : Fin 4) (got : List Byte) : Statement (.channelGranule d c k ch got) := event rfl rfl fun _ => rfl
theorem recordRun (d : DieId) (c : CoreId) (k : SlotId) (ch : Fin 4) (got : List Byte) : Statement (.recordRun d c k ch got) := event rfl rfl fun _ => rfl
theorem recordDone (d : DieId) (c : CoreId) (k : SlotId) (ch : Fin 4) : Statement (.recordDone d c k ch) := event rfl rfl fun _ => rfl
theorem tqWaitEnd (d : DieId) (c : CoreId) (k : SlotId) : Statement (.tqWaitEnd d c k) := event rfl rfl fun _ => rfl
theorem pgmAccept (d : DieId) (c : CoreId) (k : SlotId) : Statement (.pgmAccept d c k) := event rfl rfl fun _ => rfl
theorem pgmRequestStart (d : DieId) (col : CoreId) : Statement (.pgmRequestStart d col) := event rfl rfl fun _ => rfl
theorem pgmIteration (d : DieId) (col : CoreId) (ok : Bool) : Statement (.pgmIteration d col ok) := event rfl rfl fun _ => rfl
theorem govWindow (d : DieId) (g : GroveId) : Statement (.govWindow d g) := event rfl rfl fun _ => rfl
theorem pgmRate (d : DieId) (col : CoreId) : Statement (.pgmRate d col) := event rfl rfl fun _ => rfl
theorem mmaStart (d : DieId) (c : CoreId) : Statement (.mmaStart d c) := event rfl rfl fun _ => rfl
theorem mmaKstep (d : DieId) (c : CoreId) : Statement (.mmaKstep d c) := event rfl rfl fun _ => rfl
theorem tendCheck (d : DieId) (c : CoreId) (k : SlotId) : Statement (.tendCheck d c k) := event rfl rfl fun _ => rfl
theorem chainRow (d : DieId) (c : CoreId) (k : SlotId) : Statement (.chainRow d c k) := event rfl rfl fun _ => rfl
theorem counterDecrement (d : DieId) : Statement (.counterDecrement d) := event rfl rfl fun _ => rfl
theorem abortComplete (d : DieId) (r : RecId) : Statement (.abortComplete d r) := event rfl rfl fun _ => rfl
theorem killComplete (d : DieId) (r : RecId) : Statement (.killComplete d r) := event rfl rfl fun _ => rfl
theorem segsetApply (d : DieId) : Statement (.segsetApply d) := event rfl rfl fun _ => rfl
theorem migrateMove (d : DieId) : Statement (.migrateMove d) := event rfl rfl fun _ => rfl
theorem registerWrite (d : DieId) (a : Word) (v : Word) : Statement (.registerWrite d a v) := event rfl rfl fun _ => rfl
theorem tqBindingWrite (d : DieId) (g : GroveId) (q : Fin 16) (v : Word) : Statement (.tqBindingWrite d g q v) := event rfl rfl fun _ => rfl
theorem mqBindingWrite (d : DieId) (c : CoreId) (q : Fin 4) (second : Bool) (v : Word) : Statement (.mqBindingWrite d c q second v) := event rfl rfl fun _ => rfl
theorem monitorClear (d : DieId) (n : Fin 16) : Statement (.monitorClear d n) := event rfl rfl fun _ => rfl
theorem fenceWrite (d : DieId) (v : Word) : Statement (.fenceWrite d v) := event rfl rfl fun _ => rfl
theorem lqTailWrite (d : DieId) (q : Fin 16) (v : BitVec 32) : Statement (.lqTailWrite d q v) := event rfl rfl fun _ => rfl
theorem hostRingPull (d : DieId) (q : Fin 16) : Statement (.hostRingPull d q) := event rfl rfl fun _ => rfl
theorem onZeroEnqueue (d : DieId) : Statement (.onZeroEnqueue d) := event rfl rfl fun _ => rfl
theorem launchCheck (d : DieId) (q : Fin 16) : Statement (.launchCheck d q) := event rfl rfl fun _ => rfl
theorem launchReady (d : DieId) (q : Fin 16) : Statement (.launchReady d q) := event rfl rfl fun _ => rfl
theorem dispatch (d : DieId) : Statement (.dispatch d) := event rfl rfl fun _ => rfl
theorem priorityAge (d : DieId) : Statement (.priorityAge d) := event rfl rfl fun _ => rfl
theorem jobStart (d : DieId) (r : RecId) : Statement (.jobStart d r) := event rfl rfl fun _ => rfl
theorem preempt (d : DieId) : Statement (.preempt d) := event rfl rfl fun _ => rfl
theorem jobSave (d : DieId) (r : RecId) : Statement (.jobSave d r) := event rfl rfl fun _ => rfl
theorem jobRestore (d : DieId) (r : RecId) : Statement (.jobRestore d r) := event rfl rfl fun _ => rfl
theorem jobRetire (d : DieId) (r : RecId) : Statement (.jobRetire d r) := event rfl rfl fun _ => rfl
theorem jobStall (d : DieId) (r : RecId) : Statement (.jobStall d r) := event rfl rfl fun _ => rfl
theorem stopDelivery (d : DieId) (r : RecId) : Statement (.stopDelivery d r) := event rfl rfl fun _ => rfl
theorem eventEnter (d : DieId) : Statement (.eventEnter d) := event rfl rfl fun _ => rfl
theorem systemCoreWake (d : DieId) : Statement (.systemCoreWake d) := event rfl rfl fun _ => rfl
theorem mqCreditRequest (d : DieId) (c : CoreId) (q : Fin 4) : Statement (.mqCreditRequest d c q) := event rfl rfl fun _ => rfl
theorem mqAppend (d : DieId) (c : CoreId) (q : Fin 4) : Statement (.mqAppend d c q) := event rfl rfl fun _ => rfl
theorem mqHeadWrite (d : DieId) (c : CoreId) (q : Fin 4) (head : BitVec 32) : Statement (.mqHeadWrite d c q head) := event rfl rfl fun _ => rfl
theorem msendCredit (d : DieId) (c : CoreId) (k : SlotId) : Statement (.msendCredit d c k) := event rfl rfl fun _ => rfl
theorem monitorSample (d : DieId) (n : Fin 16) (unit : Nat) (x : BitVec 64) : Statement (.monitorSample d n unit x) := event rfl rfl fun _ => rfl
theorem droopAlarm (d : DieId) (g : GroveId) (mv : Nat) : Statement (.droopAlarm d g mv) := event rfl rfl fun _ => rfl
theorem throttleEnd (d : DieId) (g : GroveId) : Statement (.throttleEnd d g) := event rfl rfl fun _ => rfl
theorem powerWindow (d : DieId) (watts : BitVec 12) : Statement (.powerWindow d watts) := event rfl rfl fun _ => rfl
theorem thermalSample (d : DieId) (temps : List Nat) : Statement (.thermalSample d temps) := event rfl rfl fun _ => rfl
theorem rowGroupRefresh (d : DieId) (g : Fin 16384) : Statement (.rowGroupRefresh d g) := event rfl rfl fun _ => rfl
theorem rowgroupSpare (d : DieId) (g : Fin 16384) : Statement (.rowgroupSpare d g) := event rfl rfl fun _ => rfl
theorem laneRepair (b : Fin 4) (m : Fin 80) : Statement (.laneRepair b m) := event rfl rfl fun _ => rfl
theorem dieFence (d : DieId) : Statement (.dieFence d) := event rfl rfl fun _ => rfl
theorem dieLoss (d : DieId) (lost : DieId) : Statement (.dieLoss d lost) := event rfl rfl fun _ => rfl
theorem linkDown (p : Fin 16) (far : BitVec 13) : Statement (.linkDown p far) := event rfl rfl fun _ => rfl
theorem linkUp (p : Fin 16) : Statement (.linkUp p) := event rfl rfl fun _ => rfl
theorem linkFailureNotice (p : Fin 16) (pkg : BitVec 13) (incarn : Option (BitVec 16)) : Statement (.linkFailureNotice p pkg incarn) := event rfl rfl fun _ => rfl
theorem packetIngress (p : Fin 16) (pkt : Packet) : Statement (.packetIngress p pkt) := event rfl rfl fun _ => rfl
theorem auditReplay (d : DieId) (first : BitVec 32) (second : BitVec 32) : Statement (.auditReplay d first second) := event rfl rfl fun _ => rfl
theorem coreSpared (d : DieId) (g : GroveId) (passed : Bool) : Statement (.coreSpared d g passed) := event rfl rfl fun _ => rfl
theorem hostMemAccess (a : Nat) (n : Nat) (data : Option (List Byte)) : Statement (.hostMemAccess a n data) := event rfl rfl fun _ => rfl
theorem hostSnoop (a : Nat) (data : Option (List Byte)) : Statement (.hostSnoop a data) := event rfl rfl fun _ => rfl
theorem hsdataRead : Statement (.hsdataRead) := event rfl rfl fun _ => rfl
theorem hsdataWrite (v : Word) : Statement (.hsdataWrite v) := event rfl rfl fun _ => rfl
theorem getVersion (req : List Byte) : Statement (.getVersion req) := event rfl rfl fun _ => rfl
theorem getCapabilities (req : List Byte) : Statement (.getCapabilities req) := event rfl rfl fun _ => rfl
theorem negotiateAlgorithms (req : List Byte) : Statement (.negotiateAlgorithms req) := event rfl rfl fun _ => rfl
theorem getDigests (req : List Byte) : Statement (.getDigests req) := event rfl rfl fun _ => rfl
theorem getCertificate (req : List Byte) : Statement (.getCertificate req) := event rfl rfl fun _ => rfl
theorem challenge (req : List Byte) : Statement (.challenge req) := event rfl rfl fun _ => rfl
theorem getMeasurements (req : List Byte) : Statement (.getMeasurements req) := event rfl rfl fun _ => rfl
theorem keyExchange (fabric : Bool) (req : List Byte) (chain : List Byte) : Statement (.keyExchange fabric req chain) := event rfl rfl fun _ => rfl
theorem finish (fabric : Bool) (req : List Byte) : Statement (.finish fabric req) := event rfl rfl fun _ => rfl
theorem fabricManagerWrite (table : Fin 4) (i : Nat) (v : Word) : Statement (.fabricManagerWrite table i v) := event rfl rfl fun _ => rfl
theorem measurementExtend (d : DieId) (i : Fin 16) (data : List Byte) : Statement (.measurementExtend d i data) := event rfl rfl fun _ => rfl
theorem packageReset (trip : Bool) : Statement (.packageReset trip) := event rfl rfl fun _ => rfl
theorem firmwareVerify (image : List Byte) (sig : List Byte) (version : Nat) : Statement (.firmwareVerify image sig version) := event rfl rfl fun _ => rfl
theorem recoveryImage (image : List Byte) : Statement (.recoveryImage image) := event rfl rfl fun _ => rfl
theorem powerLoss : Statement (.powerLoss) := event rfl rfl fun _ => rfl
theorem dataReturn (w : Who) (id : Nat) (got : List Byte) : Statement (.dataReturn w id got) := event rfl rfl fun _ => rfl
theorem writeAcknowledgement (w : Who) (id : Nat) : Statement (.writeAcknowledgement w id) := event rfl rfl fun _ => rfl
theorem resultLanding (w : Who) (id : Nat) : Statement (.resultLanding w id) := event rfl rfl fun _ => rfl

end CarriesHeader

end Sys2Proof.Laws
end

