-- ==== Sys2Proof/Laws/Vector.lean ====
section
/-! SUPPORT. What the running of a word of V can do, said once. -/

namespace Sys2Proof.Machine
open Sys2Proof

/-- An operand list that passes the checks of R169 has admitted types only. -/
theorem State.vCheck_ok {u : State} {ops : List VOp} (h : u.vCheck ops = none) : ∀ o ∈ ops, o.ok = true := by
  unfold State.vCheck at h
  split at h
  · cases h
  · split at h
    · cases h
    next hn => simpa using hn

/-- The current job after a change of it: the changed job, where there is one. -/
theorem State.updJb_jb (s : State) (f : Job → Job) : (s.updJb f).jb = f s.jb ∨ (s.updJb f).jb = s.jb := by
  unfold State.jb State.updJb
  cases hw : s.cur with
  | sys d => exact .inr (by simp [State.updJobOf, hw])
  | eng d c k e =>
    simp only [State.updJobOf]
    cases hr : s.slotRec? d c k with
    | none => exact .inr (by simp [hw])
    | some r =>
      simp only [State.updJob_cur, hw, State.jobOf?, State.slotJob?, State.updJob_slotRec?, hr, Option.bind_some, State.updJob_job?]
      cases s.job? d r with
      | none => exact .inr rfl
      | some j => exact .inl rfl

/-- A change of a tile that keeps its type keeps every tile's type. -/
theorem Job.updTile_ty (j : Job) (z y : BitVec 2) (f : Tile → Tile) (h : ∀ t, (f t).ty = t.ty) : ((j.updTile z f).tile y).ty = (j.tile y).ty := by
  unfold Job.tile Job.updTile
  have hy : y.toNat < 4 := y.isLt
  simp only [Vector.getElem?_eq_getElem hy, updAt_getElem _ _ _ _ hy, Option.getD_some]
  split <;> simp [h]

/-- Noting errors of rows changes no tile's type. -/
@[simp] theorem State.noteRows_rowType (u : State) (ops : List VOp) (r : BitVec 7) : (u.noteRows ops).rowType r = u.rowType r := by
  unfold State.noteRows
  induction ops generalizing u with
  | nil => rfl
  | cons o l ih =>
    rw [List.foldl_cons, ih]
    dsimp only
    split
    · unfold State.rowType
      rcases State.updJb_jb u (fun j => j.updTile (rowTile o.r) fun t => { t with win := t.win.map fun v => { v with err := true } }) with h | h <;> rw [h]
      exact Job.updTile_ty _ _ _ _ fun t => rfl
    · rfl

/-- A V word whose checks pass runs its body. -/
theorem vRun_runs {i : Instr} {h : Hdr} {g : Guard} {rowOp : Bool} {ops : State → List VOp} {own : State → Option Stop} {body : Body} {s : State}
    (he : extraPop i = none) (ho : s.opens i h g) (hc : (s.opened h).seedSync.vCheck (ops (s.opened h).seedSync) = none)
    (hn : own (s.opened h).seedSync = none) :
    vRun i h g rowOp ops own body s =
      match (body ((s.opened h).seedSync.noteRows (ops (s.opened h).seedSync))).map fun r => (if rowOp then r.1.holdV else r.1, r.2) with
      | .error st => .next (s.stopIssue st)
      | .ok r => .next (r.1.finish r.2) := by
  unfold vRun
  rw [runGuarded_opens he ho rfl]
  simp only [hc, hn] <;> rfl

/-- A V word that fails a check stops at issue. -/
theorem vRun_stops {i : Instr} {h : Hdr} {g : Guard} {rowOp : Bool} {ops : State → List VOp} {own : State → Option Stop} {body : Body} {s : State}
    {e : Stop} (he : extraPop i = none) (ho : s.opens i h g)
    (hc : (s.opened h).seedSync.vCheck (ops (s.opened h).seedSync) = some e ∨
      ((s.opened h).seedSync.vCheck (ops (s.opened h).seedSync) = none ∧ own (s.opened h).seedSync = some e)) :
    vRun i h g rowOp ops own body s = .next (s.stopIssue e) := by
  unfold vRun
  rw [runGuarded_opens he ho rfl]
  rcases hc with hc | ⟨hc, hn⟩
  · simp only [hc]
  · simp only [hc, hn]

/-- A V word that lands results, in the form the statements use. -/
theorem landsRows_of {i : Instr} {h : Hdr} {g : Guard} {lat : Nat} {rowOp : Bool} {ops : State → List VOp} {own : State → Option Stop}
    {body : Body} {effs : State → List Eff} (he : extraPop i = none) (hx : ∀ s, exec i s = vRun i h g rowOp ops own body s)
    (hb : ∀ u, (∀ o ∈ ops u, o.ok = true) → body (u.noteRows (ops u)) = results h lat (effs (u.noteRows (ops u))) (u.noteRows (ops u))) :
    landsRows i h g lat rowOp ops own effs := by
  intro s ho u hc hn
  rw [hx, vRun_runs he ho hc hn, hb _ (State.vCheck_ok hc)]
  cases rowOp <;> rfl

/-- A V word that stops at issue. -/
theorem stopsRows_of {i : Instr} {h : Hdr} {g : Guard} {rowOp : Bool} {ops : State → List VOp} {own : State → Option Stop}
    {body : Body} (he : extraPop i = none) (hx : ∀ s, exec i s = vRun i h g rowOp ops own body s) : stopsRows i h g ops own := by
  intro s e ho u hc
  rw [hx, vRun_stops he ho hc]

/-- The lane-wise words, in the form the statements use: their row by laneOp, W1024 rows by wideOp. -/
theorem laneWord_lands {i : Instr} {op : Nat} {kinds : List Nat} {h : Hdr} {g : Guard} {vd vs1 vs2 : BitVec 7} {m : BitVec 3}
    {effs : State → List Eff} (he : extraPop i = none) (hx : ∀ s, exec i s = laneWord i op kinds h g vd vs1 vs2 m s)
    (hw : ∀ u, kinds.contains (typeKind (u.rowType vd)) = true → typeKind (u.rowType vd) = 0 → effs u =
      (let r := wideOp (op == 1) (u.readRow 0 vs1) (u.readRow 1 vs2) (u.mask 3 m)
       .row vd r.1 r.2.1 :: flagEff r.2.2))
    (hl : ∀ u, kinds.contains (typeKind (u.rowType vd)) = true → typeKind (u.rowType vd) ≠ 0 → effs u =
      (let ty := u.rowType vd
       let a := rowLanes ty (u.readRow 0 vs1).1
       let b := rowLanes ty (u.readRow 1 vs2).1
       let c := if op = 3 then rowLanes ty (u.readRow 2 vd).1 else []
       let r := maskedLanes (u.mask 3 m) a fun j => laneOp op ty u.rmode.toNat (a.getD j 0) (b.getD j 0) (c.getD j 0)
       .row vd (lanesRow ty r.1) 0 :: flagEff r.2)) :
    landsRows i h g 12 true (sameOps kinds vd (op == 3) [vs1, vs2]) noCheck effs := by
  refine landsRows_of he (fun s => hx s) fun u hu => ?_
  have hk : kinds.contains (typeKind ((u.noteRows (sameOps kinds vd (op == 3) [vs1, vs2] u)).rowType vd)) = true := by
    rw [State.noteRows_rowType]
    simpa [sameOps] using hu _ (List.mem_cons_self ..)
  generalize u.noteRows _ = v at hk ⊢
  by_cases hz : typeKind (v.rowType vd) = 0
  · rw [hw v hk hz]
    show (if typeKind (v.rowType vd) = 0 then _ else _) = _
    rw [if_pos hz]; rfl
  · rw [hl v hk hz]
    show (if typeKind (v.rowType vd) = 0 then _ else _) = _
    rw [if_neg hz]
    have hd (l : List Nat) (j : Nat) : l.toArray.getD j 0 = l.getD j 0 := by
      by_cases hj : j < l.length
      · simp [Array.getD, List.getD, hj]
      · simp [Array.getD, List.getD, hj]
    simp only [hd]
    rfl

end Sys2Proof.Machine
end

