-- ==== Sys2Proof/Tests/Slice0.lean ====
section
/-! SUPPORT. Tests of the model's own text. First a term that each check of well-formedness refuses; then words written out in the specification, each
decoding to the instruction it stands for; then, for every obligation with hypotheses, a state and operands that meet them all together, one witness for
each of its clauses. -/

namespace Sys2Proof.Tests
open Sys2Proof Sys2Proof.Machine

-- One test after another: each would else wait in a thread of its own for the kernel to reach it.
set_option Elab.async false

/-- A header with no idle count, no switch mark and no tokens. -/
def z : Hdr := { idle := 0, sw := false, tkp := 0, tks := 0 }
/-- The guard p0, always true. -/
def tt : Guard := { p := 0, pn := false }

/-! ## Well-formedness (R77, R82, R84, R87, R88) -/

/-- A word on a stream that may not hold it. -/
theorem test_wf_refuses_streams : Instr.wf (.eng .c) (.ldx z tt 1 5 3 false 0) = false ∧ Instr.wf (.eng .a) (.xstat z tt 1 0) = false ∧
    Instr.wf (.eng .t) (.mopen z tt 0 true 8) = false ∧ Instr.wf (.eng .m) (.vadd z tt 1 2 3 0) = false ∧ Instr.wf .sys (.abort z tt 1) = false ∧
    Instr.wf (.eng .c) (.sysrd z tt 1 2) = false ∧ Instr.wf (.eng .a) (.launch z tt 3 4 5) = false ∧ Instr.wf (.eng .m) (.fadd z tt 1 2 3 2) = false ∧
    Instr.wf .sys (.tksend z 1 1) = false ∧ Instr.wf .sys (.qpop z tt 1 2 3) = false := by decide

/-- A step of the machine is no word. -/
theorem test_wf_refuses_steps : Instr.wf (.eng .c) (.dispatch 0) = false ∧ Instr.wf .sys (.eventEnter 0) = false := by decide

/-- The system core has no switch mark and no token fields. -/
theorem test_wf_refuses_headers : Instr.wf .sys (.nop { z with sw := true }) = false ∧ Instr.wf .sys (.nop { z with tkp := 1 }) = false ∧
    Instr.wf .sys (.add { z with tks := 2 } tt 1 2 3) = false := by decide

/-- A field value that is reserved or out of its range. -/
theorem test_wf_refuses_fields : Instr.wf (.eng .c) (.loop z 0 1 1) = false ∧ Instr.wf (.eng .c) (.loopi z 0 1 0) = false ∧
    Instr.wf (.eng .a) (.tksend z 1 2) = false ∧ Instr.wf (.eng .a) (.tkwait z 5 2) = false ∧ Instr.wf (.eng .a) (.tkwait z 4 0) = false ∧
    Instr.wf (.eng .t) (.qpop z tt 1 2 4) = false ∧ Instr.wf (.eng .a) (.qpush z tt 1 2 5) = false ∧ Instr.wf (.eng .a) (.waitv z 4 0 0 false 0) = false ∧
    Instr.wf .sys (.waitv z 3 0 0 false 0) = false ∧ Instr.wf (.eng .a) (.waitv z 0 0 0 true 32) = false ∧ Instr.wf (.eng .c) (.fmul z tt 1 2 3 3) = false ∧
    Instr.wf (.eng .v) (.fcvt z tt 1 2 14 8 0 false false) = false ∧ Instr.wf (.eng .v) (.fcvt z tt 1 2 8 8 7 false false) = false ∧
    Instr.wf (.eng .a) (.aadd z tt 1 2 3 3 6 0) = false ∧ Instr.wf (.eng .a) (.rprobe z tt 1 2 3 3) = false ∧ Instr.wf (.eng .a) (.rwb z tt 1 2 0 3) = false ∧
    Instr.wf (.eng .a) (.rel z 6) = false ∧ Instr.wf (.eng .a) (.tdef z tt 0 29) = false ∧ Instr.wf (.eng .t) (.xset z tt 0 31) = false ∧
    Instr.wf (.eng .t) (.tqin z tt 15 0 1) = false ∧ Instr.wf (.eng .m) (.mopen z tt 0 true 14) = false ∧
    Instr.wf (.eng .m) (.mrd z tt 0 0 8 7 false false 1) = false ∧ Instr.wf (.eng .m) (.seedscan z tt 0 0 1 2 0 31) = false ∧
    Instr.wf (.eng .v) (.vcmp z tt 1 2 3 0 6) = false ∧ Instr.wf (.eng .v) (.vrnd z tt 1 2 0 7 false false) = false ∧
    Instr.wf (.eng .v) (.vred z tt 1 2 3 0 6 0) = false ∧ Instr.wf (.eng .v) (.cset z tt 0 31) = false ∧ Instr.wf .sys (.tlbinv z tt 1 2 7) = false ∧
    Instr.wf .sys (.segset z tt 1 30) = false ∧ Instr.wf .sys (.routew z tt 1 31) = false := by decide

/-- And what it admits, at the edge of those ranges. -/
theorem test_wf_admits : Instr.wf (.eng .c) (.loop z 0 1 2) = true ∧ Instr.wf (.eng .a) (.tksend z 4 15) = true ∧ Instr.wf .sys (.waitv z 2 0 0 false 0) = true ∧
    Instr.wf (.eng .v) (.fcvt z tt 1 2 13 13 6 true true) = true ∧ Instr.wf (.eng .a) (.tdef z tt 63 28) = true ∧
    Instr.wf (.eng .t) (.tqin z tt 16 0 1) = true ∧ Instr.wf (.eng .v) (.vcmp z tt 1 2 3 0 5) = true ∧
    Instr.wf .sys (.segset z tt 1 28) = true ∧ Instr.wf .sys (.nop { z with idle := 1023 }) = true := by decide

/-! ## Decoding: the worked words of the specification -/

/-- What a stream's decoder reads of a word. -/
def reads (e : Issuer) (w : Word) : Option Instr := (decode w e).toOption

/-- Why a stream's decoder refuses a word. -/
def refuses (e : Issuer) (w : Word) : Option DecodeStop := match decode w e with
  | .ok _ => none
  | .error x => some x

/-- The scalar group, control, tokens, queues, waits and control registers (R114, R123, R128, R195, R303-R311, R376, R378). -/
theorem test_decode_scalar_words : reads (.eng .c) 0x000003F280010000 = some (.movi z 5 0x10000) ∧ reads (.eng .c) 0x0000040280600000 = some (.movhi z 5 0x600000) ∧
    reads (.eng .c) 0x0000006400020002 = some (.loopi z 1 2 2) ∧ reads (.eng .m) 0x000000C840000000 = some (.tksend z 4 2) ∧
    reads (.eng .v) 0x000000D620000000 = some (.tkwait z 3 1) ∧ reads (.eng .t) 0x000000E021100000 = some (.qpop z tt 4 2 1) ∧
    reads (.eng .a) 0x000000F028A00000 = some (.qpush z tt 5 1 2) ∧ reads (.eng .c) 0x0000010102840000 = some (.waitv z 1 40 1 false 0) ∧
    reads (.eng .t) 0x0000010000120004 = some (.waitv z 0 1 0 true 4) ∧ reads (.eng .c) 0x0000011028000000 = some (.tsread z tt 5) ∧
    reads .sys 0x0000012008042800 = some (.csrr z tt 1 0x10A) ∧ reads (.eng .v) 0 = some (.nop z) := by decide +kernel

/-- A's words (R245-R261, R274, R320). -/
theorem test_decode_access_words : reads (.eng .a) 0x0000070022980100 = some (.ldq z tt 2 5 6 256) ∧ reads (.eng .a) 0x000007405B300000 = some (.ldx z tt 11 12 3 false 0) ∧
    reads (.eng .a) 0x00000760411D8800 = some (.gather z tt 4 1 7 12 1) ∧ reads (.eng .a) 0x00000760410B1000 = some (.gather z tt 4 1 2 24 2) ∧
    reads (.eng .a) 0x000008004153B000 = some (.acas z tt 8 5 9 3 3 0) ∧ reads (.eng .a) 0x00000820394D0000 = some (.rprobe z tt 7 5 6 2) ∧
    reads (.eng .a) 0x0000089054240000 = some (.msend z tt 5 8 9) ∧ reads (.eng .a) 0x000008A600000000 = some (.acq z 3) ∧
    reads (.eng .a) 0x000008B600000000 = some (.rel z 3) ∧ reads (.eng .a) 0x000008C600000000 = some (.phase z 3) ∧
    reads (.eng .a) 0x000008C800000000 = some (.phase z 4) := by decide +kernel

/-- T's words (R290-R299, R316, R325-R335). -/
theorem test_decode_transfer_words : reads (.eng .t) 0x00000A00010C0000 = some (.xcopy z tt 0 1 3 0 0 0) ∧ reads (.eng .t) 0x00000A102A000000 = some (.xset z tt 2 20) ∧
    reads (.eng .t) 0x00000A2058000000 = some (.xchain z tt 1 12) ∧ reads (.eng .t) 0x00000A304A000000 = some (.xstat z tt 9 1) ∧
    reads (.eng .t) 0x00000A4080000000 = some (.xcancel z tt 2) ∧ reads (.eng .t) 0x00000A5005190000 = some (.xfill z tt 5 3 4) ∧
    reads (.eng .t) 0x00000A60C4430000 = some (.tqin z tt 49 4 6) ∧ reads (.eng .t) 0x00000A8028663800 = some (.pgmrow z tt 5 3 6 7) ∧
    reads (.eng .t) 0x00000A9040890000 = some (.pgmtile z tt 8 4 9 0) ∧ reads (.eng .t) 0x00000AA052C00000 = some (.pgmstat z tt 10 11) := by decide +kernel

/-- M's words and V's (R144, R150, R164, R176, R192, R313): with a guard, an idle count, a switch mark and tokens, the worked encoding of 04_encoding. -/
theorem test_decode_matrix_and_row_words : reads (.eng .m) 0x00E90C140424C700 = some (.mma { idle := 3, sw := true, tkp := 4, tks := 8 } { p := 2, pn := false } 0 4 9 6 7 false) ∧
    reads (.eng .m) 0x00000C108C2C0880 = some (.mma z tt 2 12 11 0 8 true) ∧ reads (.eng .m) 0x00080C2080940000 = some (.tstart { z with tkp := 4 } tt 2 0 true 5) ∧
    reads (.eng .m) 0x00000C404C385000 = some (.mrd z tt 1 12 7 0 false true 8) ∧ reads (.eng .v) 0x00000E0050A55300 = some (.vadd z tt 40 41 42 3) ∧
    reads (.eng .v) 0x0000102002200000 = some (.vpop z tt 1 4) ∧ reads (.eng .v) 0x0000104009036000 = some (.chain z tt 2 16 1 22) ∧
    reads (.eng .v) 0x000010300D400000 = some (.vpush z tt 3 40) ∧ reads (.eng .v) 0x0011000000000000 = some (.nop { z with tkp := 8, tks := 8 }) ∧
    reads (.eng .t) 0x00008A6040C00000 = some (.tqin { z with tks := 4 } tt 16 12 0) := by decide +kernel

/-- C's words and the system core's (R207, R237, R238, R343, R344, R361, R369-R375). -/
theorem test_decode_control_words : reads (.eng .c) 0x0000130061B40000 = some (.launch z tt 12 3 13) ∧ reads (.eng .c) 0x0000131029800000 = some (.depdec z tt 5 6) ∧
    reads (.eng .c) 0x0002131029800000 = some (.depdec { z with tkp := 1 } tt 5 6) ∧
    reads (.eng .c) 0x00001320298E0000 = some (.depset z tt 5 6 7) ∧ reads (.eng .c) 0x0000133049400000 = some (.depread z tt 9 5) ∧
    reads (.eng .c) 0x000013400000002A = some (.abort z tt 42) ∧ reads .sys 0x0000140008000000 = some (.resume z tt 1) ∧
    reads .sys 0x000014400D000000 = some (.segset z tt 1 20) ∧ reads .sys 0x0000145019000000 = some (.frame z tt 3 4) ∧
    reads .sys 0x000014A00D000000 = some (.routew z tt 1 20) := by decide +kernel

/-- Words that are wrong in more than one way: the decode order of R82 settles the stop (the table of 04_encoding). -/
theorem test_decode_order : refuses (.eng .t) 0x0000015000000000 = some .illegalOpcode ∧ refuses (.eng .a) 0x000014400D000000 = some .priv ∧
    refuses (.eng .a) 0x0000051000000001 = some .illegalStream ∧
    refuses (.eng .a) 0x000000C220000000 = some (.illegalField 0x0000000E00000000) ∧
    refuses (.eng .m) 0x00000C404C775000 = some (.illegalField 0x0000000000070000) ∧ refuses (.eng .m) 0x00100C414C705000 = some .fmtBad := by decide +kernel

/-- The classes of R205 by code. -/
theorem test_fatal_codes : ∀ c : Cause, fatalCode c.code = c.fatal := by intro c; cases c <;> decide

/-! ## States for the witnesses

Core 0 of die 0 with one running job in slot 0, its five streams at word 0 of their programs, or the system core of die 0 as it starts. -/

/-- A stream with some of its registers set. -/
def stream (x : List (Nat × Word)) : Stream := { openStream 0 with x := x.foldl (fun v p => v.setIfInBounds p.1 p.2) (Vector.replicate 32 0) }
/-- A running job whose streams hold these registers. -/
def job (x : List (Nat × Word)) : Job :=
  { phase := .running, home := some (0, 0), kernel := { progs := List.replicate 5 [0] }, streams := Vector.replicate 5 (stream x) }
/-- A die with the job in its record 0 and slot 0 of its core 0. -/
def die (j : Job) : Die := { recs := (Vector.replicate 128 {}).set 0 { job := some j }, cores := (Vector.replicate 64 {}).set 0 { slots := #v[some 0, none] } }
/-- The package with that job on die 0, changed by g, and the die by f; its engine e is the current stream. -/
def on (e : Engine) (x : List (Nat × Word)) (g : Job → Job := id) (f : Die → Die := id) : State :=
  { State.reset with dies := State.reset.dies.set 0 (f (die (g (job x)))), cur := .eng 0 0 0 e }
/-- The package with die 0's system core started, its registers set; it is the current stream. -/
def onSys (x : List (Nat × Word)) (f : Die → Die := id) : State :=
  { State.reset with dies := State.reset.dies.set 0 (f { sys := { stream := stream x, started := true } }), cur := .sys 0 }
/-- A queue's configuration: format f in and out, producer p, consumer c, 64 KiB (R305). -/
def qword (f p c : Nat) : Word := BitVec.ofNat 64 (2 ^ 63 + 1024 * 2 ^ 42 + p * 2 ^ 31 + c * 2 ^ 28 + f * 2 ^ 23 + f * 2 ^ 18)
/-- The job's queues 0, 1, … as configured. -/
def queues (l : List Word) (j : Job) : Job := { j with kernel := { j.kernel with qcfg := l } }
/-- Bytes that have landed in a queue. -/
def filled (n : Nat) (j : Job) : Job := j.updDq 2 fun q => q.push 0 (List.replicate n (1, false))
/-- Cycle 8 of grove 0. -/
def at8 (x : Die) : Die := { x with groves := x.groves.set 0 { cyc := 8 } }

/-! ## Witnesses: the scalar group -/

/-- IntegerWordsLandTheirFunction: each of its words issues, with a true guard and with a false one. -/
theorem witness_IntegerWords : ∀ i ∈ ([.add, .sub, .mul, .mulh, .mulhu, .div, .divu, .rem, .remu, .and, .or, .xor, .shl, .shr, .sar, .min, .minu, .max,
    .maxu] : List (Hdr → Guard → BitVec 5 → BitVec 5 → BitVec 5 → Instr)), (on .c [(2, 7)]).issues (i z tt 1 2 3) z := by
  unfold State.issues; decide +kernel
theorem witness_IntegerImmediateWords : (∀ i ∈ ([.addi, .andi, .ori, .xori, .muli] : List (Hdr → Guard → BitVec 5 → BitVec 5 → BitVec 22 → Instr)),
      (on .m [(2, 7)]).issues (i z tt 1 2 (BitVec.allOnes 22)) z) ∧
    ∀ i ∈ ([.shli, .shri, .sari] : List (Hdr → Guard → BitVec 5 → BitVec 5 → BitVec 6 → Instr)), (on .t [(2, 7)]).issues (i z tt 1 2 63) z := by
  unfold State.issues; decide +kernel
/-- SelectAndCountWordsLand, ImmediateMovesLand. -/
theorem witness_SelectCountAndMove : ∀ i ∈ ([.sel z tt 1 2 3 4, .clz z tt 1 2, .ctz z tt 1 2, .popc z tt 1 2, .movi z 5 1, .movhi z 5 (BitVec.allOnes 31)] : List Instr),
    (on .v [(2, 7)]).issues i z := by
  unfold State.issues; decide +kernel
/-- ComparesLandTheirCondition, PredicateWordsLand. -/
theorem witness_ComparesAndPredicates : ∀ i ∈ ([.ceq z tt 1 2 3, .cne z tt 1 2 3, .clt z tt 1 2 3, .cltu z tt 1 2 3, .cle z tt 1 2 3, .cleu z tt 1 2 3,
    .ceqi z tt 1 2 3, .cnei z tt 1 2 3, .clti z tt 1 2 3, .cgei z tt 1 2 3, .pand z tt 1 2 3, .por z tt 1 2 3, .pxor z tt 1 2 3, .pandn z tt 1 2 3,
    .pset z tt 1 2, .pget z tt 1 2] : List Instr), (on .a [(2, 7)]).issues i z := by
  unfold State.issues; decide +kernel
/-- FloatWordsLandTheirRounding: every word, and FCVT with a format beyond 0x08. -/
theorem witness_FloatWords : (∀ i ∈ ([.fadd z tt 1 2 3 0, .fsub z tt 1 2 3 1, .fmul z tt 1 2 3 2, .ffma z tt 1 2 3 0 4, .fmin z tt 1 2 3 0, .fmax z tt 1 2 3 0,
      .fceq z tt 1 2 3 0, .fclt z tt 1 2 3 0, .fcle z tt 1 2 3 0, .fcvt z tt 1 2 8 0 6 true true, .fcvt z tt 1 2 0 8 0 false false] : List Instr),
      (on .c [(2, 7)]).issues i z) ∧
    (on .c [(2, 7)]).opens (.fcvt z tt 1 2 9 8 0 false false) z tt ∧ (on .v [(2, 7)]).opens (.fcvt z tt 1 2 8 13 0 false false) z tt := by
  unfold State.opens State.issues; decide +kernel

/-! ## Witnesses: control -/

/-- PlainWordsComplete. -/
theorem witness_PlainWords : (on .c []).issues (.nop z) z ∧ (on .c []).issues (.tksend z 1 15) z ∧ Engine.ofIdx 1 = some .a ∧
    (on .c [] (fun j => { j with tokens := j.tokens.set 5 [{ sent := 7 }, { sent := 7 }] }) at8).issues (.tkwait z 1 2) z ∧
    (on .c []).opens (.mark z tt 5) z tt ∧ (onSys []).opens (.lockdown z tt 31) z tt := by
  unfold State.opens State.issues; decide +kernel
/-- BranchesGoToTheirTarget: the last word of a program, and the place after it. -/
theorem witness_Branches : (on .c []).issues (.prep z 0 (BitVec.allOnes 24)) z ∧ (on .c [(3, 9)]).issues (.prepr z 0 3) z ∧
    (∀ i ∈ ([.br, .brl] : List (Hdr → Guard → BitVec 2 → Instr)), (on .c []).opens (i z tt 0) z tt ∧ ((on .c []).opened z).readB 0 = 0 ∧
      ((on .c []).opened z).programLength = 1 ∧
      (on .c [] fun j => { j with streams := j.streams.map fun st => { st with b := #v[1, 0, 0, 0] } }).opens (i z tt 0) z tt ∧
      ((on .c [] fun j => { j with streams := j.streams.map fun st => { st with b := #v[1, 0, 0, 0] } }).opened z).readB 0 = 1) := by
  unfold State.opens State.issues; decide +kernel
/-- A C stream inside the body of loop 1, words 0 to 8. -/
def inLoop : State := on .c [(5, 3)] fun j => { j with streams := j.streams.map fun st => { st with l := st.l.set 1 ({ count := 2, first := 0, last := 8, active := true } : Loop) } }
/-- Which active loop the body of a loop at the current word meets (R121). -/
def meets (u : State) (l : BitVec 2) (e : BitVec 16) : Option Nat :=
  let last := u.str.pc.toNat + e.toNat - 1
  let first := u.str.pc.toNat + 1
  (List.range 4).find? fun k => k != l.toNat && (let o := u.str.l[k]?.getD ({} : Loop)
    o.active && decide (o.last.toNat = last ∨ (first ≤ o.last.toNat ∧ o.first.toNat ≤ last ∧
      ¬(o.first.toNat ≤ first ∧ last ≤ o.last.toNat) ∧ ¬(first ≤ o.first.toNat ∧ o.last.toNat ≤ last))))
/-- LoopWordsStartAndLeave: a loop of some passes, of none, one whose body meets another's, and LBRK of an active and of an inactive loop. -/
theorem witness_LoopWords :
    inLoop.issues (.loop z 0 5 2) z ∧ meets (inLoop.opened z) 0 2 = none ∧ inLoop.issues (.loop z 0 0 2) z ∧ inLoop.issues (.loopi z 0 7 2) z ∧
    inLoop.issues (.loop z 0 5 20) z ∧ meets (inLoop.opened z) 0 20 = some 1 ∧ inLoop.issues (.loopi z 0 7 20) z ∧
    inLoop.opens (.lbrk z tt 1) z tt ∧ ((inLoop.opened z).str.l[1]?.getD ({} : Loop)).active = true ∧
    inLoop.opens (.lbrk z tt 2) z tt ∧ ((inLoop.opened z).str.l[2]?.getD ({} : Loop)).active = false := by
  unfold State.opens State.issues; decide +kernel
/-- An M stream with a window of tile 3 open. -/
def windowOpen : State := on .m [] fun j => { j with tiles := j.tiles.set 3 { win := some {} } }
/-- EndHoldTrapAndReturn. -/
theorem witness_EndHoldTrapReturn : (on .m []).issues (.endw z) z ∧ endReady (on .m []) = true ∧
    (∀ k : Fin 4, (((on .m []).opened z).jb.tiles[k]).win = none) ∧ windowOpen.issues (.endw z) z ∧ endReady windowOpen = true ∧
    (List.finRange 4).find? (fun k => ((windowOpen.opened z).jb.tiles[k]).win.isSome) = some 3 ∧ (onSys []).issues (.endw z) z ∧
    (on .c []).opens (.hold z tt 1) z tt ∧ (on .c []).opens (.hold z tt 0) z tt ∧ (on .c []).opens (.trap z tt 5 7) z tt ∧ (onSys []).issues (.eret z) z := by
  unfold State.opens State.issues; decide +kernel

/-! ## Witnesses: queues, waits, control registers -/

/-- A T stream whose queue 2 (FP16) holds four bytes; an A stream that may push to it. -/
def popper : State := on .t [] (fun j => filled 4 (queues [0, 0, qword 6 1 2] j)) at8
def pusher : State := on .a [(5, 9)] (queues [0, 0, qword 6 1 2]) at8
/-- QueueAndWaitWordsComplete. -/
theorem witness_QueueAndWaitWords : popper.opens (.qpop z tt 4 2 1) z tt ∧ qpopReady 2 1 popper = true ∧ (popper.opened z).qxCheck 2 1 false = none ∧
    ((popper.opened z).jb.dq 2).badPop ((popper.opened z).jb.qcfg 2) 1 = none ∧ pusher.opens (.qpush z tt 5 2 1) z tt ∧ qpushReady 2 1 pusher = true ∧
    (pusher.opened z).qxCheck 2 1 true = none ∧ (on .c []).issues (.waitv z 1 40 1 false 0) z ∧
    waitCond 1 0 ((on .c []).waitArg false 0) = true ∧ (on .t []).opens (.tsread z tt 5) z tt := by
  unfold State.opens State.issues; decide +kernel
theorem witness_QueueAndWaitWords_sample : (on .c []).waitSource 1 40 = .ok 0 ∧ ((on .c []).opened z).waitSource 1 40 = .ok 0 := ⟨rfl, rfl⟩
/-- ControlRegisterWordsComplete: FSTAT and EVTHEAD, ABFTTOL's minus zero, RMODE's last mode; a die's register without and with the lock; each stop. -/
theorem witness_ControlRegisterWords : (on .c []).opens (.csrr z tt 1 0) z tt ∧ csrAccess (.eng .c) 0 ≠ .none ∧ (onSys []).opens (.csrr z tt 1 0x10A) z tt ∧
    csrAccess .sys 0x10A ≠ .none ∧ (on .c [(2, 0x80000000)]).opens (.csrw z tt 2 0x011) z tt ∧ csrAccess (.eng .c) 0x011 = .write ∧
    csrRefuses 0x011 0x80000000 = false ∧ (on .c [(2, 5)]).opens (.csrx z tt 3 2 1) z tt ∧ csrAccess (.eng .c) 1 = .write ∧ csrRefuses 1 5 = false ∧
    (onSys [(2, 1)]).opens (.csrw z tt 2 0x104) z tt ∧ csrAccess .sys 0x104 = .write ∧ (((onSys [(2, 1)]).opened z).die 0).lockstat.getLsbD 3 = false := by
  unfold State.opens State.issues; decide +kernel
theorem witness_ControlRegisterStops : (on .c []).opens (.csrr z tt 1 0x100) z tt ∧ (on .c []).opens (.csrw z tt 1 0x100) z tt ∧
    csrAccess (.eng .c) 0x100 = .none ∧ (on .c []).opens (.csrw z tt 1 0x014) z tt ∧ csrAccess (.eng .c) 0x014 = .read := by
  unfold State.opens State.issues; decide +kernel

/-! ## Witnesses: A's words

Buffer 1 of address space 0 is unbacked, 4 KiB, at 2^52; buffer 2 is host memory, at 2 * 2^52. Queue 1 holds FP16 A pops; A pushes and pops queue 2 (FP16). -/

theorem ok_of {ε α : Type} {x : Except ε α} (h : x.toBool = true) : ∃ t, x = .ok t := by
  cases x with
  | ok t => exact ⟨t, rfl⟩
  | error e => simp [Except.toBool] at h

/-- The segments of the two buffers (R358). -/
def segs (x : Die) : Die := { x with segs := [(1, BitVec.ofNat 256 (4096 + 3 * 2 ^ 128 + 2 ^ 133)), (2, BitVec.ofNat 256 (4096 + 2 ^ 128 + 2 ^ 133))] }
/-- An A stream over those buffers: x5 the unbacked one, x6 64, x7 a shape of two rows of 8 bytes, x8 8, x9 the host one, x11 an odd address. -/
def aStream (g : Job → Job := id) : State :=
  on .a [(5, 2 ^ 52), (6, 64), (7, 2 ^ 33 + 8), (8, 8), (9, 2 ^ 53), (11, 2 ^ 52 + 1), (12, 2 ^ 33)]
    (fun j => g (queues [0, qword 2 0 1, qword 6 1 1] j)) segs

/-- LoadAndStoreWordsIssue: flat and strided, of some bytes and of none. -/
theorem witness_FlatTransfers : ∀ p ∈ ([(.ldq, true), (.stq, false)] : List ((Hdr → Guard → BitVec 4 → BitVec 5 → BitVec 5 → BitVec 18 → Instr) × Bool)),
    aStream.opens (p.1 z tt 2 5 6 256) z tt ∧ qtReady 2 p.2 false (flatArgs 5 6 256) aStream = true ∧
    (aStream.opened z).qtCheck 2 p.2 false 64 64 = none ∧ (aStream.opened z).readX 1 6 = 64 ∧ ((aStream.opened z).firstPage (2 ^ 52 + 256) 64 (!p.2)).toBool = true ∧
    aStream.opens (p.1 z tt 2 5 0 256) z tt ∧ qtReady 2 p.2 false (flatArgs 5 0 256) aStream = true ∧ (aStream.opened z).qtCheck 2 p.2 false 0 0 = none := by
  unfold State.opens State.issues; decide +kernel
theorem witness_StridedTransfers : ∀ p ∈ ([(.ldsq, true), (.stsq, false)] : List ((Hdr → Guard → BitVec 4 → BitVec 5 → BitVec 5 → BitVec 5 → Instr) × Bool)),
    aStream.opens (p.1 z tt 2 5 7 8) z tt ∧ qtReady 2 p.2 true (shapeArgs 5 7 8) aStream = true ∧ (aStream.opened z).qtCheck 2 p.2 true 8 16 = none ∧
    ((aStream.opened z).firstPage (2 ^ 52) 8 (!p.2)).toBool = true ∧ aStream.opens (p.1 z tt 2 5 12 8) z tt ∧
    qtReady 2 p.2 true (shapeArgs 5 12 8) aStream = true ∧ (aStream.opened z).qtCheck 2 p.2 true 0 0 = none := by
  unfold State.opens State.issues; decide +kernel
/-- LDX and STX, aligned and not. -/
theorem witness_RegisterAccesses : aStream.opens (.ldx z tt 1 5 3 true 8) z tt ∧ addrReady 5 8 aStream = true ∧
    ((aStream.opened z).firstPage (2 ^ 52 + 8) 8 false).toBool = true ∧ aStream.opens (.stx z tt 6 5 0 1) z tt ∧ addrReady 5 1 aStream = true ∧
    ((aStream.opened z).firstPage (2 ^ 52 + 1) 1 true).toBool = true ∧ aStream.opens (.ldx z tt 1 5 1 false 1) z tt ∧ aStream.opens (.stx z tt 1 5 3 4) z tt ∧
    addrReady 5 4 aStream = true ∧ ((aStream.opened z).readX 0 5 + 4#64).toNat % 8 ≠ 0 := by
  unfold State.opens State.issues; decide +kernel
/-- A tensor of four rows of eight FP16 elements in the unbacked buffer. -/
def rowsTensor : BitVec 256 := BitVec.ofNat 256 (2 * 2 ^ 221 + 6 * 2 ^ 216 + 2 ^ 192 + 4 * 2 ^ 160 + 8 * 2 ^ 128 + 8 * 2 ^ 64 + 2 ^ 52)
/-- AtomicAndIndexWordsIssue: each atomic of each size on good places, on an odd one, and on a host one. -/
theorem witness_Atomics : (∀ i ∈ ([.aadd, .amin, .amax, .aand, .aor, .axor, .axchg, .acas, .afadd] :
      List (Hdr → Guard → BitVec 5 → BitVec 5 → BitVec 5 → BitVec 2 → BitVec 3 → BitVec 12 → Instr)),
      aStream.opens (i z tt 1 5 6 2 3 4) z tt ∧ aStream.opens (i z tt 1 11 6 2 0 0) z tt ∧ aStream.opens (i z tt 1 9 6 2 0 0) z tt) ∧
    addrReady 5 4 aStream = true ∧ ((aStream.opened z).firstPage (2 ^ 52 + 4) 4 true).toBool = true ∧ addrReady 11 0 aStream = true ∧
    ((aStream.opened z).readX 0 11).toNat % 4 ≠ 0 ∧ addrReady 9 0 aStream = true ∧
    segKind ((aStream.opened z).seg 0 ((aStream.opened z).asnOf (aStream.opened z).cur) (bufOf (2 ^ 53))) = 1 := by
  unfold State.opens State.issues; decide +kernel
theorem witness_IndexWords : let s := aStream fun j => { j with tensors := j.tensors.set 7 rowsTensor }
    ∀ p ∈ ([(.gather, 0), (.scatter, 1), (.scadd, 2)] : List ((Hdr → Guard → BitVec 4 → BitVec 4 → BitVec 6 → BitVec 5 → BitVec 2 → Instr) × BitVec 2)),
    s.opens (p.1 z tt 2 1 7 6 1) z tt ∧ indexReady 7 s = true ∧ (s.opened z).indexCheck p.2 2 1 7 ((s.opened z).tensor 3 7) 64 1 = none ∧
    s.opens (p.1 z tt 2 1 7 0 1) z tt ∧ (s.opened z).indexCheck p.2 2 1 7 ((s.opened z).tensor 3 7) 0 1 = none := by
  unfold State.opens State.issues; decide +kernel
/-- ProbeAndLockWordsComplete: of no bytes, without and with a reservation, within the quota and beyond it; LOCK and UNLOCK of a line. -/
theorem witness_ProbeAndLock : let s := aStream fun j => { j with llcq := 8 }
    s.opens (.rprobe z tt 1 5 0 0) z tt ∧ probeReady 5 s = true ∧ s.opens (.rprobe z tt 1 5 6 2) z tt ∧ s.opens (.rprobe z tt 1 5 6 0) z tt ∧
    (match (s.opened z).probeRange (2 ^ 52) 64 true with
      | .ok (absent, _, _) => decide (absent.length = 1)
      | .error _ => false) = true ∧ ((s.opened z).probeRange (2 ^ 52) 64 false).toBool = true ∧
    segKind ((s.opened z).seg 0 ((s.opened z).asnOf (s.opened z).cur) (bufOf (2 ^ 52))) = 3 ∧
    s.opens (.lock z tt 1 5 6) z tt ∧ s.opens (.unlock z tt 1 5 6) z tt ∧ rangeReady 5 s = true ∧ ((s.opened z).lockLines (2 ^ 52) 64).toBool = true := by
  unfold State.opens State.issues; decide +kernel
/-- RangeWordsIssue: some bytes, none, too many; UBDISC off an unbacked buffer; PREF. -/
theorem witness_RangeWords : (∀ i ∈ ([.rwb, .rinv, .ubdisc, .pref] : List (Hdr → Guard → BitVec 5 → BitVec 5 → BitVec 3 → BitVec 2 → Instr)),
      aStream.opens (i z tt 5 6 3 2) z tt ∧ aStream.opens (i z tt 5 0 3 2) z tt ∧ aStream.opens (i z tt 5 12 3 2) z tt ∧ aStream.opens (i z tt 9 6 3 2) z tt) ∧
    rangeReady 5 aStream = true ∧ rangeReady 9 aStream = true ∧ 2 ^ 32 < ((aStream.opened z).readX 1 12).toNat ∧
    ((aStream.opened z).firstPage (2 ^ 52) 64 false).toBool = true ∧ ((aStream.opened z).firstPage (2 ^ 52) 64 true).toBool = true ∧
    segKind ((aStream.opened z).seg 0 ((aStream.opened z).asnOf (aStream.opened z).cur) (bufOf (2 ^ 53))) = 1 := by
  unfold State.opens State.issues; decide +kernel
/-- The registers of a TDEF: x4 on the tensor of rows, x16 on the same without columns, x20 on an invalid entry. -/
def defining : State := on .a [(4, 2 ^ 52), (5, 8), (6, 2 ^ 34 + 8), (7, 2 ^ 30 + 6 * 2 ^ 24 + 1), (16, 2 ^ 52), (17, 8), (18, 2 ^ 34), (19, 2 ^ 30 + 6 * 2 ^ 24 + 1)]
/-- The entry a TDEF of its registers defines. -/
def entryAt (r : BitVec 5) : BitVec 256 := (defining.opened z).readX 3 (r + 3) ++ (defining.opened z).readX 2 (r + 2) ++ (defining.opened z).readX 1 (r + 1) ++
  (defining.opened z).readX 0 r
/-- OrderingTensorAndMessageWordsIssue. -/
theorem witness_OrderingAndTensorWords :
    (∀ i ∈ ([.acq, .rel, .phase] : List (Hdr → BitVec 3 → Instr)), aStream.issues (i z 5) z) ∧
    defining.opens (.tdef z tt 63 4) z tt ∧ tValid (entryAt 4) = true ∧ tensorBad (entryAt 4) (defining.opened z).jb.spBytes = none ∧
    defining.opens (.tdef z tt 0 20) z tt ∧ tValid (entryAt 20) = false ∧
    defining.opens (.tdef z tt 0 16) z tt ∧ tensorBad (entryAt 16) (defining.opened z).jb.spBytes = some (.tensorBad, 128) := by
  unfold State.opens State.issues; decide +kernel
/-- A stream that sends: x3 a target in this package (its number 0), x4 one in package 5, x5 one that names no core; x6 64 bytes. -/
def sender (f : Die → Die := id) : State :=
  { on .a [(3, 0), (4, 2 ^ 31 + 5 * 2 ^ 18), (5, 256), (6, 64)] (queues [0, 0, qword 6 1 1]) f with packageId := 0 }
theorem witness_MessageWords : (∀ r ∈ ([3, 4, 5] : List (BitVec 5)), sender.opens (.msend z tt 2 r 6) z tt) ∧
    queueCheck ((sender.opened z).jb.qcfg 2) false (sender.opened z).eng = none ∧ 64 % (unitOf (qSnk ((sender.opened z).jb.qcfg 2))).1 = 0 ∧
    (sender.opened z).tgtAway 0 = false ∧ (sender.opened z).tgtAway (2 ^ 31 + 5 * 2 ^ 18) = true ∧ 255 < tgtCore 256 ∧
    ((2 ^ 31 + 5 * 2 ^ 18 : Word).toNat / 2 ^ 32 = 0 ∧ tgtCore (2 ^ 31 + 5 * 2 ^ 18) ≤ 255) := by
  unfold State.opens State.issues; decide +kernel
theorem witness_MessageWords_unreachable : (sender.opened z).egress 0 5 0 false true 0 (.load 0 0) = .error .unreachable := rfl
/-- A route to package 5 by port 0 whose key slot is not valid. -/
def keyless : State := sender fun x => { x with routes := [(5, 2 ^ 63)] }
theorem witness_MessageWords_partition : keyless.opens (.msend z tt 2 4 6) z tt ∧ (keyless.opened z).egress 0 5 0 false true 0 (.load 0 0) = .error .partition := by
  refine ⟨by unfold State.opens State.issues; decide +kernel, ?_⟩
  have hp : (keyless.opened z).egressPort 0 5 false = some 0 := by
    have hl : (List.finRange 16).filter (fun p : Fin 16 => (!(keyless.opened z).linkDown.getLsbD p.val && (keyless.opened z).live (Fin.ofNat 4 (p.val / 4))) &&
        (p.val == bits (((keyless.opened z).die 0).routes.getD 5 0) 19 16 || (false && (((keyless.opened z).die 0).routes.getD 5 0).getLsbD p.val))) = [0] := by decide +kernel
    have hv : (((keyless.opened z).die 0).routes.getD 5 0).getLsbD 63 = true := by decide +kernel
    have h5 : (5 : BitVec 13).toNat = 5 := rfl
    simp only [State.egressPort, h5, hv, hl, List.length_singleton, Nat.max_self, Nat.mod_one, Bool.not_true, Bool.false_eq_true, if_false, List.getElem?_cons_zero]
  simp only [State.egress, hp, Bool.not_true, Bool.false_and, Bool.false_eq_true, if_false]
  rfl

/-! ## Witnesses: T's words and M's

64 KiB of scratchpad in two bank groups, four tiles, two channels, local tile queue 0. Tensor 1: 4 x 16 FP16 at 0; 2: 1 x 256 INT8 at 4096;
3: 4 x 16 FP16 in the unbacked buffer; 4: 32 x 32 INT8 at 8192; 5: 32 x 32 INT8 at 65536, in the second group; 6: 1 x 1 BF16 at 0;
8: 1 x 44 INT8 at 4096. -/

/-- A tensor entry: LOC, format, shape, packed rows, BASE (R352). -/
def tensorOf (loc fmt rows cols base : Nat) : BitVec 256 :=
  BitVec.ofNat 256 (loc * 2 ^ 221 + fmt * 2 ^ 216 + 2 ^ 192 + rows * 2 ^ 160 + cols * 2 ^ 128 + cols * 2 ^ 64 + base)
/-- The job with its tensors and what its kernel declares. -/
def declared (j : Job) : Job :=
  { j with
    kernel := { j.kernel with sp := [16, 16, 0, 0], acc := 4, chan := 2, tqmask := 1 }
    tensors := ((((((j.tensors.set 1 (tensorOf 0 6 4 16 0)).set 2 (tensorOf 0 0 1 256 4096)).set 3 (tensorOf 2 6 4 16 (2 ^ 52))).set 4
      (tensorOf 0 0 32 32 8192)).set 5 (tensorOf 0 0 32 32 65536)).set 6 (tensorOf 0 7 1 1 0)).set 8 (tensorOf 0 0 1 44 4096) }
/-- A T stream of that job; x8 the origin (4, 0). -/
def tStream (g : Job → Job := id) : State := on .t [(3, 9), (8, 4)] (fun j => g (declared j)) segs
/-- CopyWordsIssue. -/
theorem witness_CopyWords : tStream.opens (.xcopy z tt 1 1 3 0 0 0) z tt ∧ 1 < (tStream.opened z).jb.kernel.chan ∧
    ((tStream.opened z).jb.chan 1).recVa = none ∧ (xcopyXfer 1 3 0 0 0 (tStream.opened z)).src = tensorOf 0 6 4 16 0 ∧
    (tStream.opened z).entryBad 1 (tensorOf 0 6 4 16 0) [0, 1, 2, 3] .tensorBad = none ∧
    (tStream.opened z).entryBad 3 (tensorOf 2 6 4 16 (2 ^ 52)) [0, 1, 2] .tensorBad = none ∧
    (tStream.opened z).xferBad (tStream.opened z).cur (xcopyXfer 1 3 0 0 0 (tStream.opened z)) ((tStream.opened z).jb.chan 1).limit = none ∧
    (match (tStream.opened z).firstElem (tensorOf 0 6 4 16 0) ((xcopyXfer 1 3 0 0 0 (tStream.opened z)).srcAt 0 0) false with
      | .ok t => (t.firstElem (tensorOf 2 6 4 16 (2 ^ 52)) (some (0, 0)) true).toBool
      | .error _ => false) = true := by
  unfold State.opens State.issues; decide +kernel
theorem witness_ChannelWords : (∀ i ∈ ([.xset z tt 2 20, .xchain z tt 1 2, .xstat z tt 9 1, .xcancel z tt 1, .xcopy z tt 2 1 3 0 0 0, .xchain z tt 2 1, .xstat z tt 9 3,
      .xcancel z tt 2] : List Instr), tStream.opens i z tt) ∧ ((tStream.opened z).jb.chan 1).st = .idle ∧ ((tStream.opened z).jb.chan 1).isIdle = true ∧
    (tStream.opened z).jb.kernel.chan ≤ 2 ∧
    (let s := tStream fun j => { j with chans := j.chans.set 1 { st := .busy, recVa := some 128 } }
    s.opens (.xcopy z tt 1 1 3 0 0 0) z tt ∧ ((s.opened z).jb.chan 1).recVa ≠ none ∧ s.opens (.xchain z tt 1 2) z tt ∧
      ((s.opened z).jb.chan 1).st ≠ .idle ∧ s.opens (.xcancel z tt 1) z tt ∧ ((s.opened z).jb.chan 1).isIdle = false) := by
  unfold State.opens State.issues; decide +kernel
/-- TileMoveWordsIssue: TQIN, TQOUT, XFILL, and XFILL with its origin at the first row beyond the tensor. -/
theorem witness_TileMoveWords : tStream.opens (.tqin z tt 16 1 0) z tt ∧ tStream.opens (.tqout z tt 16 1 0) z tt ∧
    (tStream.opened z).tqCheck 16 1 ((tStream.opened z).tensor 3 1) ((tStream.opened z).readX 0 0) = none ∧
    tStream.opens (.xfill z tt 1 3 0) z tt ∧ tStream.opens (.xfill z tt 1 3 8) z tt ∧
    (tStream.opened z).useTensor 1 (tensorOf 0 6 4 16 0) [0, 1] .tensorBad = none ∧ (tStream.opened z).tensor 3 1 = tensorOf 0 6 4 16 0 ∧
    fmtIsSb 6 = false ∧ tRows (tensorOf 0 6 4 16 0) = 4 ∧ tCols (tensorOf 0 6 4 16 0) = 16 ∧ orgRow 4 = 4 ∧ (tStream.opened z).beyondWindow (tStream.opened z).cur (tensorOf 0 6 4 16 0) 3 15 = false := by
  unfold State.opens State.issues; decide +kernel
/-- A T stream whose address space may program: x1 the first row of a column, x2 the last tile, x3 and x4 beyond them, x5 an image of 256 bytes, x6 and x8
offsets beyond the tensor and at its last 64 bytes, x7 the last physical row, x9 beyond it. -/
def programmer : State := on .t [(1, 0x10000), (2, 262143), (3, 0x400000), (4, 262144), (5, 2 ^ 62 + 256), (6, 193), (7, 0x43FFFF), (8, 192), (9, 0x440000)] declared
  fun x => { x with groves := x.groves.set 0 { pgmperm := #v[1, 0, 0, 0] } }
/-- ProgrammingWordsIssue: at the ends of each range and beyond them; without the permission. -/
theorem witness_ProgrammingWords : (∀ i ∈ ([.pgmrow z tt 1 2 8 0, .pgmrow z tt 3 2 8 0, .pgmrow z tt 1 2 6 0, .pgmtile z tt 2 2 5 0, .pgmtile z tt 4 2 5 0,
      .pgmtile z tt 2 2 0 0, .pgmret z tt 7, .pgmret z tt 9, .pgmstat z tt 1 2] : List Instr), programmer.opens i z tt) ∧
    pgmRoom programmer = true ∧ (programmer.opened z).mayProgram = true ∧ (programmer.opened z).pgmSource 2 ((programmer.opened z).tensor 4 2) = none ∧
    tRows (tensorOf 0 0 1 256 4096) * tCols (tensorOf 0 0 1 256 4096) = 256 ∧ bits (2 ^ 62 + 256 : Word) 63 62 = 1 ∧
    tStream.opens (.pgmrow z tt 1 2 8 0) z tt ∧ tStream.opens (.pgmtile z tt 2 2 5 0) z tt ∧ tStream.opens (.pgmret z tt 7) z tt ∧ pgmRoom tStream = true ∧
    (tStream.opened z).mayProgram = false := by
  unfold State.opens State.issues; decide +kernel
theorem witness_ProgrammingWords_counter : (programmer.opened z).pgmCounter 2 0 = .ok none := rfl
/-- An M stream of that job; x1 one K-step, x2 two seeds from 5 on. -/
def mStream (g : Job → Job := id) : State := on .m [(1, 2 ^ 32), (2, 5), (3, 2)] fun j => g (declared j)
/-- The same with tile 1's window open. -/
def mWindow : State := mStream fun j => { j with tiles := j.tiles.set 1 { win := some {} } }
/-- MatrixWordsIssue. -/
theorem witness_MatrixWords : (∀ i ∈ ([.mopen z tt 0 true 8, .mma z tt 0 4 5 0 1 true, .mma z tt 0 4 5 0 0 true, .tstart z tt 0 1 true 0, .mrd z tt 0 4 0 0 true false 0,
      .mcvt z tt 0 8 6 false true, .mchk z tt 1 2 0, .tend z tt 0] : List Instr), mStream.opens i z tt) ∧
    matrixReady 0 false mStream = true ∧ matrixReady 0 true mStream = true ∧ mStream.arrayRoom = true ∧ (mStream.opened z).tileBad 0 = none ∧
    (tileLanes 8).isSome = true ∧ ((mStream.opened z).jb.tile 0).win = none ∧ ((mStream.opened z).jb.tile 0).ty = 0x0C ∧ (mStream.opened z).jb.tileUe 0 = none ∧
    mStream.tstartBad 0 1 true = none ∧ (mStream.opened z).tstartBad 0 1 true = none ∧ 0 ≤ (mStream.jb.chan 1).wp ∧
    (mStream.opened z).mrdBad 0 4 ((mStream.opened z).tensor 3 4) 0 0 = none ∧ mWindow.opens (.tend z tt 1) z tt ∧ matrixReady 1 false mWindow = true ∧
    (mWindow.opened z).tileBad 1 = none ∧ ((mWindow.opened z).jb.tile 1).win ≠ none := by
  unfold State.opens State.issues; decide +kernel
theorem witness_MatrixWords_mma : (mmaOf 0 4 5 0 1 true (mStream.opened z)).nk = 1 ∧ (mmaOf 0 4 5 0 0 true (mStream.opened z)).nk = 0 ∧
    ((mStream.opened z).mmaCheck (mmaOf 0 4 5 0 1 true (mStream.opened z)) 4 5).toBool = true ∧
    ((mStream.opened z).mmaCheck (mmaOf 0 4 5 0 0 true (mStream.opened z)) 4 5).toBool = true := by decide +kernel
theorem witness_MatrixWords_undeclared : (on .m []).opens (.mopen z tt 0 true 8) z tt ∧ matrixReady 0 false (on .m []) = true ∧
    ((on .m []).opened z).tileBad 0 = some { cause := .tileRange, info0 := some 0 } := by
  unfold State.opens State.issues; decide +kernel
/-- SeedWordsIssue, and SEEDFIT of seed 0. -/
theorem witness_SeedWords : mStream.opens (.seedscan z tt 0 6 2 3 0 5) z tt ∧ mStream.opens (.seedfit z tt 0 6 2 0 8 5) z tt ∧ mStream.opens (.seedfit z tt 0 6 0 0 8 5) z tt ∧
    matrixReady 0 false mStream = true ∧ mStream.arrayEmpty = true ∧ mStream.readsNow z = true ∧ (mStream.opened z).useTensor 8 ((mStream.opened z).tensor 4 8) [0] .tensorBad = none ∧
    tFmt ((mStream.opened z).tensor 4 8) = 0 ∧ 44 ≤ tCols ((mStream.opened z).tensor 4 8) := by
  unfold State.opens State.issues; decide +kernel
/-- The one element of a 1 x 1 target. -/
def onlyUnit (s : State) (t : BitVec 256) : List (Byte × Bool) :=
  (s.localRead s.cur 0 (tBase t + (elemUnit t 0 0).1) (unitOf (tFmt t)).1).getD (List.replicate (unitOf (tFmt t)).1 (0, true))
theorem target_of {s : State} {t : BitVec 256} (hE : tEdge t = 0) (hR : tRows t = 1) (hC : tCols t = 1) (h0 : (onlyUnit s t).any (·.2) = false)
    (h1 : (unitVal (tFmt t) (leNat ((onlyUnit s t).map (·.1))) (elemUnit t 0 0).2).isFin = true) : ∃ r, s.seedTarget t = .ok r := by
  unfold State.seedTarget
  rw [hE, hR, hC]
  generalize List.range 16384 = l
  simp only [onlyUnit] at h0 h1
  induction l with
  | nil => exact ⟨[], rfl⟩
  | cons p l ih =>
    obtain ⟨r, hr⟩ := ih
    dsimp only at hr ⊢
    rw [List.foldr_cons, hr]
    by_cases hi : p / 32 < 1
    · by_cases hj : p % 32 < 1
      · have e1 : p / 32 = 0 := by omega
        have e2 : p % 32 = 0 := by omega
        simp only [edgeIndex, e1, e2, Nat.zero_lt_one, if_true, h0, h1, Bool.not_true, Bool.or_false, Bool.false_eq_true, if_false, Except.ok.injEq, exists_eq']
      · simp only [edgeIndex, hi, hj, if_true, if_false, Nat.zero_ne_one, Except.ok.injEq, exists_eq']
    · simp only [edgeIndex, hi, if_false, Nat.zero_ne_one, Except.ok.injEq, exists_eq']
theorem witness_SeedWords_target : ∃ l, (mStream.opened z).seedCheck 0 6 ((mStream.opened z).tensor 3 6) = .ok l := by
  have ht : (mStream.opened z).tensor 3 6 = tensorOf 0 7 1 1 0 := by decide +kernel
  rw [ht]
  have h1 : (mStream.opened z).tileBad 0 = none := by decide +kernel
  have h2 : ((mStream.opened z).jb.tile 0).win.isSome = false := by decide +kernel
  have h3 : (mStream.opened z).useTensor 6 (tensorOf 0 7 1 1 0) [0] .tensorBad = none := by decide +kernel
  have h4 : ¬(tFmt (tensorOf 0 7 1 1 0) ≠ 0x0B ∧ tFmt (tensorOf 0 7 1 1 0) ≠ 7) := by decide +kernel
  have h5 : tEdge (tensorOf 0 7 1 1 0) = 0 := by decide +kernel
  obtain ⟨r, hr⟩ : ∃ r, (mStream.opened z).seedTarget (tensorOf 0 7 1 1 0) = .ok r :=
    target_of h5 (by decide +kernel) (by decide +kernel) (by decide +kernel) (by decide +kernel)
  exact ⟨r, by unfold State.seedCheck; rw [h1, h2, h3, if_neg h4, h5, hr]; rfl⟩

/-! ## Witnesses: V's words

Tile 0 holds W1024 (v0-v31), tile 1 FP32 (v32-v63), tile 2 INT32 (v64-v95), tile 3 INT8 (v96-v127). -/

/-- A V stream of the job with those tiles; x5 the last lane of FP32, x6 the one after it, x7 rows for a CHAIN; tile queue 0 holds an FP32 row. -/
def vStream (g : Job → Job := id) : State := on .v [(5, 1023), (6, 1024), (7, 3)] fun j => g
  { declared j with
    kernel := { (declared j).kernel with tqmask := 3 }
    tiles := #v[{}, { ty := 8 }, { ty := 3 }, { ty := 0 }]
    tqs := j.tqs.set 0 { entries := [{ image := 1, tag := 8 }] } }
/-- The state V's checks look at. -/
def vSeen : State := (vStream.opened z).seedSync
/-- LaneWordsLandTheirRow: each word, VADD and VSUB on W1024 rows too, the logic words on INT8 rows. -/
theorem witness_LaneWords : (∀ i ∈ ([.vadd, .vsub, .vmul, .vmin, .vmax, .vand, .vor, .vxor, .vshl, .vshr, .vsar, .vfma] :
      List (Hdr → Guard → BitVec 7 → BitVec 7 → BitVec 7 → BitVec 3 → Instr)), ∀ r ∈ ([0, 32, 64, 96] : List (BitVec 7)), vStream.opens (i z tt r (r + 1) (r + 2) 0) z tt) ∧
    (∀ i ∈ ([.vabs, .vneg] : List (Hdr → Guard → BitVec 7 → BitVec 7 → BitVec 3 → Instr)), vStream.opens (i z tt 33 34 1) z tt) ∧
    vSeen.vCheck (sameOps [0, 1, 2] 0 false [1, 2] vSeen) = none ∧ vSeen.vCheck (sameOps [0, 1, 2] 32 false [33, 34] vSeen) = none ∧
    vSeen.vCheck (sameOps [1, 2] 64 false [65, 66] vSeen) = none ∧ vSeen.vCheck (sameOps [1, 2, 3] 96 false [97, 98] vSeen) = none ∧
    vSeen.vCheck (sameOps [2] 64 false [65, 66] vSeen) = none ∧ vSeen.vCheck (sameOps [1, 2] 32 true [33, 34] vSeen) = none ∧
    vSeen.vCheck (sameOps [1, 2] 33 false [34, 34] vSeen) = none ∧ noCheck vSeen = none := by
  unfold State.opens State.issues; decide +kernel
/-- RowWordsLandTheirRow: each word, and the segment of VRED and VSCAN at the row's length and beyond it. -/
theorem witness_RowWords : (∀ i ∈ ([.vcmp z tt 1 33 34 0 5, .vsel z tt 32 33 34 1, .vmov z tt 0 1 0, .vbcast z tt 32 5 0, .vred z tt 32 33 33 0 0 10, .vscan z tt 32 33 34 0 5 10,
      .vred z tt 32 33 33 0 0 11, .vscan z tt 32 33 34 0 5 11, .vperm z tt 33 34 65 0, .vrot z tt 32 33 5 0] : List Instr), vStream.opens i z tt) ∧
    vSeen.vCheck [{ r := 33, ok := typeKind (vSeen.rowType 33) != 0 }, { r := 34, ok := vSeen.rowType 34 == vSeen.rowType 33 }] = none ∧
    vSeen.vCheck (sameOps [1, 2, 3] 32 false [33, 34] vSeen) = none ∧ vSeen.vCheck (sameOps [0, 1, 2] 0 false [1] vSeen) = none ∧
    vSeen.vCheck (sameOps [1, 2, 3] 32 true [] vSeen) = none ∧ vSeen.vCheck (sameOps [1, 2] 32 false [33, 33] vSeen) = none ∧
    laneCount (vSeen.rowType 32) = 2 ^ 10 ∧ vSeen.vCheck (sameOps [1, 2, 3] 33 false [34] vSeen ++
      [{ r := 65, ok := typeKind (vSeen.rowType 65) != 0 && laneWidth (vSeen.rowType 65) == laneWidth (vSeen.rowType 33) }]) = none := by
  unfold State.opens State.issues; decide +kernel
/-- ConversionAndFunctionWordsLandTheirRow. -/
theorem witness_ConversionAndFunctionWords : (∀ i ∈ ([.vexp2, .vlog2, .vrcp, .vrsq, .vsqrt, .vtanh, .vsigm, .verf, .vsin, .vcos] :
      List (Hdr → Guard → BitVec 7 → BitVec 7 → BitVec 3 → Instr)), vStream.opens (i z tt 32 33 0) z tt) ∧ vSeen.vCheck (sameOps [1] 32 false [33] vSeen) = none ∧
    vStream.opens (.vcvt z tt 32 96 0 6 true true) z tt ∧ vStream.opens (.vrnd z tt 0 1 0 5 true false) z tt ∧
    vSeen.vCheck [{ r := 32, write := true, ok := typeKind (vSeen.rowType 32) != 0 }, { r := 96, ok := typeKind (vSeen.rowType 96) != 0 }] = none := by
  unfold State.opens State.issues; decide +kernel
/-- MaskAndLaneWordsLand: the last lane of a row and the one after it. -/
theorem witness_MaskAndLaneWords : (∀ i ∈ ([.mand z tt 1 2 3, .mor z tt 1 2 3, .mnot z tt 1 2, .mseti z tt 1 0 4096, .cset z tt 7 30, .vget z tt 1 33 5, .vput z tt 33 1 5,
      .vget z tt 1 33 6, .vput z tt 33 1 6, .vsnap z tt 0 1 2] : List Instr), vStream.opens i z tt) ∧
    vSeen.vCheck [{ r := 33, ok := typeKind (vSeen.rowType 33) != 0 }] = none ∧ laneCount (vSeen.rowType 33) = 1024 ∧ vSeen.readX 4 5 = 1023 ∧ vSeen.readX 4 6 = 1024 ∧
    vSeen.vCheck [{ r := 33, write := true, read := false, ok := typeKind (vSeen.rowType 33) != 0 }] = none ∧
    vSeen.vCheck (sameOps [0, 1, 2, 3] 0 false [1] vSeen) = none := by
  unfold State.opens State.issues; decide +kernel
/-- QueueRowWordsComplete: with a true guard and with a false one. -/
theorem witness_QueueRowWords : vStream.issues (.vpop z tt 33 16) z ∧ vStream.vpopCheck (vStream.guard tt) 33 16 = none ∧ vStream.rowHere vStream.cur 16 vStream.str.nextId = true ∧
    (vStream.opened z).vpopCheck ((vStream.opened z).guard tt) 33 16 = none ∧
    ((vStream.opened z).tqHead (qName 16) (vStream.opened z).now).map (·.tag) = some ((vStream.opened z).rowType 33) ∧
    ((vStream.opened z).popRow (vStream.opened z).cur 16 true (vStream.opened z).rmode).toBool = true ∧ vStream.issues (.vpop z { tt with pn := true } 33 16) z ∧
    vStream.vpopCheck false 33 16 = none ∧ ((vStream.opened z).popRow (vStream.opened z).cur 16 false (vStream.opened z).rmode).toBool = true ∧
    (∀ b ∈ [true, false], vStream.issues (.vpush z { tt with pn := !b } 17 33) z ∧ vStream.vpushCheck b 17 33 = none ∧ (vStream.opened z).vpushCheck b 17 33 = none) ∧ vStream.rowRoom vStream.cur 17 = true ∧
    vStream.issues (.chain z tt 16 17 0 7) z ∧ vStream.issues (.chain z tt 16 17 0 0) z ∧
    (vStream.opened z).chainCheck true 16 17 ((vStream.opened z).chainEntry 3 0) = none := by
  unfold State.issues; decide +kernel

/-! ## Witnesses: C's words and the system core's -/

/-- A C stream over a well-formed launch record at 64 (a descriptor at 0, address space 0, die 0), one of die 1 alone at 128, a malformed one at 192. -/
def launcher (f : Die → Die := id) : State := on .c [(3, 64), (4, 128), (5, 192), (6, 0x2000), (7, 5), (8, 2 ^ 24), (9, 0x200000005)]
  (fun j => { j with kernel := { j.kernel with sp := [16, 0, 0, 0], chan := 2 }, sp := [(0x58, 0x10), (0x98, 0x20)] }) f
/-- CounterWordsComplete: a counter of this die, one of another die without scope, an amount that is too large; on C and on the system core. -/
theorem witness_CounterWords : let bad (u : State) (c : Word) : Bool := bits c 63 14 != 0 || !u.live (Fin.ofNat 4 (bits c 13 12)) ||
      (bits c 13 12 != (whoDie u.cur).val && !(u.dc (Fin.ofNat 4 (bits c 13 12)) (bits c 11 0)).scope)
    launcher.opens (.depdec z tt 7 7) z tt ∧ bad (launcher.opened z) 5 = false ∧ bits (5 : Word) 63 24 = 0 ∧
    launcher.opens (.depset z tt 7 7 3) z tt ∧ (5 : Word) &&& ~~~0x1300FFFFFF = 0 ∧ bits (5 : Word) 33 32 = 0 ∧ launcher.opens (.depread z tt 1 7) z tt ∧
    launcher.opens (.depset z tt 7 9 3) z tt ∧ (0x200000005 : Word) &&& ~~~0x1300FFFFFF = 0 ∧ bits (0x200000005 : Word) 33 32 = 2 ∧
    launcher.opens (.depdec z tt 6 7) z tt ∧ launcher.opens (.depset z tt 6 7 3) z tt ∧ launcher.opens (.depread z tt 1 6) z tt ∧ bad (launcher.opened z) 0x2000 = true ∧
    launcher.opens (.depdec z tt 7 8) z tt ∧ bits (2 ^ 24 : Word) 63 24 = 1 ∧
    (onSys [(7, 5), (8, 2 ^ 32 + 1), (9, 0x800000040)]).opens (.depset z tt 7 8 9) z tt ∧ (2 ^ 32 + 1 : Word) &&& ~~~0x1300FFFFFF = 0 ∧
    (sysFrame 0 0x800000040 64).isSome = true := by
  unfold State.opens State.issues; decide +kernel
/-- LaunchAndAbortWordsComplete: with die 1 fenced, a record of each kind; a disabled queue. -/
theorem witness_LaunchAndAbort : let s : State := { launcher with dies := launcher.dies.set 1 { fenced := true } }
    let off : State := launcher fun x => { x with lqs := x.lqs.set 0 { enable := false } }
    (∀ r ∈ ([3, 4, 5] : List (BitVec 5)), s.opens (.launch z tt r 0 1) z tt ∧ launchRoom r 0 s = true ∧ s.readsNow z = true ∧ (s.opened z).launchPlaceBad ((s.opened z).readX 0 r).toNat = false) ∧
    launchBad (((s.opened z).jb.spRead 64 64).map (·.1)) = false ∧ launchBad (((s.opened z).jb.spRead 128 64).map (·.1)) = false ∧
    launchBad (((s.opened z).jb.spRead 192 64).map (·.1)) = true ∧ ((s.opened z).jb.spRead 64 192).any (·.2) = false ∧
    (launchOf (((s.opened z).jb.spRead 64 64).map (·.1))).dies = 1 ∧ (launchOf (((s.opened z).jb.spRead 128 64).map (·.1))).dies = 2 ∧
    (launchOf (((s.opened z).jb.spRead 64 64).map (·.1))).asn = (s.opened z).jb.asn ∧ (s.opened z).live 0 = true ∧ (s.opened z).live 1 = false ∧
    ((s.opened z).lq 0 0).enable = true ∧ off.opens (.launch z tt 3 0 1) z tt ∧ ((off.opened z).lq 0 0).enable = false ∧ s.opens (.abort z tt 42) z tt := by
  unfold State.opens State.issues; decide +kernel
/-- SystemAccessWordsComplete: JOBSTAT's register page, an odd address, no region, a locked register. -/
theorem witness_SystemAccess : let s := onSys [(1, 0x300000000), (2, 0x300000004), (3, 0x700000000), (4, 7)]
    let locked := onSys [(1, 0x440020000), (4, 1)] fun x => { x with lockstat := 1 }
    (∀ i ∈ ([.sysrd z tt 5 1, .syswr z tt 4 1, .sysrd z tt 5 2, .syswr z tt 4 2, .sysrd z tt 5 3, .syswr z tt 4 3, .tlbinv z tt 1 2 5] : List Instr), s.opens i z tt) ∧
    sysMapped 0 0x300000000 = true ∧ sysMapped 0 0x700000000 = false ∧
    (match (s.opened z).sysWrite 0 0x300000000 7 with
      | .locked => false
      | _ => true) = true ∧
    locked.opens (.syswr z tt 4 1) z tt ∧ sysMapped 0 0x440020000 = true ∧
    (match (locked.opened z).sysWrite 0 0x440020000 1 with
      | .locked => true
      | _ => false) = true := by
  unfold State.opens State.issues; decide +kernel
/-- A die whose record 0 holds a running job, record 1 a stopped one, record 2 one a KILL already asks for. -/
def handles : State := onSys [(1, 0), (2, 1), (3, 2), (4, 3), (5, 256)] fun x => { x with
  recs := ((x.recs.set 0 { job := some (job []) }).set 1 { job := some { job [] with idx := 1, phase := .saved, home := none, trapCause := 0x10 } }).set 2
    { job := some { job [] with idx := 2, phase := .stopping .kill 0 } } }
/-- RequestWordsComplete: a handle of no job, one with an earlier request in progress, jobs in the right state and in the wrong one. -/
theorem witness_RequestWords : (∀ i ∈ ([.resume, .kill, .suspend] : List (Hdr → Guard → BitVec 5 → Instr)), ∀ r ∈ ([1, 2, 3, 4, 5] : List (BitVec 5)),
      handles.opens (i z tt r) z tt) ∧ ((handles.opened z).die 0).recs[bits (256 : Word) 6 0]?.map (fun y => y.gen != (256 : Word).extractLsb' 8 24) = some true ∧
    ((handles.opened z).die 0).recs[bits (3 : Word) 6 0]?.map (fun y => (y.gen == (3 : Word).extractLsb' 8 24, y.job.isNone)) = some (true, true) ∧ (handles.opened z).job? 0 3 = none ∧
    (∀ n ∈ ([0, 1, 2] : List Nat), ((handles.opened z).job? 0 n).map (fun j => handleOf j.gen j.idx) = some (BitVec.ofNat 32 n)) ∧
    ((handles.opened z).job? 0 2).map Job.requested = some true ∧ ((handles.opened z).job? 0 1).map Job.resumable = some true ∧
    ((handles.opened z).job? 0 0).map Job.resumable = some false ∧ ((handles.opened z).job? 0 0).map Job.killable = some true ∧
    ((handles.opened z).job? 0 0).map Job.settled = some true ∧ ((handles.opened z).job? 0 1).map Job.settled = some false := by
  unfold State.opens State.issues; decide +kernel
/-- The system core over buffer 1: unbacked, 2^40 bytes, its page table's root in frame 5, whose first entry points to frame 6; die 1 fenced. x1 buffer 1,
x2 die 1, x3 die 2, x5 an address in it, x6 a leaf of 2^36 bytes at frame 0, x7 one of 16 KiB, x8 one of 4 KiB, x9 key slot 3, x10 no key slot; x20-x23 an entry. -/
def tables : State := { onSys [(1, 2 ^ 52), (2, 1), (3, 2), (4, 2 ^ 52 + 4096), (5, 2 ^ 52), (6, 12 * 2 ^ 60), (7, 2 ^ 60), (8, 0), (9, 0x10003), (10, 0x10100), (11, 2 ^ 63 + 5),
    (12, 2 ^ 64 - 1), (13, 2 ^ 62), (20, 4096), (22, 35)]
    (fun x => { x with segs := [(1, BitVec.ofNat 256 (2 ^ 40 + 3 * 2 ^ 128 + 2 ^ 133 + 2 ^ 127 + 5 * 2 ^ 64))] }) with lpddr := [(0x5000, 1), (0x5001, 0x60)] }
def fenced1 : State := { tables with dies := tables.dies.set 1 { fenced := true } }
/-- TableWordsComplete: SEGSET and MIGRATE. -/
theorem witness_TableWords_segments : let e := (tables.opened z).seg 0 0 1
    let v (r : BitVec 5) : BitVec 256 := (tables.opened z).readX 4 (r + 3) ++ (tables.opened z).readX 3 (r + 2) ++ (tables.opened z).readX 2 (r + 1) ++ (tables.opened z).readX 1 r;
    (∀ i ∈ ([.segset z tt 1 20, .segset z tt 0 20, .migrate z tt 0 3, .migrate z tt 1 0, .migrate z tt 1 3] : List Instr), tables.opens i z tt) ∧
    segBad 1 (v 20) = false ∧ segBad 0 (v 20) = true ∧ segLen e ≠ 0 ∧ segKind e = 3 ∧ segHome e = 0 ∧ (tables.opened z).live 2 = true ∧
    (tables.opened z).pinned 2 + (tables.opened z).reservedLines 0 1 - pinBound = 0 ∧ fenced1.opens (.migrate z tt 1 2) z tt ∧ (fenced1.opened z).live 1 = false := by
  unfold State.opens State.issues; decide +kernel
/-- One pinned line more than the target die holds (R229). -/
def crowd : Map Line := List.replicate 3342337 (0, { home := 2, locks := [(0, 0)] })
def crowded (l : Map Line) : State := { tables with masters := l }
theorem crowd_length : (crowd.filter fun e => e.2.home == 2 && (e.2.locks != [] || e.2.ub)).length = 3342337 := by
  rw [crowd, List.filter_replicate_of_pos rfl, List.length_replicate]
theorem crowded_pinned (l : Map Line) : ((crowded l).opened z).pinned 2 = (l.filter fun e => e.2.home == 2 && (e.2.locks != [] || e.2.ub)).length := rfl
theorem crowded_opens (l : Map Line) : (crowded l).opens (.migrate z tt 1 3) z tt := ⟨⟨by rfl, by rfl⟩, by rfl⟩
theorem over_bound (a b : Nat) (h : a = 3342337) : a + b - pinBound ≠ 0 := by unfold pinBound; omega
theorem witness_TableWords_crowded : (crowded crowd).opens (.migrate z tt 1 3) z tt ∧
    ((crowded crowd).opened z).pinned 2 + ((crowded crowd).opened z).reservedLines 0 1 - pinBound ≠ 0 :=
  ⟨crowded_opens crowd, over_bound _ _ ((crowded_pinned crowd).trans crowd_length)⟩
/-- FRAME: a leaf that is written, one not aligned, one whose table is not there, one off an unbacked buffer; ROUTEW: a key slot, a locked table, an index
beyond the table, a reserved bit. -/
theorem witness_TableWords_pages : let e := (tables.opened z).seg 0 0 1
    let locked := onSys [(9, 0x10003)] fun x => { x with lockstat := 2 }
    (∀ i ∈ ([.frame z tt 5 6, .frame z tt 4 7, .frame z tt 4 8, .frame z tt 0 8, .routew z tt 9 11, .routew z tt 10 11, .routew z tt 9 12] : List Instr), tables.opens i z tt) ∧
    2 ^ 36 ≤ segLen e ∧ segHasRoot e = true ∧ (tables.opened z).leafPlace 0 3 5 (segRoot e) = some 0x6000 ∧ 4096 % 16384 ≠ 0 ∧
    (tables.opened z).leafPlace 4096 0 5 (segRoot e) = none ∧ locked.opens (.routew z tt 9 11) z tt ∧ ((locked.opened z).die 0).lockstat.getLsbD 1 = true ∧
    ((tables.opened z).die 0).lockstat = 0 ∧ (2 ^ 63 + 5 : Word) &&& 0x7FFFFFFFFFFF0000 = 0 := by
  unfold State.opens State.issues; decide +kernel

/-! ## Witnesses: the machine's own steps -/

/-- A stream of core 0, slot 0. -/
def w0 (e : Engine) : Who := .eng 0 0 0 e
/-- A word in flight, number 7, at word 0. -/
def fl (work : Work) (land : Option Nat := none) : Flight := { id := 7, pc := 0, issued := 0, land := land, work := work }
/-- A package whose job has that word in flight on every stream. -/
def flying (f : Flight) (g : Job → Job := id) (x : Die → Die := segs) : State :=
  on .a [] (fun j => g (declared { j with streams := j.streams.map fun st => { st with flights := [f] } })) x

/-- LandingStepsCompleteWords: each work that lands by its cycle; a HOLD; a TRAP. -/
theorem witness_LandingSteps : (∀ k ∈ ([.fixed, .tksend .c 3, .acq 3, .phase 3 []] : List Work), (flying (fl k (some 0))).flight? (w0 .m) 7 = some (fl k (some 0))) ∧
    (fl .fixed (some 0)).halted = false ∧ (flying (fl .hold (some 0))).mayStep (w0 .c) = true ∧
    ((flying (fl .hold (some 0))).stream? (w0 .c)).map (fun st => st.flights.find? fun x => x.work == .hold && x.landed 0) = some (some (fl .hold (some 0))) ∧
    (flying (fl (.trap 5 6) (some 0))).flight? (w0 .v) 7 = some (fl (.trap 5 6) (some 0)) ∧ (fl (.trap 5 6) (some 0)).landed ((flying (fl (.trap 5 6) (some 0))).timeOf (w0 .v)) = true ∧
    ((flying (fl (.trap 5 6) (some 0))).jobOf? (w0 .v)).map (fun j => j.issuing 0) = some true := by decide +kernel

/-- The first two lines of the unbacked buffer, with data and no frame; the first one poisoned or not. -/
def lines (data : BitVec 1024) (poison : Bool) (s : State) : State :=
  { s with masters := [(ubKey 0 1 0, { ub := true, data := data, poison := poison, dirty := 1 }), (ubKey 0 1 1, { ub := true, dirty := 1 })] }
/-- Does a read give bytes, all of them without a mark (false) or one with a mark (true)? -/
def gives (p : Bool) : Moved (List (Byte × Bool)) → Bool
  | .ok l _ => l.any (·.2) == p
  | _ => false
/-- AccessStepsCompleteWords: LDX with good data and with a poisoned line, RPROBE and LOCK, STX, an index, REL. -/
theorem witness_AccessSteps : let x := fl (.ldx (2 ^ 52) 3 true 5)
    let y := fl (.stx (2 ^ 52 + 8) [1, 2, 3, 4])
    (∀ p ∈ [false, true], (lines 5 p (flying x)).flight? (w0 .a) 7 = some x ∧ (lines 5 p (flying x)).ordHeld (w0 .a) (bufOf (2 ^ 52)) = false ∧
      (lines 5 p (flying x)).mayAccess (w0 .a) x [(2 ^ 52, 8)] true = true ∧ gives p ((lines 5 p (flying x)).readPiece (w0 .a) (2 ^ 52) 8 true (some [])) = true) ∧
    (flying (fl (.probe 0 0 0 5))).flight? (w0 .a) 7 = some (fl (.probe 0 0 0 5)) ∧ (flying (fl (.lock true 0 0 5))).flight? (w0 .a) 7 = some (fl (.lock true 0 0 5)) ∧
    (lines 5 false (flying y)).flight? (w0 .a) 7 = some y ∧ (lines 5 false (flying y)).ordHeld (w0 .a) (bufOf (2 ^ 52 + 8)) = false ∧
    (lines 5 false (flying y)).mayAccess (w0 .a) y [(2 ^ 52 + 8, 4)] false = true ∧
    ((lines 5 false (flying y)).writeVa (w0 .a) 7 (2 ^ 52 + 8) [(1, false), (2, false), (3, false), (4, false)]).toBool = true := by decide +kernel
theorem witness_AccessSteps_order : ∀ cur ∈ ([none, some { idx := 8, since := 0 }] : List (Option IndexCur)),
    let x := fl (.index 0 2 1 rowsTensor 7 1 4 0 cur)
    (flying x).mayStep (w0 .a) = true ∧ ((flying x).stream? (w0 .a)).map (fun st => st.flights.find? fun y => !y.halted && (match y.work with
      | .index _ _ _ t _ _ n done _ => decide (done < n) && !(flying x).ordHeld (w0 .a) (bufOf (tBase t))
      | _ => false)) = some (some x) ∧
    ((flying x).jobOf? (w0 .a)).isSome = true ∧ indexOor 1 rowsTensor 8 = true ∧
    (flying (fl (.rel 3 []))).flight? (w0 .a) 7 = some (fl (.rel 3 [])) ∧ (flying (fl (.rel 3 []))).backsOver (w0 .a) (fl (.rel 3 [])) = true ∧
    (flying (fl (.rel 3 []))).released (w0 .a) (fl (.rel 3 [])) 3 = true := by decide +kernel

/-- A transfer of tensor 1 to the bytes after it. -/
def xfer : Xfer := { src := tensorOf 0 6 4 16 0, dst := tensorOf 0 6 4 16 128, spec := 0, sorg := 0, dorg := 0 }
/-- The same as a transfer record that a channel owns (R331). -/
def recordImage : BitVec 1024 := BitVec.ofNat 1024 (2 ^ 127 + 2 ^ 192 * (6 * 2 ^ 56 + 4 * 2 ^ 40 + 16 * 2 ^ 24 + 16) + 2 ^ 256 * 128 + 2 ^ 320 * (6 * 2 ^ 56 + 4 * 2 ^ 40 + 16 * 2 ^ 24 + 16))
/-- A package whose T has that word in flight, with channel 1 as given. -/
def copying (f : Flight) (ch : Channel) : State := flying f fun j => { j with chans := j.chans.set 1 ch }
/-- ChannelStepsMoveTransfers: an accepted XCOPY, a granule, a chain's end, a record that begins. -/
theorem witness_ChannelSteps : let f := fl (.xcopy 1 xfer)
    ((copying f {}).tStream 0 0 0).map (fun p => (p.1, (p.2.streams[(2 : Fin 5)]).flights.find? fun y => !y.halted && (match y.work with
      | .xcopy .. => true
      | _ => false), (p.2.chan 1).xfers.length)) = some (w0 .t, some f, 0) ∧ (copying f {}).bufHeldAny (w0 .t) xfer.bufs = false ∧ ((copying f {}).resolveDirs 0 0 xfer.indices).1.toBool = true ∧
    (let s := copying (fl .fixed) { st := .busy, xfers := [xfer] };
      (s.tStream 0 0 0).map (fun p => (p.1, (p.2.chan 1).xfers, (p.2.chan 1).st, (p.2.chan 1).wp)) = some (w0 .t, [xfer], .busy, 0) ∧
      (s.tStream 0 0 0).map (fun p => ((p.2.chan 1).flying, xfer.cov.any p.2.outstanding)) = some (0, false) ∧ 0 - xfer.start < xfer.total ∧
      (xfer.dataBufs.any fun b => s.ordHeld (w0 .t) b) = false ∧ s.rangesWait (w0 .t) false (xfer.lines 0 (min xfer.unit xfer.total)) = false ∧ xsComp xfer.spec = 0 ∧ (s.moveGranule (w0 .t) (channelWrites 1) xfer 0 (min xfer.unit xfer.total) []).toBool = true) ∧
    (let s := copying (fl .fixed) { st := .busy, recVa := some 0 };
      (s.tStream 0 0 0).map (fun p => (p.1, (p.2.chan 1).recVa, (p.2.chan 1).st, (p.2.chan 1).running)) = some (w0 .t, some 0, .busy, false)) := by decide +kernel
theorem witness_ChannelSteps_records : let s := lines recordImage false (copying (fl .fixed) { st := .busy, recVa := some 0x10000000000000 });
    (s.tStream 0 0 0).map (fun p => (p.1, (p.2.chan 1).recVa, (p.2.chan 1).st, (p.2.chan 1).running)) = some (w0 .t, some 0x10000000000000, .busy, false) ∧
    (s.tStream 0 0 0).map (fun p => ((p.2.chan 1).image, (p.2.chan 1).cov.any p.2.outstanding)) = some ([], false) ∧ s.rangesWait (w0 .t) false [(2 ^ 52, 64)] = false ∧
    s.bufHeldAny (w0 .t) [bufOf (2 ^ 52)] = false ∧ (match s.readVa (w0 .t) (2 ^ 52) 64 false (some []) with
      | .ok l t => let x := recXfer (l.map (·.1)) 0 0x10000000000000; let u := t.updJobOf (w0 .t) fun j => j.moved (bufOf (2 ^ 52)) 64
          !l.any (·.2) && (recCtl (l.map (·.1))).getLsbD 63 && !u.bufHeldAny (w0 .t) x.bufs && (u.recordBad (w0 .t) 0x10000000000000 (l.map (·.1)) x 0 (2 ^ 17)).isNone &&
          (u.resolveDirs 0 0 x.indices).1.toBool
      | _ => false) = true ∧
    (let s := lines recordImage false (copying (fl .fixed) { st := .busy, recVa := some 0x10000000000000, running := true, xfers := [xfer], wp := xfer.total });
      (s.tStream 0 0 0).map (fun p => (p.1, (p.2.chan 1).xfers, (p.2.chan 1).recVa, (p.2.chan 1).running, (p.2.chan 1).st)) = some (w0 .t, [xfer], some 0x10000000000000, true, .busy) ∧
      xfer.start + xfer.total ≤ xfer.total ∧ s.ordHeld (w0 .t) (bufOf (2 ^ 52)) = false ∧ s.rangesWait (w0 .t) false [(2 ^ 52 + 8, 8)] = false ∧
      (match s.writeCtl (w0 .t) 1 0x10000000000000 (recStatus (recCtl []) false 0 xfer.total) with
        | .ok _ => true
        | _ => false) = true) := by decide +kernel
/-- A job whose T is at its END with a stop to take; a T with a TQIN in flight and an entry in its queue. -/
def stopWaits : State := on .t [] fun j => { j with pgmStop := [{ cause := .pgmRate }], streams := j.streams.map fun st => { st with atEnd := true } }
def tqinWaits : State := flying (fl (.tqin 16 (tensorOf 0 6 4 16 0) 0 none)) fun j => { j with tqs := j.tqs.set 0 { entries := [{ image := 1, tag := 6 }] } }
def tqinSeen : State := { tqinWaits with cur := w0 .t }
/-- The same: a stop that waits for T, a TQIN that waits for its entry. -/
theorem witness_ChannelSteps_waits :
    (stopWaits.job? 0 0).map (fun j => (j.home, j.issuing 0, (j.streams[(2 : Fin 5)]).atEnd)) = some (some (0, 0), true, true) ∧
    (stopWaits.job? 0 0).map (fun j => j.pending) = some [{ cause := .pgmRate }] ∧ (stopWaits.job? 0 0).map (fun j => (j.streams[(2 : Fin 5)]).flights) = some [] ∧ stopWaits.live 0 = true ∧
    (tqinWaits.tStream 0 0 0).map (fun p => (p.1, (p.2.streams[(2 : Fin 5)]).flights.find? fun y => !y.halted && (match y.work with
      | .tqin _ _ _ m => m.isNone
      | .tqout _ _ _ l => !l
      | _ => false))) = some (w0 .t, some (fl (.tqin 16 (tensorOf 0 6 4 16 0) 0 none))) ∧
    tqinSeen.tqHead (qName 16) 0 = some { image := 1, tag := 6 } ∧ tFmt (tensorOf 0 6 4 16 0) = 6 ∧
    (let f := fl (.tqout 16 (tensorOf 0 6 4 16 0) 0 false); let s := flying f
      (s.tStream 0 0 0).map (fun p => (p.1, (p.2.streams[(2 : Fin 5)]).flights.find? fun y => !y.halted && (match y.work with
        | .tqin _ _ _ m => m.isNone
        | .tqout _ _ _ l => !l
        | _ => false))) = some (w0 .t, some f) ∧
      State.tqRoom { s with cur := w0 .t } (qName 16) = true ∧ State.acquired { s with cur := w0 .t } (w0 .t) f = true) := by decide +kernel

/-- A core whose message queue 1 is bound to the job: 64-byte entries, four of them, two filled; a request and an append wait. -/
def mailbox (g : Job → Job := id) : State :=
  { on .a [] (fun j => g { declared j with sp := [(4, 1)] }) (fun x => { x with cores := x.cores.set 0 { (x.cores[0]) with
    mqs := (x.cores[0]).mqs.set 1 { valid := true, log2 := 6, count := 4, tail := 2, reqs := [{ pkg := 0, die := 0, core := 0, slot := 0 }]
                                    appends := [{ sender := { pkg := 0, die := 0, core := 0, slot := 0 }, gen := 0, data := List.replicate 64 1, tag := some 0 }], heads := [1] } } }) with packageId := 0 }
/-- MessageQueueSteps: bindings at the ends of the sizes they take and beyond, a credit request, an append, a HEAD that frees one entry, an MSEND that waits. -/
theorem witness_MessageQueueSteps : bits (0x40 : Word) 5 0 = 0 ∧ bits (6 * 2 ^ 56 : Word) 59 56 = 6 ∧ bits (12 * 2 ^ 56 : Word) 59 56 = 12 ∧ bits (0x41 : Word) 5 0 ≠ 0 ∧
    bits (5 * 2 ^ 56 : Word) 59 56 < 6 ∧ 12 < bits (13 * 2 ^ 56 : Word) 59 56 ∧ (mailbox.mq 0 0 1).reqs = [{ pkg := 0, die := 0, core := 0, slot := 0 }] ∧
    (mailbox.mq 0 0 1).valid = true ∧ mailbox.mqOwner 0 0 (mailbox.mq 0 0 1) = some 0 ∧ (mailbox.mq 0 0 1).free = 1 ∧ mailbox.packageId = 0 ∧
    (mailbox.mq 0 0 1).appends ≠ [] ∧ (mailbox.job? 0 0).map (fun j => leNat ((j.spRead ((mailbox.mq 0 0 1).offset.toNat + 4) 4).map (·.1))) = some 1 ∧
    (mailbox.mq 0 0 1).heads = [1] ∧ (mailbox.job? 0 0).map (fun j => mailbox.bankTag 0 0 j (mailbox.mq 0 0 1).offset.toNat) = some 0 := by decide +kernel
theorem witness_MessageQueueSteps_credit : let f := fl (.msend 2 5 8 none [])
    let s := flying f fun j => { j with mqcred := [{ tgt := 5, gen := 1, esz := 64, n := 8, asked := true }] }
    (s.slotJob? 0 0 0).map (fun j => (j.issuing (s.timeOf (w0 .a)), j.msend? true, j.credit? 5)) =
      some (true, some f, some { tgt := 5, gen := 1, esz := 64, n := 8, asked := true }) ∧ s.live 0 = true ∧ s.refusedApp 0 (s.recOf (w0 .a)) = none := by decide +kernel

/-! ## Witnesses: programming, the array, chains -/

/-- A T stream that sent a programming request, 8 cycles on. -/
def requesting (r : PgmReq) : State := flying (fl (.pgm r 0 64)) id at8
/-- ProgrammingSteps, PGM_ACCEPT: a row and a tile image, from its cycle on. -/
theorem witness_ProgrammingSteps_accept : ∀ p ∈ ([(.row 5 0, 4), (.tile 3 0 [], 5), (.ret 9, 4)] : List (PgmKind × Nat)),
    let r : PgmReq := { jrec := 0, gen := 0, tag := 0, kind := p.1, dc := none }
    let s := requesting r
    (s.tStream 0 0 0).map (fun q => (q.1, (q.2.streams[(2 : Fin 5)]).flights.find? fun y => !y.halted && (match y.work with
      | .pgm .. => true
      | _ => false))) = some (w0 .t, some (fl (.pgm r 0 64))) ∧
    (match r.kind with
      | .tile .. => (0 : Nat) + 4 + cdiv 64 512
      | _ => 0 + 4) = p.2 ∧ p.2 ≤ s.timeOf (w0 .t) ∧ s.acquired (w0 .t) (fl (.pgm r 0 64)) = true := by decide +kernel
/-- A row request; a package whose column 3 of die 1 stands so, its groves' clock far on. -/
def rowReq : PgmReq := { jrec := 0, gen := 0, tag := 7, kind := .row 5 1, dc := none }
def programming (y : Column) : State :=
  { State.reset with clock := { tick := 1700000 }, dies := State.reset.dies.set 1 { columns := (Vector.replicate 64 {}).set 3 y
                                                                                    groves := Vector.replicate 8 { cyc := 1048576 } } }
theorem witness_ProgrammingSteps_column :
    (let s := programming { queue := [rowReq] };
      (s.column 1 3).queue = [rowReq] ∧ (s.column 1 3).run = none ∧ s.live 1 = true ∧ (s.column 1 3).lost = false ∧ rowReq.kind = .row 5 1) ∧
    (let r : PgmRun := { req := rowReq, rows := [(5, 1)], prow := some 0x400000, since := 16991500 }
      let s := programming { run := some r };
      (s.column 1 3).run = some r ∧ r.prow = some 0x400000 ∧ r.rows = [(5, 1)] ∧ s.live 1 = true ∧ (s.column 1 3).lost = false ∧ r.since + 8500 ≤ s.time ∧
      (s.column 1 3).treeUe = false) ∧
    (let s := programming {};
      s.live 1 = true ∧ s.time / 17000000 ≠ (s.grove 1 0).govStart / 17000000 ∧ ∀ col, groveOf col = 0 → (s.column 1 col).run = none) ∧
    (let r : PgmRun := { req := { rowReq with deferred := some 0 }, rows := [(5, 1)] }
      let s := programming { run := some r };
      (s.column 1 3).run = some r ∧ r.req.deferred = some 0 ∧ 0 + 2 ^ 20 ≤ (s.grove 1 (groveOf 3)).cyc ∧ ∀ l, r.req.kind ≠ .rewrite l) := by
  refine ⟨by decide +kernel, by decide +kernel, by decide +kernel, by decide +kernel, rfl, by decide +kernel, ?_⟩
  intro l h; exact nomatch h

/-- An MMA of tensors 4 and 5 into tile 0: K-step 0. -/
def mma0 : Mma := { z := 0, at_ := 4, bt := 5, ta := tensorOf 0 0 32 32 8192, tb := tensorOf 0 0 32 32 65536, idx := 0, kr := 2 ^ 32, ck := true, dirs := [] }
def multiplying (start : Option Int) : State := flying (fl (.mma mma0 0 start)) (fun j => { j with tiles := j.tiles.set 0 { ty := 8 } }) fun x =>
  let y := at8 (segs x)
  { y with cores := y.cores.set 0 { (y.cores[0]) with array := [{ slot := 0, id := 7 }] } }
/-- ArrayAndChainSteps: an MMA that starts, and its last K-step. -/
theorem witness_ArraySteps : (let s := multiplying none;
      (s.core 0 0).array = [{ slot := 0, id := 7 }] ∧ s.flight? (w0 .m) 7 = some (fl (.mma mma0 0 none))) ∧
    (let s := multiplying (some 0);
      (s.core 0 0).array = [{ slot := 0, id := 7 }] ∧ s.flight? (w0 .m) 7 = some (fl (.mma mma0 0 (some 0))) ∧ (0 : Int) + mma0.due 0 ≤ (s.timeOf (w0 .m) : Nat) ∧
      s.mayAdd (w0 .m) (mma0.begun 0 0) (0 + mma0.due 0) = true ∧ s.acquired (w0 .m) (fl (.mma mma0 0 (some 0))) = true ∧ (match s.addKStep (w0 .m) mma0 false 0 0 with
        | .added .. => true
        | _ => false) = true) := by decide +kernel
/-- An M stream with a TEND of tile 1's window, its result there at cycle 0. -/
def ending (v : Window) : State :=
  flying (fl (.tend 1 none 0 none 0)) fun j => { j with tiles := j.tiles.set 1 { win := some v } }
theorem witness_TendCheck : ∀ v ∈ ([{}, { err := true, replayable := false }, { err := true, retained := [mma0], replays := 1 }] : List Window),
    ((ending v).slotJob? 0 0 0).map (fun j => (j.streams[(3 : Fin 5)]).flights.find? fun f => !f.halted && (match f.work with
      | .tend _ replaying _ _ result => replaying.isNone && decide (result ≤ (ending v).timeOf (w0 .m))
      | _ => false)) = some (some (fl (.tend 1 none 0 none 0))) ∧ ((ending v).slotJob? 0 0 0).map (fun j => ((j.tile 1).win, (j.tile 1).armed)) = some (some v, false) ∧
    (State.seenTile { ending v with cur := w0 .m } 1).erred = v.err ∧ (mma0.nk != 0) = true ∧ ((5 : Nat) : Int) ≤ mma0.begun 0 5 := by
  decide +kernel
theorem witness_ChainRow : ((flying (fl (.chain 0 1 0 [] true 2 0 0 none 0))).stream? (w0 .v)).isSome = true := by decide +kernel

/-! ## Witnesses: counters, rings, launches -/

/-- A package whose die 2 stands so. -/
def package (x : Die) : State := { State.reset with dies := State.reset.dies.set 2 x }
/-- CounterAndRingSteps: a decrement, a record to enter, a ring with one record to pull and with as many as it holds. -/
theorem witness_CounterAndRing : ((package { decs := [{ ctr := 5, amt := 1 }] }).die 2).decs = [{ ctr := 5, amt := 1 }] ∧
    (let x : Die := { onZero := [(5, {}, 3)] };
      ((package x).die 2).onZero.findIdx? (fun r => ((package x).lq 2 r.2.2).accepts) = some 0 ∧ ((package x).die 2).onZero[0]? = some (5, ({} : LaunchRec), 3)) ∧
    (package {}).live 2 = true ∧ (package {}).hostOpen = true ∧
    (∀ t ∈ ([1, 8] : List Nat), let s := package { lqs := (Vector.replicate 16 {}).set 4 { ringBase := 0x1000, ringSize := 8, tail := BitVec.ofNat 32 t } }
      s.live 2 = true ∧ (s.lq 2 4).enable = true ∧ (s.lq 2 4).recs.length < 64 ∧ (s.lq 2 4).overNoted = false ∧ (s.lq 2 4).ringSize ≠ 0 ∧
      0 < ((s.lq 2 4).tail - (s.lq 2 4).head).toNat ∧ ((s.lq 2 4).tail - (s.lq 2 4).head).toNat ≤ (s.lq 2 4).ringSize.toNat) := by
  decide +kernel
/-- A record whose descriptor is line 0 of buffer 1 (unbacked, two pages): five programs of one word at its second page (R339). -/
def launchRec : LaunchRec := { desc := 2 ^ 52 }
def descriptor : BitVec 1024 := BitVec.ofNat 1024 ((List.range 5).foldl (fun n e => n + 2 ^ (128 + 128 * e) * (2 ^ 52 + 4096) + 2 ^ (192 + 128 * e)) 0)
def queued (q : Lq) (launches : Map Launch) : State :=
  { package { lqs := (Vector.replicate 16 {}).set 4 q, launches := launches, segs := [(1, BitVec.ofNat 256 (8192 + 3 * 2 ^ 128 + 2 ^ 133))] } with
    masters := (List.range 8).map (fun i => (ubKey 0 1 i, { ub := true, data := if i = 0 then descriptor else 0 })) ++ [(ubKey 0 1 32, { ub := true })] }
theorem witness_LaunchSteps_check : let s := queued { recs := [launchRec] } []
    (s.lq 2 4).recs = [launchRec] ∧ (s.lq 2 4).entry = none ∧ s.live 2 = true ∧ (s.lq 2 4).enable = true ∧ (s.die 2).launches.length < 256 ∧
    (List.range 256).find? (fun n => ((s.die 2).launches.get? n).isNone) = some 0 ∧ (match s.readKernel 2 launchRec with
      | (.ok _, _) => true
      | _ => false) = true := by decide +kernel
/-- LAUNCH_READY, without a wait and with a counter at zero; dispatch stopped and not. -/
theorem witness_LaunchSteps : (∀ wen ∈ [false, true], let l : Launch := { record := { launchRec with wen := wen, waitdc := 5 }, kernel := {}, lq := 4 }
      let s := queued { recs := [launchRec], entry := some 0 } [(0, l)]
      (s.lq 2 4).entry = some 0 ∧ s.launchAt 2 0 = some l ∧ s.live 2 = true ∧ l.ready = none ∧ (l.record.wen = true → (s.dc 2 l.record.waitdc.toNat).value = 0)) ∧
    ((package {}).live 2 = true ∧ ((package {}).die 2).noDispatch = false) ∧ ((package { noDispatch := true }).die 2).noDispatch = true ∧
    (∀ c : CoreId, ((package {}).core 2 c).quarantined = false) := by decide +kernel
/-- A job saved by a pre-emption, in record 3; its launch is die 0's number 0. -/
def preempted : Rec := { job := some { idx := 3, phase := .saved, home := none, trapCause := BitVec.ofBool false ++ Cause.preempt.code, base := 7 } }
/-- A launch of one job, ready: of any die of the mask, or of that with its index. -/
def oneJob (dies : BitVec 4) (byDie : Bool) : Launch :=
  { record := { launchRec with dies := dies }, lq := 4, ready := some 0, total := 1
    kernel := { progs := List.replicate 5 [0], levels := if byDie then [some { kind := 2, rank := 0, extent := 1 }] else [] } }
def headReady (l : Launch) : State := package { lqs := (Vector.replicate 16 {}).set 4 { recs := [l.record], entry := some 0 }, launches := [(0, l)] }
def dispatching : State := package { recs := (Vector.replicate 128 {}).set 3 preempted }
def forwarded : State := package { launches := [(0, oneJob 4 false)], forwards := [{ owner := 2, launch := 0, job := 0, since := 0 }] }
/-- Every core has a job of its own, as many as DISPTHR lets it. -/
def full : State := package {
  dispthr := 1, cores := Vector.replicate 64 { slots := #v[some 0, none] }
  recs := ((Vector.replicate 128 {}).set 0 { job := some { phase := .running, home := some (0, 0), launch := 1 } }).set 3 preempted }
/-- The first candidate: its dies, whether its kernel goes by dies, and its place. -/
def firstOf (s : State) : Option (CandKind × List (Fin 4)) × Option (Bool × Option (Fin 4 × Fin 64)) :=
  let a := ((s.candidates 2).foldr insertCand []).head?
  (a.map fun a => (a.kind, a.dies), a.map fun a => (a.kernel.byDie, s.placeFor a))
/-- LaunchSteps, DISPATCH and PREEMPT: a saved job, a queue's head, a forwarded job, a job of another die, a full die with a victim. -/
theorem witness_LaunchSteps_dispatch : firstOf dispatching = (some (.saved 3, [2]), some (false, some (2, 0))) ∧
    ((dispatching.candidates 2).foldr insertCand []).head?.map (dispatching.columnGone 2) = some false ∧
    firstOf (headReady (oneJob 4 false)) = (some (.head 4 0, [2]), some (false, some (2, 0))) ∧ (headReady (oneJob 4 false)).launchAt 2 0 = some (oneJob 4 false) := by
  refine ⟨?_, ?_, ?_, ?_⟩ <;> decide +kernel
theorem witness_LaunchSteps_forward : firstOf forwarded = (some (.fwd { owner := 2, launch := 0, job := 0, since := 0 }, [2]), some (false, some (2, 0))) ∧ forwarded.launchAt 2 0 = some (oneJob 4 false) ∧
    firstOf (headReady (oneJob 8 true)) = (some (.head 4 0, [3]), some (true, some (3, 0))) ∧ ((package {}).candidates 2).isEmpty = true ∧
    (∀ s ∈ [dispatching, headReady (oneJob 4 false), forwarded, headReady (oneJob 8 true), full], s.live 2 = true ∧ (s.die 2).noDispatch = false) := by
  refine ⟨?_, ?_, ?_, ?_, ?_⟩ <;> decide +kernel
theorem witness_LaunchSteps_preempt : firstOf full = (some (.saved 3, [2]), some (false, none)) ∧ (∀ c : Fin 64, (full.core 2 c).quarantined = false) ∧
    ((full.candidates 2).foldr insertCand []).head?.map (fun a => (full.columnGone 2 a, (full.victimFor a).map fun v => (pkgCore v.1 v.2.2.1, v.2.2.2.1, v.2.2.2.2.phase))) =
      some (false, some (pkgCore 2 0, 0, .running)) := by decide +kernel

/-! ## Witnesses: jobs, the system core -/

/-- JobSteps: what a job's record shows in each phase. -/
theorem witness_JobSteps :
    (∀ p ∈ ([.starting, .saving .trap 7, .saving .suspend 7, .saving .preempt 7, .resuming, .restoring 8, .running] : List Phase),
      let s := on .c [] (fun j => { j with phase := p, stall := 0x01000001 }) at8
      (s.job? 0 0).map (fun j => (j.home, j.phase, j.stall)) = some (some (0, 0), p, 0x01000001) ∧ s.live 0 = true ∧ (s.core 0 0).quarantined = false ∧
      7 + 1 ≤ (s.grove 0 (groveOf 0)).cyc) ∧
    ((on .c []).job? 0 0).map (fun j => ((on .c []).launchCovered j.owner j.launch, j.ctxBad, (on .c []).hostAcked 0 0 j)) = some (false, none, true) ∧
    (on .c []).appendsDue 0 0 0 = false ∧ (on .c []).tagFlies 0 0 = false ∧
    ((on .c [] fun j => { j with streams := j.streams.set 4 { (j.streams[4]) with pc := 1 } }).job? 0 0).map Job.ctxBad = some (some 0x1168) ∧
    ((on .c []).die 0).wdog ≠ 0 ∧ ((on .c []).die 0).wdog.toNat < 0x01000001 := by decide +kernel
theorem witness_JobSteps_ends : (on .c [] fun j => { j with streams := j.streams.map fun st => { st with atEnd := true } }).mayRetire 0 0 = true ∧
    (∀ y ∈ ([.abort, .kill] : List StopKind), let s := on .c [] fun j => { j with phase := .stopping y 3 }
      (s.job? 0 0).map (fun j => (j.phase, s.storesDone 0 j 3)) = some (.stopping y 3, true)) ∧
    (let s := package { fenced := true };
      s.live 3 = true ∧ s.live 2 = false ∧ (s.die 3).notices.get? (0x200 + 2) = none ∧ s.master = 0 ∧ (3 : DieId) ≠ s.master) := by decide +kernel

/-- SystemSteps: events, held tables with their buffer quiet and busy, register writes. -/
theorem witness_SystemSteps : ((package { evq := [5] }).die 2).evq = [5] ∧ ((package {}).die 2).evq = [] ∧ ((package { evPend := [5] }).die 2).evPend = [5] ∧
    ((package { evPend := [5] }).die 2).evq.length < 512 ∧
    (∀ h ∈ ([.segset 1 0 (4096 + 2 ^ 133), .migrate 1 0 3] : List SysHold),
      ((package { sys := { hold := some h } }).sysc 2).hold = some h ∧ (package { sys := { hold := some h } }).live 2 = true ∧
      ((package { sys := { hold := some h } }).sysc 2).halted = false ∧ (package { sys := { hold := some h } }).bufQuiet 0 1 = true ∧
      (let s := on .c [] (fun j => { j with bufs := [{ buf := 1, busy := 2 }] }) fun x => { x with sys := { x.sys with hold := some h } };
        (s.sysc 0).hold = some h ∧ s.bufQuiet 0 1 = false)) := by decide +kernel
/-- A write of PWRLIM, and one of a place no SYSWR may write. -/
theorem witness_SystemSteps_writes : sysActs 0x300000000 7 = false ∧ State.reset.live 1 = true ∧ State.reset.sysWriteHeld 1 0x370000000 = false ∧ State.reset.sysWriteHeld 1 0x440000000 = false ∧
    (match State.reset.sysWrite 1 0x370000000 7 with
      | .done _ _ => true
      | _ => false) = true ∧ sysActs 0x370000000 7 = false ∧ sysActs 0x400000000 7 = false ∧
    (match State.reset.sysWrite 1 0x440000000 7 with
      | .refused => true
      | _ => false) = true ∧
    (let s : State := { State.reset with spdm := { fabric := some ([], true) } };
      s.spdm.fabric = some ([], true) ∧ ∀ key, State.reset.spdm.fabric ≠ some (key, true)) := by
  refine ⟨by decide +kernel, by decide +kernel, by decide +kernel, by decide +kernel, by decide +kernel, by decide +kernel, by decide +kernel,
    by decide +kernel, rfl, ?_⟩
  intro key h; exact nomatch h

/-! ## Witnesses: physics, links, the host, attestation -/

/-- A package whose die 2 stands so, 100000 ms on. -/
def later (x : Die) : State := { package x with clock := { tick := 170000000000 } }
/-- PhysicalSteps: samples, alarms, power and refresh. -/
theorem witness_PhysicalSteps : (∀ f ∈ ([0xFFF, 63] : List (BitVec 12)),
      let s (k : BitVec 4) : State := later { mons := (Vector.replicate 16 {}).set 15 { en := true, kind := k, filter := f } }
      ((s 3).die 2).mons[(15 : Fin 16)].wants 3 63 = true ∧ ((s 3).die 2).mons[(15 : Fin 16)].wantsHeld = false ∧ (s 2).live 2 = true ∧
      ((s 2).die 2).mons[(15 : Fin 16)].en = true ∧ ((s 2).die 2).mons[(15 : Fin 16)].kind = 2 ∧ ((s 2).die 2).mons[(15 : Fin 16)].last < (s 2).time / 17000) ∧
    ((package {}).masters.get? 5).isNone = true ∧ (((package {}).die 1).copies.get? 5).isNone = true ∧
    ((package {}).die 2).drpthr ≠ 0 ∧ ((package {}).die 2).drpthr.toNat ≤ 45 ∧
    (let s := package { groves := (Vector.replicate 8 {}).set 7 { throttling := true } };
      (s.grove 2 7).throttling = true ∧ (s.grove 2 7).reload = none ∧ (s.grove 2 7).stretch = 0 ∧ (s.grove 2 7).throttle = 0) ∧
    (let s := later { regions := [(255, { hot := true })] };
      s.live 2 = true ∧ (s.die 2).pwrWindow < s.time / 17000000 ∧ (s.die 2).thermAt < s.time / stampUnits ∧ (s.die 2).hot = true ∧
      bandWindow ((s.die 2).regions.getD ((16383 : Fin 16384).val / 64) {}).band * 500 ≤ s.rowAge 2 (16383 : Fin 16384).val * 64) ∧
    (let s := package { groupBad := [16383], groupErrs := [(7, List.replicate 8 0)] };
      s.live 2 = true ∧ (s.die 2).spareGroups ≠ 0 ∧ (s.die 2).groupDue (16383 : Fin 16384).val s.time = true ∧ (s.die 2).groupDue (7 : Fin 16384).val s.time = true ∧
      (s.die 2).groupDue (8 : Fin 16384).val s.time = false) ∧
    State.reset.retiredModules.contains (80 * (3 : Fin 4).val + (79 : Fin 80).val) = false ∧
    State.reset.lanes.getD (80 * (3 : Fin 4).val + (79 : Fin 80).val) 4 ≠ 0 := by decide +kernel
/-- PhysicalSteps, a sample's temperatures: below the trip and at it, on die 0, on another, on one that has tripped; a region that rises, and one that falls
before, at and without its millisecond. -/
theorem witness_PhysicalSteps_thermal : (∀ d ∈ ([0, 2] : List DieId), (later {}).live d = true ∧ ((later {}).die d).thermAt < (later {}).time / stampUnits) ∧
    (∀ x ∈ ([44, 115] : List Nat).take 256, x < Config.tTrip) ∧ Config.tTrip ∈ [44, Config.tTrip].take 256 ∧
    (let s : State := { later { fenced := true, regions := [(255, { hot := true })] } with trip := 4 };
      s.tripped 2 = true ∧ (s.die 2).thermAt < s.time / stampUnits ∧
      bandWindow ((s.die 2).regions.getD ((16383 : Fin 16384).val / 64) {}).band * 500 ≤ s.rowAge 2 (16383 : Fin 16384).val * 64) ∧
    (let r : Region := { band := 3, lower := some (0, 5) };
      3 ≤ bandOf 84 ∧ bandOf 44 = 0 ∧ 0 < r.band ∧ r.lower = some (0, 5) ∧ 5 + 17000000 ≤ 17000005 ∧ 17000004 < 5 + 17000000 ∧
      (∀ since, ({ r with lower := none } : Region).lower ≠ some (0, since)) ∧ (∀ since, ({ r with lower := some (1, 5) } : Region).lower ≠ some (0, since))) := by
  refine ⟨by decide +kernel, by decide +kernel, by decide +kernel, by decide +kernel, by decide +kernel, by decide +kernel, by decide +kernel, rfl,
    by decide, by decide, ?_, ?_⟩ <;> intro since h
  · exact nomatch h
  · injection h with h; injection h with h _; exact absurd h (by decide)
/-- Some error of the spare makes a replay's signature r differ from the logged one g, whatever they are. -/
theorem witness_replay_differs (r g : BitVec 32) : ∃ f, r ^^^ f ≠ g := ⟨(r ^^^ g) ^^^ 1#32, by
  rw [BitVec.xor_assoc, ← BitVec.xor_assoc, BitVec.xor_self, BitVec.zero_xor]
  intro h
  have k := congrArg (fun v => g ^^^ v) h
  rw [← BitVec.xor_assoc, BitVec.xor_self, BitVec.zero_xor] at k
  exact absurd k (by decide)⟩
/-- Audits, spare cores, fencing. -/
theorem witness_PhysicalSteps_spares : let e : AuditEntry := { core := 9, handle := 0, tag := 0, job := 0, tile := 0, count := 1, bytes := [1], operands := 1, sig := 5, offset := 0 }
    (let s := package { audit := [{ e with kept := true }, e] };
      (s.die 2).audit.find? (fun e => !e.kept && !(s.grove 2 (groveOf (Fin.ofNat 64 e.core))).spareUsed &&
        !(s.grove 2 (groveOf (Fin.ofNat 64 e.core))).auditOff) = some e ∧ s.live 2 = true ∧ (s.auditJob 2 e).isNone = true) ∧
    (let s := package { cores := (Vector.replicate 64 {}).set 9 { quarantined := true } };
      (List.finRange 64).find? (fun c => groveOf c == groveOf 9 && (s.core 2 c).quarantined) = some 9 ∧ s.live 2 = true ∧ (s.grove 2 (groveOf 9)).spareUsed = false ∧
      (s.core 2 9).slots.any Option.isSome = false) ∧
    (package {}).live 2 = true ∧ ({ package {} with retiredModules := List.range 320 } : State).cutOff 2 = true ∧
    ((package { sys := { halted := true } }).sysc 2).halted = true ∧
    (let s : State := { State.reset with boot := 3, dies := State.reset.dies.set 0 { sys := { halted := true } } };
      s.live 0 = true ∧ s.boot ≠ 0 ∧ (s.sysc 0).halted = true) := by decide +kernel
/-- A packet from a package of the domain, and from another; a key port 5 accepts, and one it does not. -/
def packet (src : BitVec 13) (key : BitVec 16) (body : PacketBody := .load 0 8) : Packet := { src := src, key := key, incarn := 0, body := body }
def linked : State := { State.reset with packageId := 0, dies := State.reset.dies.set 1 { keys := [(80, 2 ^ 63 + 0x8001)] } }
/-- LinkSteps. -/
theorem witness_LinkSteps : linked.linkDown.getLsbD (15 : Fin 16).val = false ∧ linked.live (Fin.ofNat 4 ((15 : Fin 16).val / 4)) = true ∧
    linked.linkDown.getLsbD (5 : Fin 16).val = false ∧ linked.live (Fin.ofNat 4 ((5 : Fin 16).val / 4)) = true ∧
    (((linked.count 1 0x148 1).die 1).keyAccepts 5 (packet 1023 0x8001).key = true ∧ (packet 1023 0x8001).src.extractLsb' 10 3 = linked.packageId.extractLsb' 10 3) ∧
    ((linked.count 1 0x148 1).die 1).keyAccepts 5 (packet 1023 0x8002).key = false ∧
    (packet 1024 0x8001).src.extractLsb' 10 3 ≠ linked.packageId.extractLsb' 10 3 ∧
    ({ linked with linkDown := 0x8000 } : State).linkDown.getLsbD (15 : Fin 16).val = true ∧
    (∀ b ∈ ([.load 0 8, .store 0 [1] false, .credit 3 9 1 0] : List PacketBody), (packet 1023 0x8001 b).body = b ∧
      (packet 1023 0x8001 b).incarn = (linked.count 1 0x148 1).incarnation) ∧ (packet 1023 0x8001).incarn ≠ (({ linked with incarnation := 1 } : State).count 1 0x148 1).incarnation ∧
    (linked.count 1 0x148 1).physOk 0 8 = true ∧ (linked.count 1 0x148 1).live 3 = true ∧ linked.frameWaits 0 8 = false ∧ linked.frameWaits 0 1 = false ∧
    ((on .c []).job? 0 0).map (fun j => j.gone.contains (9, 1, true)) = some false ∧
    ({ linked with dies := linked.dies.set 3 { fenced := true } } : State).live (Fin.ofNat 4 ((15 : Fin 16).val / 4)) = false := by
  decide +kernel
/-- HostSteps: the first frame at HMFLOOR and the last of die 3; HSDATA open and locked, at the page of the die's registers. -/
theorem witness_HostSteps : State.reset.cxlDown = false ∧ State.reset.hostServes 4096 8 = true ∧ State.reset.frameWaits 4096 8 = false ∧
    State.reset.hostServes (3 * 2 ^ 37 + 4096 * 23437500 - 8) 8 = true ∧ State.reset.frameWaits (3 * 2 ^ 37 + 4096 * 23437500 - 8) 8 = false ∧
    State.reset.hostServes 0 8 = false ∧
    (let s : State := { State.reset with dies := State.reset.dies.set 0 { lockstat := 4 } };
      s.hostOpen = true ∧ s.sysWaits s.hsDie s.hsPlace = false ∧ (s.die s.hsDie).lockstat.getLsbD 2 = true) ∧
    (let s : State := { State.reset with hsaddr := 4 };
      s.hostOpen = true ∧ s.sysWaits s.hsDie s.hsPlace = false ∧ (s.die s.hsDie).lockstat.getLsbD 2 = false ∧ s.hsOut = true) ∧
    (let s : State := { State.reset with hsaddr := 0x200000000 };
      s.hostOpen = true ∧ s.sysWaits s.hsDie s.hsPlace = false ∧ (s.die s.hsDie).lockstat.getLsbD 2 = false ∧ s.hsOut = false ∧ s.sysWriteHeld s.hsDie s.hsPlace = false ∧ (match s.sysRead s.hsDie s.hsPlace with
        | .done .. => true
        | _ => false) = true ∧ (match s.sysWrite s.hsDie s.hsPlace 5 with
        | .done .. => true
        | _ => false) = true) := by decide +kernel
/-- A snoop: of the last byte of a line that die 0 does not hold, and of the first of one that it holds changed; a write over both. -/
theorem witness_HostSteps_snoop : let s : State := { State.reset with masters := [(hostKey 4096, { data := 5, dirty := 1 })] }
    (4095 < 2 ^ 64 ∧ s.masters.get? (hostKey 4095) = none) ∧ (4096 < 2 ^ 64 ∧ (s.masters.get? (hostKey 4096)).isSome = true ∧ s.rowWaits 0 (hostKey 4096) = false) ∧
    (∀ p ∈ pieces 4095 2, s.masters.get? (hostKey p.1) = none ∨ s.rowWaits 0 (hostKey p.1) = false) ∧ ({ data := 5, dirty := 1 } : Line).dirty ≠ 0 := by
  decide +kernel
theorem witness_HostSteps_memory : State.memoryWf { State.reset with masters := [(hostKey 4096, { data := 5, dirty := 1 })] } := ⟨rfl, rfl⟩
/-- A responder that agreed on version and algorithms and holds both sessions. -/
def agreed : State := { State.reset with spdm := { version := some 0x13, algorithms := true, mailbox := some ([], false), fabric := some ([], true) } }
/-- AttestationAndBootSteps. -/
theorem witness_AttestationAndBoot : agreed.spdm.version.isSome = true ∧ agreed.spdm.algorithms = true ∧ [(0 : Byte), 1].head? = some 0 ∧
    (∀ fabric ∈ [false, true], (if fabric then agreed.spdm.fabric else agreed.spdm.mailbox) = some ([], fabric)) ∧
    ((onSys []).live 0 = true ∧ ((onSys []).sysc 0).started = true ∧ ((onSys []).die 0).lockstat.getLsbD 4 = false) ∧
    State.reset.boot = 0 ∧ State.reset.firmware = none ∧ ([] : List Byte).length ≤ 2 ^ 26 ∧
    ({ State.reset with boot := 7 } : State).boot = 7 ∧ ({ State.reset with boot := 7 } : State).cxlDown = false ∧ ({ State.reset with boot := 1 } : State).boot = 1 ∧
    ({ State.reset with boot := 1 } : State).firmware = none := by decide +kernel

/-! ## Witnesses: the machine as a whole -/

/-- Does an outcome give a next state of which p holds? -/
def nextWith (p : State → Bool) : Host.Outcome State Fault Refusal → Bool
  | .next t => p t
  | _ => false
/-- A state whose next turn is t; a state as stream w's turn sees it. -/
def atTurn (t : Turn) (s : State) : State := { s with agenda := [t] }
def seenBy (w : Who) (s : State) : State := { s with agenda := [], cur := w }
/-- A die whose system core holds the program of one NOP. -/
def nopSystem : State := onSys [] fun x => { x with sys := { x.sys with prog := [0] } }
/-- A job whose programs are word w, from word pc on. -/
def runs (e : Engine) (w : Word) (pc : Word) (last : Int := -1) : State := on e [] fun j => { j with
  kernel := { j.kernel with progs := List.replicate 5 [w] }, streams := j.streams.map fun st => { st with pc := pc, last := last } }
/-- StepRunsWord: a word, one decode refuses, the place after the program. -/
theorem witness_StepRunsWord : (runs .c 0 0).fetch = some 0 ∧ reads (.eng .c) 0 = some (.nop z) ∧
    (runs .m 0x3FF0000000000 0).fetch = some 0x3FF0000000000 ∧ (decode 0x3FF0000000000 (runs .m 0x3FF0000000000 0).cur.issuer).toBool = false ∧
    (∀ s ∈ [runs .m 0x3FF0000000000 0, runs .c 0 1], s.streamOpen = true ∧ s.engineFree = true ∧ s.gatesOpen = true ∧
      s.str.last + 1 + (bits (0x3FF0000000000 : Word) 63 54 : Int) ≤ (s.now : Int) ∧ s.str.last + 1 ≤ (s.now : Int)) ∧ (runs .c 0 1).fetch = none := by decide +kernel
theorem witness_StepRunsWord_system : let s := atTurn (.sysCore 0) nopSystem
    s.agenda = [.sysCore 0] ∧ s.live 0 = true ∧ (s.sysc 0).started = true ∧ (s.sysc 0).halted = false ∧ (s.sysc 0).asleep = false ∧
    (seenBy (.sys 0) s).fetch = some 0 ∧ reads .sys 0 = some (.nop z) := by decide +kernel
/-- An engine's turn, its word issued and not yet. -/
theorem witness_StepRunsWord_engine : ∀ e ∈ ([.c, .a, .t] : List Engine), ∀ issues ∈ [false, true],
    let s := atTurn (.engine 0 0 e) (runs e 0 0 (if issues then -1 else 5))
    let u := seenBy (.eng 0 0 0 e) s
    s.agenda = [.engine 0 0 e] ∧ s.live 0 = true ∧ ((s.core 0 0).arbs[e.idx]).seen ≠ some (s.grove 0 (groveOf 0)).cyc ∧ (u.slotRec? 0 0 0).isSome = true ∧
    u.slotRec? 0 0 (1 - 0) = none ∧ u.deliverNext 0 0 0 = none ∧ u.fetch = some 0 ∧ reads (.eng e) 0 = some (.nop z) ∧
    nextWith (fun x => (x.free != u.free) == issues) (exec (.nop z) u) = true := by decide +kernel
/-- A core with a job in each slot, slot 0 the current one and slot 1 having waited n cycles. -/
def shared (e : Engine) (n : Nat) : State :=
  { on .c [] id (fun x => { x with
      recs := x.recs.set 1 { job := some { job [] with idx := 1, home := some (0, 1) } }
      cores := x.cores.set 0 { slots := #v[some 0, some 1], arbs := Vector.replicate 5 { wait := #v[0, n] } } }) with agenda := [.engine 0 0 e] }
/-- SlotsShareAnEngine: below 64 cycles and from there on, of C and of A. -/
theorem witness_SlotsShareAnEngine : ∀ e ∈ ([.c, .a] : List Engine), ∀ p ∈ ([(63, 0), (64, 1)] : List (Nat × SlotId)), let s := shared e p.1
    let v := seenBy s.cur s
    let a := (s.core 0 0).arbs[e.idx]
    s.agenda = [.engine 0 0 e] ∧ s.live 0 = true ∧ (if 64 ≤ a.wait[1 - a.cur] then 1 - a.cur else a.cur) = p.2 ∧ a.seen ≠ some (s.grove 0 (groveOf 0)).cyc ∧
    ((v.slotTry 0 0 e 0).map (nextWith fun _ => true)) = some true ∧ ((v.slotTry 0 0 e 1).map (nextWith fun _ => true)) = some true ∧
    (seenBy (.eng 0 0 p.2 e) s).fetch = some 0 := by decide +kernel
/-- StepRunsEvent. -/
theorem witness_StepRunsEvent : encode (.droopAlarm 0 0 5) = none ∧ (encode (.nop z)).isSome = true ∧
    (∀ t ∈ ([.event (.droopAlarm 0 0 5), .event (.nop z), .tick] : List Turn), (atTurn t State.reset).agenda = [t]) ∧ State.reset.agenda = [] ∧
    someIssuer (BitVec.ofNat 64 (0x000000C840000000 % 2 ^ min 64 64)) = .eng .c ∧ someIssuer (BitVec.ofNat 64 (0x000014A00D000000 % 2 ^ min 64 64)) = .sys := by
  decide +kernel
/-- DecodeEncode: a word of each class of streams. -/
theorem witness_DecodeEncode : (Instr.movi z 5 0x10000).wf (.eng .c) = true ∧ encode (.movi z 5 0x10000) = some 0x000003F280010000 ∧
    reads (.eng .c) 0x000003F280010000 = some (.movi z 5 0x10000) ∧ (Instr.routew z tt 1 20).wf .sys = true ∧ encode (.routew z tt 1 20) = some 0x000014A00D000000 ∧
    reads .sys 0x000014A00D000000 = some (.routew z tt 1 20) := by decide +kernel
/-- StepKeepsReplicasNear: a period that passes. -/
theorem witness_StepKeepsReplicasNear : State.reset.Inv ∧ nextWith (fun _ => true) (step (atTurn .tick State.reset)) = true := by
  unfold State.Inv Clock.near; decide +kernel

/-! ## Witnesses: frames -/

/-- WordsWaitOrMoveTokens: a word whose IDLE is not met, and one with a false guard. -/
theorem witness_WordsWaitOrMoveTokens : let g : Guard := { p := 0, pn := true }
    hdr? (.add z g 1 2 3) = some z ∧ ((runs .c 0 0 5).stream? (runs .c 0 0 5).cur).isSome = true ∧ (runs .c 0 0 5).canIssue (.add z g 1 2 3) z = false ∧
    guard? (.add z g 1 2 3) = some g ∧ movesRows (.add z g 1 2 3) = false ∧ (on .c []).issues (.add z g 1 2 3) z ∧ ((on .c []).opened z).guard g = false := by
  unfold State.issues; decide +kernel
/-- OperandReads: a register no word in flight writes; one of which a result has landed. -/
theorem witness_OperandReads : (∀ f ∈ (on .c []).str.flights, f.effs = []) ∧
    (let f : Flight := { fl .fixed (some 0) with effs := [.x 31 9] }
      let s := on .c [] fun j => { j with streams := j.streams.map fun st => { st with flights := [f] } }
      s.str.flights = [] ++ [f] ∧ f.landed s.now = true ∧ f.effs = [.x 31 9]) := by decide +kernel
/-- StopsAreTaken: a running job; one already stopped in this cycle by M, for a stop of C's and of V's; the system core without and with INTRAP. -/
theorem witness_StopsAreTaken : ((on .c []).slotJob? 0 0 0).map (fun j => j.phase) = some .running ∧
    (let s := on .c [] fun j => { j with phase := .stopping .trap 0, trapStream := 3 };
      (s.slotJob? 0 0 0).map (fun j => (j.phase, j.trapStream.toNat, decide (j.trapId ≤ (j.streams[Engine.m.idx]).nextId))) = some (.stopping .trap s.now, 3, true)) ∧
    Engine.c.idx.val < 3 ∧ 3 < Engine.v.idx.val ∧ 3 = Engine.m.idx.val ∧
    (let s := on .c [] fun j => { j with phase := .stopping .preempt 0 }; (s.slotJob? 0 0 0).map (·.phase) = some (.stopping .preempt s.now)) ∧
    ((package { sys := { intrap := true } }).die 0).evq.length < 512 ∧ ((onSys []).sysc 0).started = true ∧ (onSys []).sysInTrap 0 = false ∧
    (onSys [] fun x => { x with sys := { x.sys with intrap := true } }).sysInTrap 0 = true ∧ (package { sys := { intrap := true } }).sysInTrap 2 = true ∧
    ((onSys []).sysc 0).stream.flights = [] := by decide +kernel
/-- LandingWritesItsRegistersOnly: a word of C that sends a token to A beside a result, its queue of tokens one short of full. -/
theorem witness_LandingWritesItsRegistersOnly : let f : Flight := { fl .fixed (some 0) with effs := [.x 31 9, .flags 16], tks := 1 }
    let s := flying f fun j => { j with tokens := j.tokens.set 1 (List.replicate 14 { sent := 0 }) }
    s.flight? (w0 .c) 7 = some f ∧ f.halted = false ∧ f.landed (s.timeOf (w0 .c)) = true ∧ f.effs.all streamEff = true ∧
    (s.slotJob? 0 0 0).map (fun j => (f.sends .c).all fun p => (j.toks .c p.1).length + p.2 ≤ 15) = some true ∧
    nextWith (fun _ => true) (exec (.resultLanding (w0 .c) 7) s) = true := by decide +kernel
/-- IssueLeavesRegistersAndMemory. -/
theorem witness_IssueLeavesRegistersAndMemory : registerWord (.div z tt 1 2 3) = true ∧ nextWith (fun _ => true) (exec (.div z tt 1 2 3) (on .c [])) = true ∧
    aStream.cur = .eng 0 0 0 .a ∧ nextWith (fun _ => true) (exec (.ldx z tt 1 5 3 true 8) aStream) = true ∧
    nextWith (fun _ => true) (exec (.stx z tt 6 5 0 1) aStream) = true := by decide +kernel
/-- A package whose A has a word in flight; its buffer 3 is LPDDR6: table in frame 5, then frame 6, a leaf of 64 GiB from frame 0 on. -/
def paged (f : Flight) : State :=
  { flying f id (fun x => { x with segs := [(3, BitVec.ofNat 256 (8192 + 2 ^ 133 + 2 ^ 127 + 5 * 2 ^ 64))] }) with lpddr := [(0x5000, 1), (0x5001, 0x60), (0x6000, 0xF3)] }
/-- Is the place the eight bytes at 120 of line 0 of die 0's frames? -/
def firstFrame : Except XFail (Place × State) → Bool
  | .ok (p, _) => p == .line (physKey 120) 120 0 false false false
  | .error _ => false
/-- StoresAndLoadsTouchTheirBytesOnly: a store to the end of a framed line, and a load of it. -/
theorem witness_StoresAndLoads : let va : Word := 0x30000000000078
    let f := fl (.stx va [1, 2, 3, 4, 5, 6, 7, 8])
    let g := fl (.ldx va 3 true 5)
    (paged f).flight? (w0 .a) 7 = some f ∧ f.halted = false ∧ f.effs = [] ∧ (paged f).ordHeld (w0 .a) (bufOf va.toNat) = false ∧
    (paged f).mayAccess (w0 .a) f [(va.toNat, 8)] false = true ∧ va.toNat % 8 = 0 ∧
    firstFrame ((paged f).translate 0 (whoCore (w0 .a)) ((paged f).asnOf (w0 .a)) va.toNat 8 true f.page) = true ∧ (paged f).cacheFull 0 = false ∧
    (paged g).flight? (w0 .a) 7 = some g ∧ firstFrame ((paged g).translate 0 (whoCore (w0 .a)) ((paged g).asnOf (w0 .a)) va.toNat (2 ^ (3 : BitVec 2).toNat) false g.page) = true ∧ (paged g).cacheFull 0 = false ∧
    nextWith (fun t => (t.stream? (w0 .a)).map (fun st => st.flights) == some []) (exec (.dataReturn (w0 .a) 7 []) (paged g)) = true := by decide +kernel
/-- Two streams apart: of different engines. -/
theorem witness_apart : (on .c []).apart (w0 .a) (w0 .c) := Or.inr (Or.inr (by decide))

end Sys2Proof.Tests
end

section
/-! PROOFS. The scalar group (R126-R130): an equation of the spec for each function of the scalar words, the shape in which each form of word
lands its result, and the statements made of the two. -/

namespace Sys2Proof.Machine
open Sys2Proof

/-! ## The functions of the two-operand integer words (R126) -/

theorem intOp_add (a b : Word) : intOp 0 a b = a + b := rfl

theorem intOp_sub (a b : Word) : intOp 1 a b = a - b := rfl

theorem intOp_mul (a b : Word) : intOp 2 a b = a * b := rfl

theorem intOp_mulh (a b : Word) : intOp 3 a b = BitVec.ofInt 64 (a.toInt * b.toInt / 2 ^ 64) :=
  congrArg (BitVec.ofInt 64) (Int.fdiv_eq_ediv_of_nonneg _ (by decide))

theorem intOp_mulhu (a b : Word) : intOp 4 a b = BitVec.ofNat 64 (a.toNat * b.toNat / 2 ^ 64) := rfl

/-- R126 names the quotient -2^63 / -1; the model has no case for it, since its truncated quotient 2^63 wraps to -2^63. -/
theorem intOp_div (a b : Word) : intOp 5 a b = if b = 0 then BitVec.allOnes 64
    else if a = 1#64 <<< 63 ∧ b = BitVec.allOnes 64 then 1#64 <<< 63 else BitVec.ofInt 64 (a.toInt.tdiv b.toInt) := by
  change (if b = 0 then _ else _) = _
  by_cases hb : b = 0
  · rw [if_pos hb, if_pos hb]
  rw [if_neg hb, if_neg hb]
  by_cases hw : a = 1#64 <<< 63 ∧ b = BitVec.allOnes 64
  · rw [if_pos hw]; obtain ⟨rfl, rfl⟩ := hw; decide
  · rw [if_neg hw]

theorem intOp_divu (a b : Word) : intOp 6 a b = if b = 0 then BitVec.allOnes 64 else BitVec.ofNat 64 (a.toNat / b.toNat) := rfl

/-- The remainder of -2^63 by -1 is the 0 that R126 names. -/
theorem intOp_rem (a b : Word) : intOp 7 a b = if b = 0 then a
    else if a = 1#64 <<< 63 ∧ b = BitVec.allOnes 64 then 0 else BitVec.ofInt 64 (a.toInt - b.toInt * a.toInt.tdiv b.toInt) := by
  change (if b = 0 then _ else _) = _
  by_cases hb : b = 0
  · rw [if_pos hb, if_pos hb]
  rw [if_neg hb, if_neg hb]
  by_cases hw : a = 1#64 <<< 63 ∧ b = BitVec.allOnes 64
  · rw [if_pos hw]; obtain ⟨rfl, rfl⟩ := hw; decide
  · rw [if_neg hw]

theorem intOp_remu (a b : Word) : intOp 8 a b = if b = 0 then a else BitVec.ofNat 64 (a.toNat % b.toNat) := rfl

theorem intOp_and (a b : Word) : intOp 9 a b = a &&& b := rfl

theorem intOp_or (a b : Word) : intOp 10 a b = a ||| b := rfl

theorem intOp_xor (a b : Word) : intOp 11 a b = a ^^^ b := rfl

theorem intOp_shl (a b : Word) : intOp 12 a b = BitVec.ofNat 64 (a.toNat * 2 ^ (b.toNat % 64)) := by
  change a <<< (b.toNat % 64) = _
  apply BitVec.eq_of_toNat_eq
  rw [BitVec.toNat_shiftLeft, Nat.shiftLeft_eq, BitVec.toNat_ofNat]

theorem intOp_shr (a b : Word) : intOp 13 a b = BitVec.ofNat 64 (a.toNat / 2 ^ (b.toNat % 64)) := by
  change a >>> (b.toNat % 64) = _
  rw [← Nat.shiftRight_eq_div_pow, ← BitVec.toNat_ushiftRight, BitVec.ofNat_toNat, BitVec.setWidth_eq]

theorem intOp_sar (a b : Word) : intOp 14 a b = BitVec.ofInt 64 (a.toInt / 2 ^ (b.toNat % 64)) := by
  change a.sshiftRight (b.toNat % 64) = _
  rw [BitVec.sshiftRight_eq, Int.shiftRight_eq_div_pow, Int.natCast_pow]; rfl

/-- A weaker test selects the same, where the cases it adds select between equals. -/
theorem ite_eq_ite_of_imp {P Q : Prop} [Decidable P] [Decidable Q] {x y : Word} (himp : P → Q) (h : Q → ¬P → x = y) :
    (if P then x else y) = if Q then x else y := by
  by_cases hP : P
  · rw [if_pos hP, if_pos (himp hP)]
  by_cases hQ : Q
  · rw [if_neg hP, if_pos hQ, h hQ hP]
  · rw [if_neg hP, if_neg hQ]

theorem intOp_min (a b : Word) : intOp 15 a b = if a.toInt ≤ b.toInt then a else b :=
  ite_eq_ite_of_imp Int.le_of_lt fun hle hlt => BitVec.eq_of_toInt_eq (by omega)

theorem intOp_minu (a b : Word) : intOp 16 a b = if a.toNat ≤ b.toNat then a else b :=
  ite_eq_ite_of_imp Nat.le_of_lt fun hle hlt => BitVec.eq_of_toNat_eq (by omega)

theorem intOp_max (a b : Word) : intOp 17 a b = if a.toInt ≤ b.toInt then b else a :=
  ite_eq_ite_of_imp Int.le_of_lt fun hle hlt => BitVec.eq_of_toInt_eq (by omega)

theorem intOp_maxu (a b : Word) : intOp 18 a b = if a.toNat ≤ b.toNat then b else a :=
  ite_eq_ite_of_imp Nat.le_of_lt fun hle hlt => BitVec.eq_of_toNat_eq (by omega)

/-- An immediate count is below 64, so the shifts take it whole. -/
theorem zx64_toNat_mod (sh : BitVec 6) : (zx64 sh).toNat % 64 = sh.toNat := by
  rw [zx64, BitVec.toNat_setWidth]; omega

theorem intOp_shl_zx64 (a : Word) (sh : BitVec 6) : intOp 12 a (zx64 sh) = BitVec.ofNat 64 (a.toNat * 2 ^ sh.toNat) := by
  rw [intOp_shl, zx64_toNat_mod]

theorem intOp_shr_zx64 (a : Word) (sh : BitVec 6) : intOp 13 a (zx64 sh) = BitVec.ofNat 64 (a.toNat / 2 ^ sh.toNat) := by
  rw [intOp_shr, zx64_toNat_mod]

theorem intOp_sar_zx64 (a : Word) (sh : BitVec 6) : intOp 14 a (zx64 sh) = BitVec.ofInt 64 (a.toInt / 2 ^ sh.toNat) := by
  rw [intOp_sar, zx64_toNat_mod]

/-! ## The bit counts (R127) -/

theorem length_takeWhile_eq_findIdx (p : Nat → Bool) (l : List Nat) : (l.takeWhile p).length = l.findIdx fun j => !p j := by
  rw [List.takeWhile_eq_take_findIdx_not, List.length_take, Nat.min_eq_left List.findIdx_le_length]

/-- A predicate whose first refusal is m admits the m numbers before it. -/
theorem length_takeWhile_range {n m : Nat} {p : Nat → Bool} (hm : m < n) (hp : p m = false) (h : ∀ j < m, p j = true) :
    ((List.range n).takeWhile p).length = m := by
  rw [length_takeWhile_eq_findIdx, List.findIdx_eq (by rw [List.length_range]; exact hm)]
  simp only [List.getElem_range, hp, Bool.not_false, true_and]
  intro j hj
  rw [h j hj, Bool.not_true]

/-- A predicate that refuses no number below n admits all n. -/
theorem length_takeWhile_range_all {n : Nat} {p : Nat → Bool} (h : ∀ j < n, p j = true) : ((List.range n).takeWhile p).length = n := by
  rw [length_takeWhile_eq_findIdx, List.findIdx_eq_length_of_false, List.length_range]
  intro j hj
  rw [h j (List.mem_range.mp hj), Bool.not_true]

/-- CLZ counts the zeros above the leading one, which stands at the base-2 logarithm. -/
theorem clz_eq_takeWhile (a : Word) : clz a = BitVec.ofNat 64 ((List.range 64).takeWhile fun i => !a.getMsbD i).length := by
  by_cases ha : a = 0
  · subst ha; decide
  have hn : a.toNat ≠ 0 := fun h => ha (BitVec.eq_of_toNat_eq h)
  have hlog : a.toNat.log2 < 64 := (Nat.log2_lt hn).mpr a.isLt
  have hone : a.getMsbD (63 - a.toNat.log2) = true := by
    rw [BitVec.getMsbD_eq_getLsbD, show 64 - 1 - (63 - a.toNat.log2) = a.toNat.log2 by omega, BitVec.getLsbD, Nat.testBit_log2 hn]
    rw [Bool.and_true, decide_eq_true_eq]; omega
  have hzero : ∀ j < 63 - a.toNat.log2, a.getMsbD j = false := by
    intro j hj
    have hbit : a.toNat.testBit (64 - 1 - j) = false :=
      Nat.testBit_lt_two_pow (Nat.lt_of_lt_of_le Nat.lt_log2_self (Nat.pow_le_pow_right (by decide) (by omega)))
    rw [BitVec.getMsbD_eq_getLsbD, BitVec.getLsbD, hbit, Bool.and_false]
  rw [clz, if_neg ha, length_takeWhile_range (m := 63 - a.toNat.log2) (by omega) (by rw [hone]; rfl) fun j hj => by rw [hzero j hj]; rfl]

/-- CTZ finds the first one; the zeros below it are those it counts. -/
theorem ctz_eq_takeWhile (a : Word) : ctz a = BitVec.ofNat 64 ((List.range 64).takeWhile fun i => !a.getLsbD i).length := by
  unfold ctz
  split
  next m hm =>
    obtain ⟨hone, hlt, hzero⟩ := List.find?_range_eq_some.mp hm
    rw [length_takeWhile_range (List.mem_range.mp hlt) (by rw [hone]; rfl) hzero]
  next hnone => rw [length_takeWhile_range_all (List.find?_range_eq_none.mp hnone)]; rfl

theorem popc_eq_countP (a : Word) : popc a = BitVec.ofNat 64 ((List.range 64).countP fun i => a.getLsbD i) := by
  rw [List.countP_eq_length_filter]; rfl

/-! ## The upper immediate (R128) -/

/-- Bits 63:31 replaced by a signed value: it counts 2^31 times, beside the bits kept. -/
theorem append_low_eq_add (hi : BitVec 33) (a : Word) :
    (hi ++ a.extractLsb' 0 31 : BitVec 64) = BitVec.ofInt 64 (hi.toInt * 2 ^ 31) + BitVec.ofNat 64 (a.toNat % 2 ^ 31) := by
  have hlow : (a.extractLsb' 0 31).toNat = a.toNat % 2 ^ 31 := by rw [BitVec.extractLsb'_toNat, Nat.shiftRight_zero]
  calc (hi ++ a.extractLsb' 0 31 : BitVec 64)
      = BitVec.ofInt 64 (hi ++ a.extractLsb' 0 31 : BitVec 64).toInt := BitVec.ofInt_toInt.symm
    _ = BitVec.ofInt 64 (hi.toInt * 2 ^ 31 + (a.toNat % 2 ^ 31 : Nat)) := by
      rw [BitVec.toInt_append, hlow, Int.mul_comm]; rfl
    _ = _ := by rw [BitVec.ofInt_add, BitVec.ofInt_natCast]

theorem signExtend_append_low_eq_add (imm : BitVec 31) (a : Word) :
    (imm.signExtend 33 ++ a.extractLsb' 0 31 : BitVec 64) =
      BitVec.ofInt 64 (imm.toInt * 2 ^ 31) + BitVec.ofNat 64 (a.toNat % 2 ^ 31) := by
  rw [append_low_eq_add, BitVec.toInt_signExtend_of_le (by decide)]

/-! ## The tests of equality (R129, R130) -/

theorem word_beq_eq_decide (a b : Word) : (a == b) = decide (a = b) := rfl

theorem word_bne_eq_decide (a b : Word) : (a != b) = decide (a ≠ b) := (decide_not ..).symm

/-! ## How a word lands its result -/

/-- A guarded word that runs to the one effect `model` lands any `spec` equal to it: the words differ only in that equation. -/
theorem landsGuarded_results {i : Instr} {h : Hdr} {g : Guard} {lat : Nat} {model spec : State → Eff} (hf : ∀ u, model u = spec u)
    (he : extraPop i = none := by rfl)
    (hx : ∀ s, exec i s = runGuarded i h g always (fun s => results h lat [model s] s) s := by intros; rfl) :
    landsGuarded i h g lat fun u => [spec u] :=
  landsGuarded_of he fun s => by simp only [hx, hf]

/-- A two-operand integer word in its register form (R126). -/
theorem landsGuarded_intRR {w : Hdr → Guard → BitVec 5 → BitVec 5 → BitVec 5 → Instr} {op lat : Nat}
    {spec : BitVec 5 → BitVec 5 → State → Word} (hf : ∀ s1 s2 u, intOp op (u.readX 0 s1) (u.readX 1 s2) = spec s1 s2 u)
    (he : ∀ h g d s1 s2, extraPop (w h g d s1 s2) = none := by intros; rfl)
    (hx : ∀ h g d s1 s2 s, exec (w h g d s1 s2) s = intRR (w h g d s1 s2) op lat h g d s1 s2 s := by intros; rfl)
    (h : Hdr) (g : Guard) (d s1 s2 : BitVec 5) :
    landsGuarded (w h g d s1 s2) h g lat fun u => [.x d (spec s1 s2 u)] :=
  landsGuarded_results (fun u => congrArg (Eff.x d) (hf s1 s2 u)) (he h g d s1 s2) (hx h g d s1 s2)

/-- The same in its immediate form: the immediate v is the operand `b v`, extended as the word takes it. -/
theorem landsGuarded_intRI {n op lat : Nat} {w : Hdr → Guard → BitVec 5 → BitVec 5 → BitVec n → Instr} {b : BitVec n → Word}
    {spec : BitVec 5 → BitVec n → State → Word} (hf : ∀ s1 v u, intOp op (u.readX 0 s1) (b v) = spec s1 v u)
    (he : ∀ h g d s1 v, extraPop (w h g d s1 v) = none := by intros; rfl)
    (hx : ∀ h g d s1 v s, exec (w h g d s1 v) s = intRI (w h g d s1 v) op lat h g d s1 (b v) s := by intros; rfl)
    (h : Hdr) (g : Guard) (d s1 : BitVec 5) (v : BitVec n) :
    landsGuarded (w h g d s1 v) h g lat fun u => [.x d (spec s1 v u)] :=
  landsGuarded_results (fun u => congrArg (Eff.x d) (hf s1 v u)) (he h g d s1 v) (hx h g d s1 v)

/-! ## The statements -/

/-- Settles O1: every word of R126 lands the function of its entry, which an equation of `intOp` names. -/
theorem integerWordsLandTheirFunction : Obligations.IntegerWordsLandTheirFunction := by
  unfold Obligations.IntegerWordsLandTheirFunction
  simp only [List.forall_mem_cons, List.not_mem_nil, false_implies, implies_true, and_true]
  refine ⟨⟨?add, ?sub, ?mul, ?mulh, ?mulhu, ?div, ?divu, ?rem, ?remu, ?and, ?or, ?xor, ?shl, ?shr, ?sar, ?min, ?minu, ?max, ?maxu⟩,
    ⟨?addi, ?andi, ?ori, ?xori, ?muli⟩, ⟨?shli, ?shri, ?sari⟩⟩
  case add => exact landsGuarded_intRR fun _ _ _ => intOp_add _ _
  case sub => exact landsGuarded_intRR fun _ _ _ => intOp_sub _ _
  case mul => exact landsGuarded_intRR fun _ _ _ => intOp_mul _ _
  case mulh => exact landsGuarded_intRR fun _ _ _ => intOp_mulh _ _
  case mulhu => exact landsGuarded_intRR fun _ _ _ => intOp_mulhu _ _
  case div => exact landsGuarded_intRR fun _ _ _ => intOp_div _ _
  case divu => exact landsGuarded_intRR fun _ _ _ => intOp_divu _ _
  case rem => exact landsGuarded_intRR fun _ _ _ => intOp_rem _ _
  case remu => exact landsGuarded_intRR fun _ _ _ => intOp_remu _ _
  case and => exact landsGuarded_intRR fun _ _ _ => intOp_and _ _
  case or => exact landsGuarded_intRR fun _ _ _ => intOp_or _ _
  case xor => exact landsGuarded_intRR fun _ _ _ => intOp_xor _ _
  case shl => exact landsGuarded_intRR fun _ _ _ => intOp_shl _ _
  case shr => exact landsGuarded_intRR fun _ _ _ => intOp_shr _ _
  case sar => exact landsGuarded_intRR fun _ _ _ => intOp_sar _ _
  case min => exact landsGuarded_intRR fun _ _ _ => intOp_min _ _
  case minu => exact landsGuarded_intRR fun _ _ _ => intOp_minu _ _
  case max => exact landsGuarded_intRR fun _ _ _ => intOp_max _ _
  case maxu => exact landsGuarded_intRR fun _ _ _ => intOp_maxu _ _
  case addi => exact landsGuarded_intRI fun _ _ _ => intOp_add _ _
  case andi => exact landsGuarded_intRI fun _ _ _ => intOp_and _ _
  case ori => exact landsGuarded_intRI fun _ _ _ => intOp_or _ _
  case xori => exact landsGuarded_intRI fun _ _ _ => intOp_xor _ _
  case muli => exact landsGuarded_intRI fun _ _ _ => intOp_mul _ _
  case shli => exact landsGuarded_intRI fun _ _ _ => intOp_shl_zx64 _ _
  case shri => exact landsGuarded_intRI fun _ _ _ => intOp_shr_zx64 _ _
  case sari => exact landsGuarded_intRI fun _ _ _ => intOp_sar_zx64 _ _

/-- Settles O2: SEL is as R127 words it; each count is the spec's by its own lemma. -/
theorem selectAndCountWordsLand : Obligations.SelectAndCountWordsLand := by
  unfold Obligations.SelectAndCountWordsLand
  refine ⟨?sel, ?clz, ?ctz, ?popc⟩
  case sel => intros; exact landsGuarded_results fun _ => rfl
  case clz => intro h g d s1; exact landsGuarded_results fun u => congrArg (Eff.x d) (clz_eq_takeWhile (u.readX 0 s1))
  case ctz => intro h g d s1; exact landsGuarded_results fun u => congrArg (Eff.x d) (ctz_eq_takeWhile (u.readX 0 s1))
  case popc => intro h g d s1; exact landsGuarded_results fun u => congrArg (Eff.x d) (popc_eq_countP (u.readX 0 s1))

/-- Settles O3: MOVHI joins its sign-extended immediate to the bits it keeps, which is R128's sum. -/
theorem immediateMovesLand : Obligations.ImmediateMovesLand := by
  unfold Obligations.ImmediateMovesLand
  refine ⟨fun h d imm => landsAlways_of rfl fun _ => rfl, fun h d imm => landsAlways_of rfl fun s => ?movhi⟩
  case movhi =>
    simp only [← signExtend_append_low_eq_add]
    rfl

/-- Settles O4: the model's conditions are the spec's; equality alone is spelled as a Boolean test. -/
theorem comparesLandTheirCondition : Obligations.ComparesLandTheirCondition := by
  unfold Obligations.ComparesLandTheirCondition
  simp only [List.forall_mem_cons, List.not_mem_nil, false_implies, implies_true, and_true]
  refine ⟨⟨?ceq, ?cne, ?clt, ?cltu, ?cle, ?cleu⟩, ⟨?ceqi, ?cnei, ?clti, ?cgei⟩⟩ <;> intro h g pd s1 b
  case ceq | ceqi => exact landsGuarded_results fun u => congrArg (Eff.p pd) (word_beq_eq_decide _ _)
  case cne | cnei => exact landsGuarded_results fun u => congrArg (Eff.p pd) (word_bne_eq_decide _ _)
  case clt | cltu | cle | cleu | clti | cgei => exact landsGuarded_results fun _ => rfl

/-- Settles O5: PSET's test is an inequality; the others are as R130 words them. -/
theorem predicateWordsLand : Obligations.PredicateWordsLand := by
  unfold Obligations.PredicateWordsLand
  simp only [List.forall_mem_cons, List.not_mem_nil, false_implies, implies_true, and_true]
  refine ⟨⟨?pand, ?por, ?pxor, ?pandn⟩, ?pset, ?pget⟩
  case pand | por | pxor | pandn => intro h g pd p1 p2; exact landsGuarded_results fun _ => rfl
  case pset => intro h g pd s1; exact landsGuarded_results fun u => congrArg (Eff.p pd) (word_bne_eq_decide (u.readX 0 s1) 0)
  case pget => intro h g d p1; exact landsGuarded_results fun _ => rfl

end Sys2Proof.Machine
end

section
/-! PROOFS. Decoding and encoding (R75-R95): a word is its header, its opcode and its fields; what decoding checks of a word is what
well-formedness asks of the instruction it builds, and an instruction's word holds its fields where they are read again. -/

-- In order, so that the one-text compile stays within memory.
set_option Elab.async false

namespace Sys2Proof.Laws
open Sys2Proof Sys2Proof.Machine

/-! ## The fields of a word -/

/-- Neighbouring fields make the field that spans them. -/
theorem append_eq_fld_iff {n m : Nat} (w : Word) (lo : Nat) (x : BitVec n) (y : BitVec m) :
    x ++ y = fld w lo (n + m) ↔ x = fld w (lo + m) n ∧ y = fld w lo m := by
  have hsplit : fld w lo (n + m) = fld w (lo + m) n ++ fld w lo m :=
    (BitVec.extractLsb'_append_extractLsb'_eq_extractLsb' (by omega)).symm
  rw [hsplit]
  constructor
  · intro h
    constructor
    · have := congrArg (BitVec.extractLsb' m n) h
      simpa [BitVec.extractLsb'_append_eq_left] using this
    · have := congrArg (BitVec.extractLsb' 0 m) h
      simpa [BitVec.extractLsb'_append_eq_right] using this
  · rintro ⟨rfl, rfl⟩; rfl

theorem ofBool_eq_fld_iff (w : Word) (lo : Nat) (b : Bool) : BitVec.ofBool b = fld w lo 1 ↔ b = flg w lo := by
  have hbit : fld w lo 1 = BitVec.ofBool (flg w lo) := by
    apply BitVec.eq_of_getLsbD_eq; intro i hi
    obtain rfl : i = 0 := by omega
    simp [fld, flg]
  rw [hbit, BitVec.ofBool_eq_iff_eq]

theorem guarded_eq_fld_iff (w : Word) (g : Guard) (body : BitVec 32) :
    guarded g body = fld w 0 36 ↔ g = grdOf w ∧ body = fld w 0 32 := by
  rw [guarded, append_eq_fld_iff (n := 4) (m := 32), append_eq_fld_iff, ofBool_eq_fld_iff]
  obtain ⟨p, pn⟩ := g
  simp only [grdOf, Guard.mk.injEq]

/-- A word is packed from its header, its opcode and its low bits alone (R75). -/
theorem packWord_eq_iff (w : Word) (h : Hdr) (op : BitVec 9) (body : BitVec 36) :
    packWord h op body = w ↔ h = hdrOf w ∧ op = opOf w ∧ body = fld w 0 36 := by
  have hw : w = fld w 0 64 := by simp [fld]
  conv => lhs; rw [hw]
  rw [packWord, append_eq_fld_iff (n := 28) (m := 36), append_eq_fld_iff (n := 19) (m := 9), append_eq_fld_iff (n := 15) (m := 4),
    append_eq_fld_iff (n := 11) (m := 4), append_eq_fld_iff (n := 10) (m := 1), ofBool_eq_fld_iff]
  obtain ⟨idle, sw, tkp, tks⟩ := h
  simp only [hdrOf, opOf, Hdr.mk.injEq, Nat.reduceAdd, and_assoc]

/-! ## What decoding admits -/

/-- The masks of R84's rows are not empty. -/
theorem maskOf_ne_zero_of_mem (n : Fin 512) : ∀ f ∈ fieldRules n, maskOf f.1 f.2.1 ≠ 0 := by
  revert n; decide +kernel

/-- Masks collected one by one are empty when none is collected. -/
theorem foldl_or_eq_zero_iff {α : Type} (p : α → Bool) (m : α → BitVec 64) (l : List α) (hm : ∀ f ∈ l, m f ≠ 0) (start : BitVec 64) :
    l.foldl (fun a f => if p f then a ||| m f else a) start = 0 ↔ start = 0 ∧ ∀ f ∈ l, p f = false := by
  induction l generalizing start with
  | nil => simp
  | cons f fs ih =>
    obtain ⟨hf, hfs⟩ := List.forall_mem_cons.mp hm
    rw [List.foldl_cons, ih hfs, List.forall_mem_cons]
    cases hp : p f
    · simp
    · have : ¬(start ||| m f = 0) := fun h => hf (BitVec.or_eq_zero_iff.mp h).2
      simp only [if_true, this, false_and, Bool.true_eq_false, and_false]

theorem opOf_toNat_lt (w : Word) : (opOf w).toNat < 512 := (opOf w).isLt

/-- The system core's header rule is the one on a word's header (R77). -/
theorem hdrOf_admits_iff (w : Word) (e : Issuer) : (hdrOf w).admits e = true ↔ ¬(e = .sys ∧ fld w 45 9 ≠ 0) := by
  have hz : 0 = fld w 45 9 ↔ (false = flg w 53 ∧ 0 = fld w 49 4) ∧ 0 = fld w 45 4 := by
    rw [← ofBool_eq_fld_iff, show 53 = 49 + 4 from rfl, ← append_eq_fld_iff, show 49 = 45 + 4 from rfl, ← append_eq_fld_iff (n := 5)]; rfl
  rw [eq_comm (b := fld w 45 9), eq_comm (b := flg w 53), eq_comm (b := fld w 49 4), eq_comm (b := fld w 45 4)] at hz
  cases e with
  | eng => simp only [Hdr.admits, reduceCtorEq, false_and, not_false_eq_true, iff_true]; rfl
  | sys => simp only [Hdr.admits, hdrOf, true_and, ne_eq, Classical.not_not, hz, bne_self_eq_false, Bool.false_or, Bool.and_eq_true, Bool.not_eq_true', beq_iff_eq]

/-- No bit of a word is refused when its header is the stream's and no rule of its opcode refuses a field (R77, R84). -/
theorem refusedBits_eq_zero_iff (w : Word) (e : Issuer) :
    refusedBits w e = 0 ↔ (hdrOf w).admits e = true ∧ ∀ f ∈ fieldRules (opOf w).toNat, f.2.2.refuses w e (bits w f.1 f.2.1) = false := by
  unfold refusedBits
  rw [foldl_or_eq_zero_iff _ _ _ (maskOf_ne_zero_of_mem ⟨_, opOf_toNat_lt w⟩), hdrOf_admits_iff]
  refine and_congr_left fun _ => ?_
  split
  next h => exact iff_of_false (by decide) (not_not_intro h)
  next h => exact iff_of_true rfl h

/-- The privileged opcodes are the system core's. -/
theorem validity_of_priv (n : Fin 512) (h : 0x140 ≤ n.val ∧ n.val ≤ 0x14B) : validity n = some [.sys] := by
  revert n; decide +kernel

/-- What a stream decodes: a word of an opcode valid for it, whose header and fields it admits, built by its opcode (R82). -/
theorem decode_eq_ok_iff (w : Word) (e : Issuer) (i : Instr) :
    decode w e = .ok i ↔ (∃ v, validity (opOf w).toNat = some v ∧ e ∈ v) ∧ (hdrOf w).admits e = true ∧
      (∀ f ∈ fieldRules (opOf w).toNat, f.2.2.refuses w e (bits w f.1 f.2.1) = false) ∧
      (∀ f ∈ formatFields w, f.toNat < 0x0E) ∧ buildInstr w = some i := by
  have hformats : (formatFields w).any (fun f => decide (0x0E ≤ f.toNat)) = true ↔ ¬∀ f ∈ formatFields w, f.toNat < 0x0E := by
    simp only [List.any_eq_true, decide_eq_true_eq, Classical.not_forall, Nat.not_lt, exists_prop]
  rw [← and_assoc (a := (hdrOf w).admits e = true), ← refusedBits_eq_zero_iff]
  unfold decode
  split
  next hv => simp only [hv, reduceCtorEq, false_and, exists_false]
  next v hv =>
    simp only [hv, Option.some.injEq, exists_eq_left']
    split
    next hp =>
      obtain rfl := Option.some.inj ((validity_of_priv ⟨_, opOf_toNat_lt w⟩ ⟨hp.1, hp.2.1⟩).symm.trans hv)
      simp only [reduceCtorEq, List.mem_singleton, hp.2.2, false_and]
    split
    next he => simp only [reduceCtorEq, he, false_and]
    split
    next hr => simp only [reduceCtorEq, hr, false_and, and_false]
    split
    next hf => simp only [reduceCtorEq, hformats.mp hf, false_and, and_false]
    next he hr hf =>
      rw [hformats, Classical.not_not] at hf
      rw [ne_eq, Classical.not_not] at hr
      rw [Classical.not_not] at he
      split
      next j hb => simp only [hb, he, hr, true_and, Except.ok.injEq, Option.some.injEq, and_iff_right hf]
      next hb => simp only [hb, reduceCtorEq, and_false]

/-! ## What an encoding holds -/

/-- The field of a word that begins at bit lo holds x. -/
def Holds (w : Word) (lo : Nat) {n : Nat} (x : BitVec n) : Prop := x = fld w lo n

theorem holds_append (w : Word) (lo : Nat) {n m : Nat} (x : BitVec n) (y : BitVec m) :
    Holds w lo (x ++ y) ↔ Holds w (lo + m) x ∧ Holds w lo y := append_eq_fld_iff w lo x y

theorem holds_ofBool (w : Word) (lo : Nat) (b : Bool) : Holds w lo (BitVec.ofBool b) ↔ b = flg w lo := ofBool_eq_fld_iff w lo b

theorem holds_zero (w : Word) (lo n : Nat) : Holds w lo 0#n ↔ (fld w lo n).toNat = 0 := by
  rw [Holds, eq_comm, ← BitVec.toNat_inj]; rfl

theorem holds_guarded (w : Word) (g : Guard) (body : BitVec 32) :
    Holds w 0 (guarded g body) ↔ g = grdOf w ∧ Holds w 0 body := guarded_eq_fld_iff w g body

theorem holds_iff (w : Word) (lo n : Nat) (x : BitVec n) : Holds w lo x ↔ x = fld w lo n := Iff.rfl

theorem some_packWord_eq_iff (w : Word) (h : Hdr) (op : BitVec 9) (body : BitVec 36) :
    some (packWord h op body) = some w ↔ h = hdrOf w ∧ (opOf w).toNat = op.toNat ∧ Holds w 0 body := by
  rw [Option.some.injEq, packWord_eq_iff, eq_comm (a := op), BitVec.toNat_inj, Holds]

theorem mem_allStreams (e : Issuer) : e ∈ allStreams := by
  rcases e with (_ | _ | _ | _ | _) | _ <;> decide

theorem bits_eq_toNat_fld (w : Word) (h l : Nat) : bits w h l = (fld w l (h + 1 - l)).toNat := rfl

theorem fld_fld (w : Word) (lo n lo' n' : Nat) (h : lo' + n' ≤ n) : (fld w lo n).extractLsb' lo' n' = fld w (lo + lo') n' := by
  apply BitVec.eq_of_getLsbD_eq; intro i hi
  simp only [fld, BitVec.getLsbD_extractLsb', hi, show lo' + i < n by omega, decide_true, Bool.true_and, Nat.add_assoc]

/-! ## What each rule of R84 admits -/

section
variable (w : Word) (e : Issuer) (v n : Nat)

theorem zero_admits_iff : FieldRule.zero.refuses w e v = false ↔ v = 0 := bne_eq_false_iff_eq
theorem is_admits_iff : (FieldRule.is n).refuses w e v = false ↔ v ≠ n := beq_eq_false_iff_ne
theorem atLeast_admits_iff : (FieldRule.atLeast n).refuses w e v = false ↔ v < n := by rw [FieldRule.refuses, decide_eq_false_iff_not, Nat.not_le]
theorem below_admits_iff : (FieldRule.below n).refuses w e v = false ↔ n ≤ v := by rw [FieldRule.refuses, decide_eq_false_iff_not, Nat.not_lt]
theorem engine_admits_iff : FieldRule.engine.refuses w e v = false ↔ engineRefused e v = false := Iff.rfl
theorem waitKind_admits_iff : FieldRule.waitKind.refuses w e v = false ↔ waitKindRefused e v = false := Iff.rfl
theorem registerZero_admits_iff : FieldRule.registerZero.refuses w e v = false ↔ flg w 17 = false ∨ v = 0 := by
  rw [FieldRule.refuses, Bool.and_eq_false_iff, bne_eq_false_iff_eq]

end

/-- An instruction built from a word of these opcodes decodes from it just where it is well formed and the word is its encoding. -/
def FaithfulOn (lo hi : Nat) : Prop := ∀ w e i, lo ≤ (opOf w).toNat → (opOf w).toNat ≤ hi → buildInstr w = some i →
  (decode w e = .ok i ↔ i.wf e = true ∧ encode i = some w)

theorem mem_range'_of_le_of_le {n lo hi : Nat} (h : lo ≤ n) (h' : n ≤ hi) : n ∈ List.range' lo (hi + 1 - lo) :=
  List.mem_range'_1.mpr ⟨h, by omega⟩

/-- Each opcode by itself: what its row of R84 admits is what its instruction's fields must meet, and the rest of the word is that instruction's
encoding. -/
theorem faithfulOn (lo hi : Nat) (h : FaithfulOn lo hi := by
    intro w e i hlo hhi hb
    rw [decode_eq_ok_iff, and_iff_left hb]
    have hmem := mem_range'_of_le_of_le hlo hhi
    generalize hn : (opOf w).toNat = n at hmem
    clear hlo hhi
    simp only [List.range', List.mem_cons, List.not_mem_nil, or_false, Nat.reduceAdd, Nat.reduceSub] at hmem
    repeat' (obtain rfl | hmem := hmem)
    all_goals
      conv at hb in buildInstr _ => delta buildInstr; rw [hn]; whnf
      obtain rfl := Option.some.inj hb
      delta Instr.wf encode formatFields
      dsimp only
      conv in fieldRules _ => whnf
      conv in validity _ => whnf
      rw [hn, some_packWord_eq_iff]
      simp only [holds_guarded, holds_append, holds_ofBool, holds_zero]
      simp only [holds_iff, hn, List.forall_mem_cons, zero_admits_iff, is_admits_iff, atLeast_admits_iff, below_admits_iff, engine_admits_iff, waitKind_admits_iff, registerZero_admits_iff, mem_allStreams,
        Option.some.injEq, exists_eq_left', true_and, List.not_mem_nil, false_implies, implies_true, and_true,
        BitVec.toNat_ofNat, Nat.reducePow, Nat.reduceMod, Nat.reduceAdd, bits_eq_toNat_fld, Nat.reduceSub, and_assoc,
        List.contains_eq_mem, Bool.and_eq_true, decide_eq_true_eq, Bool.not_eq_true', bne_iff_ne, 
        fld_fld, Bool.or_eq_true, beq_iff_eq, Nat.reduceLeDiff]
      try simp only [and_assoc, and_comm, and_left_comm]
      ) : FaithfulOn lo hi := h

/-! ## The opcodes, as R87 groups them -/

theorem faithfulOn_control : FaithfulOn 0 20 := faithfulOn 0 20

theorem faithfulOn_scalar : FaithfulOn 32 80 := faithfulOn 32 80

theorem faithfulOn_float : FaithfulOn 81 90 := faithfulOn 81 90

theorem faithfulOn_a : FaithfulOn 112 141 := faithfulOn 112 141

theorem faithfulOn_t : FaithfulOn 160 171 := faithfulOn 160 171

theorem faithfulOn_m : FaithfulOn 192 200 := faithfulOn 192 200

theorem faithfulOn_v : FaithfulOn 224 268 := faithfulOn 224 268

theorem faithfulOn_c : FaithfulOn 304 308 := faithfulOn 304 308

theorem faithfulOn_sys : FaithfulOn 320 331 := faithfulOn 320 331

/-- The opcodes R87 assigns are those groups. -/
theorem opcode_groups_of_validity (n : Fin 512) (h : (validity n).isSome = true) :
    n.val ≤ 20 ∨ 32 ≤ n.val ∧ n.val ≤ 80 ∨ 81 ≤ n.val ∧ n.val ≤ 90 ∨ 112 ≤ n.val ∧ n.val ≤ 141 ∨ 160 ≤ n.val ∧ n.val ≤ 171 ∨
      192 ≤ n.val ∧ n.val ≤ 200 ∨ 224 ≤ n.val ∧ n.val ≤ 268 ∨ 304 ≤ n.val ∧ n.val ≤ 308 ∨ 320 ≤ n.val ∧ n.val ≤ 331 := by
  revert n; decide +kernel

/-- Where a word's opcode is assigned, what it builds decodes from it just where it is well formed and the word is its encoding. -/
theorem decode_eq_ok_iff_of_buildInstr {w : Word} {e : Issuer} {i : Instr} (hv : (validity (opOf w).toNat).isSome = true)
    (hb : buildInstr w = some i) : decode w e = .ok i ↔ i.wf e = true ∧ encode i = some w := by
  obtain h | ⟨h, h'⟩ | ⟨h, h'⟩ | ⟨h, h'⟩ | ⟨h, h'⟩ | ⟨h, h'⟩ | ⟨h, h'⟩ | ⟨h, h'⟩ | ⟨h, h'⟩ := opcode_groups_of_validity ⟨_, opOf_toNat_lt w⟩ hv
  · exact faithfulOn_control w e i (Nat.zero_le _) h hb
  · exact faithfulOn_scalar w e i h h' hb
  · exact faithfulOn_float w e i h h' hb
  · exact faithfulOn_a w e i h h' hb
  · exact faithfulOn_t w e i h h' hb
  · exact faithfulOn_m w e i h h' hb
  · exact faithfulOn_v w e i h h' hb
  · exact faithfulOn_c w e i h h' hb
  · exact faithfulOn_sys w e i h h' hb

/-! ## What an instruction's word builds -/

/-- The word of an instruction of these opcodes builds it again, and its opcode is one R87 assigns. -/
def BuildsBackOn (lo hi : Nat) : Prop := ∀ w i, lo ≤ (opOf w).toNat → (opOf w).toNat ≤ hi → encode i = some w →
  (validity (opOf w).toNat).isSome = true ∧ buildInstr w = some i

/-- Each instruction by itself: its word holds its fields where they are read again. -/
theorem buildsBackOn (lo hi : Nat) (h : BuildsBackOn lo hi := by
    intro w i hlo hhi h
    cases i <;> injection h <;> rename_i h
    all_goals
      obtain ⟨hhdr, hop, hbody⟩ := (packWord_eq_iff ..).mp h
      replace hop := congrArg BitVec.toNat hop.symm
    all_goals try exact absurd (hop ▸ hlo) (by decide)
    all_goals try exact absurd (hop ▸ hhi) (by decide)
    all_goals
      replace hbody : Holds w 0 _ := hbody
      simp only [holds_guarded, holds_append, holds_ofBool, holds_zero] at hbody
      simp only [holds_iff, Nat.reduceAdd, BitVec.toNat_ofNat, Nat.reducePow, Nat.reduceMod] at hop hbody
      refine ⟨by rw [hop]; rfl, ?_⟩
      conv in buildInstr _ => delta buildInstr; rw [hop]; whnf
      simp only [hhdr, hbody]) : BuildsBackOn lo hi := h

theorem buildsBackOn_low : BuildsBackOn 0 127 := buildsBackOn 0 127

theorem buildsBackOn_high : BuildsBackOn 128 511 := buildsBackOn 128 511

theorem buildInstr_of_encode {w : Word} {i : Instr} (h : encode i = some w) :
    (validity (opOf w).toNat).isSome = true ∧ buildInstr w = some i := by
  by_cases hlow : (opOf w).toNat ≤ 127
  · exact buildsBackOn_low w i (Nat.zero_le _) hlow h
  · exact buildsBackOn_high w i (by omega) (by have := opOf_toNat_lt w; omega) h

/-- Settles O51: a word decodes to the instruction it builds, which is well formed and encodes to it; and an instruction's word builds it again. -/
theorem decodeEncode : Obligations.DecodeEncode := by
  unfold Obligations.DecodeEncode
  constructor
  · intro e i w hwf henc
    obtain ⟨hv, hb⟩ := buildInstr_of_encode henc
    exact (decode_eq_ok_iff_of_buildInstr hv hb).mpr ⟨hwf, henc⟩
  · intro e i w hd
    obtain ⟨⟨v, hv, -⟩, -, -, -, hb⟩ := (decode_eq_ok_iff w e i).mp hd
    exact (decode_eq_ok_iff_of_buildInstr (by rw [hv]; rfl) hb).mp hd

end Sys2Proof.Laws
end

section
/-! PROOFS. The clock (R378): a period moves each replica on within its bounds, and no other turn touches the clock but a reset. -/

-- In order, so that the one-text compile stays within memory.
set_option Elab.async false

namespace Sys2Proof.Machine
open Sys2Proof

/-- The invariant of StepKeepsReplicasNear and the order between two clocks: what a step may do to the clock record. -/
def Clock.follows (c c' : Clock) : Prop := c'.near ∧ (c' = {} ∨ ∀ d : Fin 4, c.rep[d] ≤ c'.rep[d])

theorem Clock.near_fresh : ({} : Clock).near := by
  unfold Clock.near; decide

theorem nextRep_bounds {t old free : Nat} (h : old ≤ 10 * t + 17) :
    10 * (t + 1) ≤ nextRep (t + 1) old free + 17 ∧ nextRep (t + 1) old free ≤ 10 * (t + 1) + 17 ∧ old ≤ nextRep (t + 1) old free := by
  unfold nextRep; omega

theorem Clock.follows_next {c : Clock} (h : c.near) (free : Nat) : c.follows (c.next free) := by
  have hrep (d : Fin 4) := nextRep_bounds (free := Config.freeNat free (80 + d.val)) (h d).2
  refine ⟨fun d => ?_, .inr fun d => ?_⟩
  · simp only [Clock.next, Fin.getElem_fin, Vector.getElem_ofFn]
    exact ⟨(hrep d).1, (hrep d).2.1⟩
  · simp only [Clock.next, Fin.getElem_fin, Vector.getElem_ofFn]
    exact (hrep d).2.2

theorem Clock.follows_refl {c : Clock} (h : c.near) : c.follows c := ⟨h, .inr fun _ => Nat.le_refl _⟩

theorem Clock.follows_fresh (c : Clock) : c.follows {} := ⟨Clock.near_fresh, .inl rfl⟩

theorem keepClock_timed (c : Clock) (r : Host.Outcome State Fault Refusal) : keepClock c true r = r := by
  cases r <;> rfl

/-- A turn in which no time passes leaves the clock of before it, or the fresh one of a package reset. -/
theorem keepClock_clock {c : Clock} {r : Host.Outcome State Fault Refusal} {t : State} (h : keepClock c false r = .next t) :
    t.clock = c ∨ t.clock = {} := by
  cases r with
  | next u =>
    simp only [keepClock, Bool.false_or, Host.Outcome.next.injEq] at h
    split at h
    next hu => exact .inr (h ▸ beq_iff_eq.mp hu)
    next => exact .inl (h ▸ rfl)
  | fault => cases h
  | refused => cases h

@[simp] theorem State.tick_clock (s : State) : s.tick.clock = s.clock.next s.free := rfl

theorem Turn.timed_iff (t : Turn) : t.timed = true ↔ t = .tick := by
  cases t <;> simp [Turn.timed]

theorem step_clock_follows {s t : State} (hn : s.clock.near) (h : step s = .next t) : s.clock.follows t.clock := by
  unfold step at h
  split at h
  next => cases h; exact Clock.follows_refl hn
  next u rest ha =>
    cases hu : u.timed with
    | true =>
      obtain rfl := (Turn.timed_iff u).mp hu
      rw [hu, keepClock_timed] at h
      cases h
      exact Clock.follows_next hn s.free
    | false =>
      rw [hu] at h
      obtain hc | hc := keepClock_clock h <;> rw [hc]
      · exact Clock.follows_refl hn
      · exact Clock.follows_fresh s.clock

/-- Settles O53: a step leaves the clock, moves it on one period, or starts it afresh. -/
theorem stepKeepsReplicasNear : Obligations.StepKeepsReplicasNear := by
  unfold Obligations.StepKeepsReplicasNear
  exact fun _ _ => step_clock_follows

/-- Settles O54: the fresh clock's replicas read 0 at time 0. -/
theorem resetReplicasNear : Obligations.ResetReplicasNear := Clock.near_fresh

end Sys2Proof.Machine
end

section
/-! PROOFS. How a word runs: the two shapes of an issue, with and without a guard, in the form the statements use, and what every issue keeps of
the current stream. -/

-- In order, so that the one-text compile stays within memory.
set_option Elab.async false

namespace Sys2Proof.Machine
open Sys2Proof

/-! ## One issue of a word -/

/-- A word without a guard that issues and goes on. -/
theorem runWord_ready_ok {i : Instr} {h : Hdr} {ready : State → Bool} {body : Body} {s t : State} {fl : Flow} (hi : s.issues i h)
    (hr : ready s = true) (hb : body (s.popped h (extraPop i)) = .ok (t, fl)) : runWord i h ready body s = .next (t.finish fl) := by
  rw [runWord_issues hi hr, hb]

theorem runWord_ok {i : Instr} {h : Hdr} {body : Body} {s t : State} {fl : Flow} (hi : s.issues i h)
    (hb : body (s.popped h (extraPop i)) = .ok (t, fl)) : runWord i h always body s = .next (t.finish fl) :=
  runWord_ready_ok hi rfl hb

/-- A word without a guard that issues and stops. -/
theorem runWord_ready_error {i : Instr} {h : Hdr} {ready : State → Bool} {body : Body} {s : State} {st : Stop} (hi : s.issues i h)
    (hr : ready s = true) (hb : body (s.popped h (extraPop i)) = .error st) : runWord i h ready body s = .next (s.stopIssue st) := by
  rw [runWord_issues hi hr, hb]

theorem runWord_error {i : Instr} {h : Hdr} {body : Body} {s : State} {st : Stop} (hi : s.issues i h)
    (hb : body (s.popped h (extraPop i)) = .error st) : runWord i h always body s = .next (s.stopIssue st) :=
  runWord_ready_error hi rfl hb

/-- A word with a true guard that issues and goes on. -/
theorem runGuarded_ready_ok {i : Instr} {h : Hdr} {g : Guard} {ready : State → Bool} {body : Body} {s t : State} {fl : Flow} (ho : s.opens i h g)
    (hr : ready s = true) (hb : body (s.opened h) = .ok (t, fl)) (he : extraPop i = none := by rfl) :
    runGuarded i h g ready body s = .next (t.finish fl) := by
  rw [runGuarded_opens he ho hr, hb]

theorem runGuarded_ok {i : Instr} {h : Hdr} {g : Guard} {body : Body} {s t : State} {fl : Flow} (ho : s.opens i h g)
    (hb : body (s.opened h) = .ok (t, fl)) (he : extraPop i = none := by rfl) : runGuarded i h g always body s = .next (t.finish fl) :=
  runGuarded_ready_ok ho rfl hb he

/-- A word with a true guard that issues and stops. -/
theorem runGuarded_ready_error {i : Instr} {h : Hdr} {g : Guard} {ready : State → Bool} {body : Body} {s : State} {st : Stop}
    (ho : s.opens i h g) (hr : ready s = true) (hb : body (s.opened h) = .error st) (he : extraPop i = none := by rfl) :
    runGuarded i h g ready body s = .next (s.stopIssue st) := by
  rw [runGuarded_opens he ho hr, hb]

theorem runGuarded_error {i : Instr} {h : Hdr} {g : Guard} {body : Body} {s : State} {st : Stop} (ho : s.opens i h g)
    (hb : body (s.opened h) = .error st) (he : extraPop i = none := by rfl) : runGuarded i h g always body s = .next (s.stopIssue st) :=
  runGuarded_ready_error ho rfl hb he

/-- A word with a true guard whose body, after what it does at issue, is results. -/
theorem runGuarded_ready_lands {i : Instr} {h : Hdr} {g : Guard} {ready : State → Bool} {body : Body} {s u : State} {lat : Nat} {effs : List Eff}
    (ho : s.opens i h g) (hr : ready s = true) (hb : body (s.opened h) = results h lat effs u) (he : extraPop i = none := by rfl) :
    runGuarded i h g ready body s = .next (u.sends h lat effs) := by
  rw [runGuarded_opens he ho hr, hb]; rfl

theorem runGuarded_lands {i : Instr} {h : Hdr} {g : Guard} {body : Body} {s u : State} {lat : Nat} {effs : List Eff} (ho : s.opens i h g)
    (hb : body (s.opened h) = results h lat effs u) (he : extraPop i = none := by rfl) :
    runGuarded i h g always body s = .next (u.sends h lat effs) :=
  runGuarded_ready_lands ho rfl hb he

/-- A word without a guard whose body, after what it does at issue, is results. -/
theorem runWord_ready_lands {i : Instr} {h : Hdr} {ready : State → Bool} {body : Body} {s u : State} {lat : Nat} {effs : List Eff}
    (hi : s.issues i h) (hr : ready s = true) (hb : body (s.popped h (extraPop i)) = results h lat effs u) :
    runWord i h ready body s = .next (u.sends h lat effs) := by
  rw [runWord_issues hi hr, hb]; rfl

/-! ## The current stream at an issue -/

@[simp] theorem State.updDie_cores_job? (s : State) (d : DieId) (f : Die → Die) (hf : (f (s.die d)).recs = (s.die d).recs) (e : DieId) (r : Nat) :
    (s.updDie d f).job? e r = s.job? e r := by
  unfold State.job?
  by_cases h : e = d
  · subst h; rw [State.updDie_die, hf]
  · rw [State.updDie_die_ne _ _ h]

@[simp] theorem State.updCore_job? (s : State) (d : DieId) (c : CoreId) (f : Core → Core) (e : DieId) (r : Nat) :
    (s.updCore d c f).job? e r = s.job? e r := by
  simp only [State.job?, State.updCore_die_recs]

@[simp] theorem State.updCore_sysc (s : State) (d : DieId) (c : CoreId) (f : Core → Core) (e : DieId) :
    (s.updCore d c f).sysc e = s.sysc e := by
  unfold State.sysc State.updCore
  by_cases h : e = d
  · subst h; simp
  · rw [State.updDie_die_ne _ _ h]

/-- A change of a core that keeps its slots moves no job. -/
theorem State.updCore_slotRec? (s : State) (d : DieId) (c : CoreId) {f : Core → Core} (hf : ∀ x, (f x).slots = x.slots) (e : DieId) (b : CoreId)
    (k : SlotId) : (s.updCore d c f).slotRec? e b k = s.slotRec? e b k := by
  unfold State.slotRec? State.core State.updCore
  by_cases h : e = d
  · subst h
    simp only [State.updDie_die, Fin.getElem_fin, Vector.getElem_set]
    split
    next hc => simp [hf, hc]
    · rfl
  · rw [State.updDie_die_ne _ _ h]

theorem State.updCore_slotJob? (s : State) (d : DieId) (c : CoreId) {f : Core → Core} (hf : ∀ x, (f x).slots = x.slots) (e : DieId) (b : CoreId)
    (k : SlotId) : (s.updCore d c f).slotJob? e b k = s.slotJob? e b k := by
  unfold State.slotJob?
  rw [State.updCore_slotRec? s d c hf]
  cases s.slotRec? e b k with
  | none => rfl
  | some r => exact State.updCore_job? s d c f e r

theorem State.updCore_stream? (s : State) (d : DieId) (c : CoreId) {f : Core → Core} (hf : ∀ x, (f x).slots = x.slots) (w : Who) :
    (s.updCore d c f).stream? w = s.stream? w := by
  cases w with
  | eng e b k n => unfold State.stream?; simp only [State.updCore_slotJob? s d c hf]
  | sys e => unfold State.stream?; simp only [State.updCore_sysc]

/-- What an acquire by tokens can do: nothing, or drop the L1 of its core. -/
theorem State.acquireTokens_cases (s : State) : s.acquireTokens = s ∨ ∃ d c, s.acquireTokens = s.updCore d c Core.dropL1s := by
  unfold State.acquireTokens State.acquireL1
  rcases hw : s.cur with ⟨d, c, k, e⟩ | d
  · cases e
    case a => exact .inr ⟨d, c, rfl⟩
    case c | t | m | v => exact .inl rfl
  · exact .inl rfl

@[simp] theorem State.acquireTokens_stream? (s : State) (w : Who) : s.acquireTokens.stream? w = s.stream? w := by
  rcases s.acquireTokens_cases with h | ⟨d, c, h⟩ <;> rw [h]
  exact State.updCore_stream? s d c (f := Core.dropL1s) (fun _ => rfl) w

@[simp] theorem State.acquireTokens_cur (s : State) : s.acquireTokens.cur = s.cur := by
  rcases s.acquireTokens_cases with h | ⟨d, c, h⟩ <;> rw [h]
  rfl

/-! ## The cycle of a stream, which no update of a job, a stream or a core moves -/

theorem State.updDie_timeOf (s : State) (d : DieId) (f : Die → Die) (hf : (f (s.die d)).groves = (s.die d).groves) (w : Who) :
    (s.updDie d f).timeOf w = s.timeOf w := by
  cases w with
  | sys e => rfl
  | eng e c k n =>
    simp only [State.timeOf, State.grove]
    by_cases h : e = d
    · subst h; rw [State.updDie_die, hf]
    · rw [State.updDie_die_ne _ _ h]

@[simp] theorem State.updCore_timeOf (s : State) (d : DieId) (c : CoreId) (f : Core → Core) (w : Who) : (s.updCore d c f).timeOf w = s.timeOf w :=
  State.updDie_timeOf s d _ rfl w

@[simp] theorem State.updJob_timeOf (s : State) (d : DieId) (r : Nat) (f : Job → Job) (w : Who) : (s.updJob d r f).timeOf w = s.timeOf w :=
  State.updDie_timeOf s d _ rfl w

@[simp] theorem State.updSys_timeOf (s : State) (d : DieId) (f : SysCore → SysCore) (w : Who) : (s.updSys d f).timeOf w = s.timeOf w :=
  State.updDie_timeOf s d _ rfl w

@[simp] theorem State.updJobOf_timeOf (s : State) (v : Who) (f : Job → Job) (w : Who) : (s.updJobOf v f).timeOf w = s.timeOf w := by
  unfold State.updJobOf
  split
  · split <;> simp
  · rfl

@[simp] theorem State.updStream_timeOf (s : State) (v : Who) (f : Stream → Stream) (w : Who) : (s.updStream v f).timeOf w = s.timeOf w := by
  unfold State.updStream
  split
  · split <;> simp
  · simp

@[simp] theorem State.updStr_now (s : State) (f : Stream → Stream) : (s.updStr f).now = s.now := by
  unfold State.now State.updStr; simp

@[simp] theorem State.updJb_now (s : State) (f : Job → Job) : (s.updJb f).now = s.now := by
  unfold State.now State.updJb; simp

@[simp] theorem State.launchWord_now (s : State) (tks : BitVec 4) (land : Option Nat) (effs : List Eff) (work : Work) :
    (s.launchWord tks land effs work).now = s.now := State.updStr_now s _

/-! ## The current stream -/

/-- The current stream exists. -/
def State.hasCur (s : State) : Prop := (s.stream? s.cur).isSome = true

theorem State.hasCur.updStr {s : State} (h : s.hasCur) (f : Stream → Stream) : (s.updStr f).hasCur := by
  unfold State.hasCur State.updStr
  rw [State.updStream_cur, State.updStream_stream?, Option.isSome_map]
  exact h

theorem State.hasCur.updJb {s : State} (h : s.hasCur) (f : Job → Job) : (s.updJb f).hasCur := by
  unfold State.hasCur State.updJb at *
  rw [State.updJobOf_cur]
  cases hw : s.cur with
  | sys d => rw [hw] at h; exact h
  | eng d c k e =>
    rw [hw] at h
    simp only [State.updJobOf]
    cases hr : s.slotRec? d c k with
    | none => exact h
    | some r =>
      simp only [State.stream?, State.slotJob?, State.updJob_slotRec?, hr, Option.bind_some, State.updJob_job?, Option.isSome_map] at h ⊢
      exact h

theorem State.hasCur.acquireTokens {s : State} (h : s.hasCur) : s.acquireTokens.hasCur := by
  unfold State.hasCur
  rw [State.acquireTokens_stream?, State.acquireTokens_cur]
  exact h

theorem State.hasCur.popMask {s : State} (h : s.hasCur) (e : Engine) (m : BitVec 4) (x : Option (Engine × Nat)) : (s.popMask e m x).hasCur := by
  unfold State.popMask
  have fold : ∀ (l : List (Engine × Nat)) (t : State), t.hasCur → (l.foldl (fun s p =>
      let r := s.jb.popToks p.1 e p.2
      (s.updJb fun _ => r.1).updStr fun st => { st with cov := st.cov ++ r.2 }) t).hasCur := by
    intro l
    induction l with
    | nil => exact fun t ht => ht
    | cons p l ih => exact fun t ht => ih _ ((ht.updJb _).updStr _)
  refine fold _ _ ?_
  exact iteInduction (motive := State.hasCur) (fun _ => h) fun _ => h.acquireTokens

/-- Popping its tokens leaves a word's stream in being. -/
theorem State.hasCur.popped {s : State} (h : s.hasCur) (hd : Hdr) (x : Option (Engine × Nat)) : (s.popped hd x).hasCur := by
  unfold State.popped
  split
  · exact h.popMask _ _ _
  · exact h

@[simp] theorem State.popMask_cur (s : State) (e : Engine) (m : BitVec 4) (x : Option (Engine × Nat)) : (s.popMask e m x).cur = s.cur := by
  unfold State.popMask
  have fold : ∀ (l : List (Engine × Nat)) (t : State), (l.foldl (fun s p =>
      let r := s.jb.popToks p.1 e p.2
      (s.updJb fun _ => r.1).updStr fun st => { st with cov := st.cov ++ r.2 }) t).cur = t.cur := by
    intro l
    induction l with
    | nil => exact fun t => rfl
    | cons p l ih => intro t; rw [List.foldl_cons, ih]; simp
  rw [fold]
  exact iteInduction (motive := fun t : State => t.cur = s.cur) (fun _ => rfl) fun _ => s.acquireTokens_cur

@[simp] theorem State.popped_cur (s : State) (h : Hdr) (x : Option (Engine × Nat)) : (s.popped h x).cur = s.cur := by
  unfold State.popped
  split <;> simp

@[simp] theorem State.opened_cur (s : State) (h : Hdr) : (s.opened h).cur = s.cur := State.popped_cur s h none

@[simp] theorem State.launchWord_cur (s : State) (tks : BitVec 4) (land : Option Nat) (effs : List Eff) (work : Work) :
    (s.launchWord tks land effs work).cur = s.cur := State.updStr_cur s _

theorem State.issues.hasCur {s : State} {i : Instr} {h : Hdr} (hi : s.issues i h) : s.hasCur := hi.1

end Sys2Proof.Machine
end

section
/-! PROOFS. The scalar floating-point words (R132-R136) and the control words (R113-R124). -/

-- In order, so that the one-text compile stays within memory.
set_option Elab.async false

namespace Sys2Proof.Machine
open Sys2Proof

/-! ## The scalar floating-point words (R132-R136) -/

/-- The two ordered compares of R135 are false where either operand is a NaN. -/
theorem fpCond_lt (a b : Val) : fpCond 2 a b = (!a.isNan && !b.isNan && Val.lt a b) := by
  cases ha : a.isNan <;> cases hb : b.isNan <;> simp [fpCond, ha, hb]

theorem fpCond_le (a b : Val) : fpCond 3 a b = (!a.isNan && !b.isNan && !Val.lt b a) := by
  cases ha : a.isNan <;> cases hb : b.isNan <;> simp [fpCond, ha, hb]

/-- A guarded word whose body, on every state, is results. -/
theorem landsGuarded_of_body {i : Instr} {h : Hdr} {g : Guard} {lat : Nat} {effs : State → List Eff} {body : Body} (he : extraPop i = none)
    (hx : ∀ s, exec i s = runGuarded i h g always body s) (hb : ∀ u, body u = results h lat (effs u) u) : landsGuarded i h g lat effs :=
  landsGuarded_of he fun s => by rw [hx, funext hb]

/-- Settles O6: each word is the model's own rounding function; FCVT's two cases are told apart by its formats. -/
theorem floatWordsLandTheirRounding : Obligations.FloatWordsLandTheirRounding := by
  unfold Obligations.FloatWordsLandTheirRounding
  simp only [List.forall_mem_cons, List.not_mem_nil, false_implies, implies_true, and_true]
  refine ⟨?fadd, ?fsub, ?fmul, ?ffma, ⟨?fmin, ?fmax⟩, ⟨?fceq, ?fclt, ?fcle⟩, ?fcvt, ?typeBad⟩
  case fadd | fsub | fmul => intro h g d s1 s2 f; exact landsGuarded_of rfl fun _ => rfl
  case ffma => intro h g d s1 s2 f s3; exact landsGuarded_of rfl fun _ => rfl
  case fmin | fmax => intro h g d s1 s2 f; exact landsGuarded_of rfl fun _ => rfl
  case fceq => intro h g pd s1 s2 f; exact landsGuarded_results fun _ => rfl
  case fclt => intro h g pd s1 s2 f; exact landsGuarded_results fun _ => congrArg (Eff.p pd) (fpCond_lt _ _)
  case fcle => intro h g pd s1 s2 f; exact landsGuarded_results fun _ => congrArg (Eff.p pd) (fpCond_le _ _)
  case fcvt =>
    intro h g d s1 src dst rnd sat fin hs hd
    exact landsGuarded_of_body rfl (fun _ => rfl) fun u => if_neg (by omega)
  case typeBad =>
    intro h g d s1 src dst rnd sat fin s ho hb
    rw [Nat.mul_comm]
    show execFcvt _ _ _ _ _ _ _ _ _ _ = _
    refine runGuarded_error ho ?_
    exact if_pos hb

/-! ## The control words (R113-R124) -/

/-- A taken branch whose target is a word of the program goes there. -/
theorem branch_taken {h : Hdr} {g : Guard} {b : BitVec 2} {link : Bool} {u : State} (hg : u.guard g = true) (ht : (u.readB b).toNat < u.programLength) :
    branch h g b link u = .ok (u.launchWord h.tks (some (u.now + 1)) (if link then [.x 31 (u.str.pc + 1)] else []) .fixed, .jump (u.readB b)) := by
  unfold branch
  rw [if_pos hg]
  exact if_neg (by omega)

/-- A taken branch with any other target stops. -/
theorem branch_beyond {h : Hdr} {g : Guard} {b : BitVec 2} {link : Bool} {u : State} (hg : u.guard g = true) (ht : u.programLength ≤ (u.readB b).toNat) :
    branch h g b link u = .error { cause := .badTarget, info0 := u.readB b } := by
  unfold branch
  rw [if_pos hg]
  exact if_pos ht

/-- Settles O8: a branch's body tells the program's words from what lies beyond them. -/
theorem branchesGoToTheirTarget : Obligations.BranchesGoToTheirTarget := by
  unfold Obligations.BranchesGoToTheirTarget
  simp only [List.forall_mem_cons, List.not_mem_nil, false_implies, implies_true, and_true]
  refine ⟨?prep, ?prepr, ?br, ?brl, ⟨?brBad, ?brlBad⟩⟩
  case prep => intro h b off; exact landsAlways_of rfl fun _ => rfl
  case prepr => intro h b r; exact landsAlways_of rfl fun _ => rfl
  case br | brl => intro h g b s ho ht; exact runWord_ok ho.1 (branch_taken ho.2 ht)
  case brBad | brlBad => intro h g b s ho ht; exact runWord_error ho.1 (branch_beyond ho.2 ht)

/-- The model's nesting check is R121's. -/
theorem Loop.clash_eq (o : Loop) (first last : Nat) :
    o.clash first last = (o.active && decide (o.last.toNat = last ∨ (first ≤ o.last.toNat ∧ o.first.toNat ≤ last ∧
      ¬(o.first.toNat ≤ first ∧ last ≤ o.last.toNat) ∧ ¬(first ≤ o.first.toNat ∧ o.last.toNat ≤ last)))) := by
  unfold Loop.clash
  congr 1
  rw [Bool.eq_iff_iff]
  simp only [Bool.or_eq_true, Bool.and_eq_true, Bool.not_eq_true', beq_iff_eq, decide_eq_true_eq, decide_eq_false_iff_not]
  constructor
  · rintro (h | ⟨⟨⟨h1, h2⟩, h3⟩, h4⟩)
    · exact .inl h
    · exact .inr ⟨h1, h2, h3, h4⟩
  · rintro (h | ⟨h1, h2, h3, h4⟩)
    · exact .inl h
    · exact .inr ⟨⟨⟨h1, h2⟩, h3⟩, h4⟩

/-- A loop of n passes over the words after address pc, up to the body's end. -/
def loopOf (pc : Word) (n : Nat) (e : BitVec 16) : Loop :=
  { count := BitVec.ofNat 32 n, first := BitVec.ofNat 16 (pc.toNat + 1), last := BitVec.ofNat 16 (pc.toNat + e.toNat - 1), active := n != 0 }

/-- The state after LOOP or LOOPI of register l: its loop entered, its word in flight. -/
def State.withLoop (u : State) (h : Hdr) (l : BitVec 2) (n : Nat) (e : BitVec 16) : State :=
  (u.updStr fun st => { st with l := st.l.setIfInBounds l.toNat (loopOf u.str.pc n e) }).launchWord h.tks (some u.now) [] .fixed

/-- Does a word at address a end the body of a loop of another register than l? -/
def State.endsBody (u : State) (l : BitVec 2) : Bool := (List.range 4).any fun k =>
    k != l.toNat && (u.str.l[k]?.getD {}).active && (u.str.l[k]?.getD {}).last.toNat == u.str.pc.toNat

theorem State.launchWord_str {u : State} (hc : u.hasCur) (tks : BitVec 4) (land : Option Nat) (effs : List Eff) (work : Work) :
    (u.launchWord tks land effs work).str = { u.str with
      flights := u.str.flights ++ [{ id := u.str.nextId, pc := u.str.pc, issued := u.now, land := land, effs := effs, tks := tks, work := work, cov := u.str.cov, rm := u.rmode, tol := u.tolSeen }]
      nextId := u.str.nextId + 1 } := State.updStr_str _ hc

/-- An empty loop's own register is not active, so it ends no body. -/
theorem State.withLoop_any {u : State} (hc : u.hasCur) (h : Hdr) (l : BitVec 2) (e : BitVec 16) :
    ((u.withLoop h l 0 e).str.l.toList.any fun o => o.active && o.last.toNat == u.str.pc.toNat) = u.endsBody l := by
  unfold State.withLoop State.endsBody
  rw [State.launchWord_str (hc.updStr _), State.updStr_str _ hc]
  dsimp only
  generalize u.str.l = v
  generalize u.str.pc = pc
  rw [Bool.eq_iff_iff, Vector.any_toList, Vector.any_eq_true]
  simp only [List.any_eq_true, List.mem_range]
  refine exists_congr fun k => ⟨?_, ?_⟩
  · rintro ⟨hk, he⟩
    refine ⟨hk, ?_⟩
    rw [Vector.getElem_setIfInBounds] at he
    split at he
    · simp [loopOf] at he
    next hne => rw [Vector.getElem?_eq_getElem hk, Option.getD_some, Bool.and_assoc, he, Bool.and_true]; simpa using Ne.symm hne
  · rintro ⟨hk, he⟩
    refine ⟨hk, ?_⟩
    simp only [Vector.getElem?_eq_getElem hk, Option.getD_some, Bool.and_eq_true, bne_iff_ne] at he
    rw [Vector.getElem_setIfInBounds, if_neg (Ne.symm he.1.1), he.1.2, he.2]; rfl

/-- The body of LOOP and LOOPI, where no active loop is met. -/
theorem startLoop_starts {u : State} (hc : u.hasCur) {h : Hdr} {l : BitVec 2} {n : State → Nat} {e : BitVec 16}
    (hm : (List.range 4).find? (fun k => k != l.toNat && (u.str.l[k]?.getD {}).clash (u.str.pc.toNat + 1) (u.str.pc.toNat + e.toNat - 1)) = none) :
    startLoop h l n e u = .ok (u.withLoop h l (n u) e,
      if n u = 0 ∧ u.endsBody l = false then .jump (u.str.pc + e.zeroExtend 64) else .fall) := by
  unfold startLoop
  simp only [hm]
  change (if n u = 0 ∧ ¬((u.withLoop h l (n u) e).str.l.toList.any fun o => o.active && o.last.toNat == u.str.pc.toNat) = true then _ else _) = _
  by_cases hn : n u = 0
  · simp only [hn, State.withLoop_any hc, Bool.not_eq_true, true_and]
    cases u.endsBody l <;> rfl
  · simp only [hn, false_and, if_false]
    rfl

/-- The body of LOOP and LOOPI, where one is. -/
theorem startLoop_meets {u : State} {h : Hdr} {l : BitVec 2} {n : State → Nat} {e : BitVec 16} {k : Nat}
    (hm : (List.range 4).find? (fun k => k != l.toNat && (u.str.l[k]?.getD {}).clash (u.str.pc.toNat + 1) (u.str.pc.toNat + e.toNat - 1)) = some k) :
    startLoop h l n e u = .error { cause := .loopNest, info0 := BitVec.ofNat 64 k } := by
  unfold startLoop
  simp only [hm]

/-- Settles O9: the body that LOOP and LOOPI share either meets an active loop or starts its own; LBRK asks whether its loop is active. -/
theorem loopWordsStartAndLeave : Obligations.LoopWordsStartAndLeave := by
  unfold Obligations.LoopWordsStartAndLeave
  simp only [← Loop.clash_eq]
  refine ⟨?loop, ?loopi, ?loopNest, ?loopiNest, ?lbrk, ?lbrkNone⟩
  case loop | loopi =>
    intro h l n e s hi hm
    refine (runWord_ok hi (startLoop_starts (hi.hasCur.popped h none) hm)).trans (congrArg _ ?_)
    exact apply_ite (State.finish _) _ _ _
  case loopNest | loopiNest => intro h l n e s k hi hm; exact runWord_error hi (startLoop_meets hm)
  case lbrk =>
    intro h g l s ho ha
    show execLbrk _ _ _ _ = _
    refine runGuarded_ok ho ?_
    exact if_pos ha
  case lbrkNone =>
    intro h g l s ho ha
    show execLbrk _ _ _ _ = _
    refine runGuarded_lands ho ?_
    exact if_neg (Bool.eq_false_iff.mp ha)

/-- ERET's word in flight takes the loop-end step, then the return. -/
theorem execEret_eq (h : Hdr) (d : DieId) {s : State} (hs : s.cur = .sys d) (hi : s.issues (.eret h) h) :
    exec (.eret h) s = .next (((((s.opened h).launchWord h.tks (some ((s.opened h).now + 1)) [] .fixed).updStr Stream.loopEnd).exceptionReturn d).finish
      (.jump ((s.opened h).csrValue 0x01A))) := by
  have hu : s.opened h = s := by unfold State.opened State.popped; rw [hs]
  have hd : whoDie (s.opened h).cur = d := by rw [hu, hs]; rfl
  show execEret _ _ = _
  refine runWord_ok hi ?_
  rw [← hd]; rfl

/-- Settles O10: each word's body is taken branch by branch: END by who issues it and what it finds, HOLD by its count. -/
theorem endHoldTrapAndReturn : Obligations.EndHoldTrapAndReturn := by
  unfold Obligations.EndHoldTrapAndReturn
  refine ⟨?ends, ?window, ?sleeps, ?hold, ?holdNone, ?trap, ?eret, ?exceptionReturn⟩
  case ends =>
    intro h d c k e s hs hi hr hw
    have hn : (if e = .m then (List.finRange 4).find? fun z => ((s.opened h).jb.tiles[z]).win.isSome else none) = none := by
      split
      next he => exact List.find?_eq_none.mpr fun z _ => by rw [hw he z]; decide
      · rfl
    show execEndw _ _ = _
    rw [State.jumps, State.updStr_now]
    refine runWord_ready_ok hi hr ?_
    rw [State.popped_cur, hs]
    show (match (if e = .m then (List.finRange 4).find? fun z => ((s.opened h).jb.tiles[z]).win.isSome else none) with
      | some z => _
      | none => _) = _
    rw [hn]; rfl
  case window =>
    intro h d c k s z hs hi hr hz
    show execEndw _ _ = _
    refine runWord_ready_error hi hr ?_
    rw [State.popped_cur, hs]
    show (match (List.finRange 4).find? fun z => ((s.opened h).jb.tiles[z]).win.isSome with
      | some z => _
      | none => _) = _
    rw [hz]
  case sleeps =>
    intro h d s hs hi
    have hr : endReady s = true := by unfold endReady; rw [hs]
    have hu : s.popped h (extraPop (.endw h)) = s := by unfold State.popped; rw [hs]
    show execEndw _ _ = _
    refine runWord_ready_ok hi hr ?_
    rw [hu, hs]
  case hold =>
    intro h g n hn s ho _
    show execHold _ _ _ _ = _
    refine runGuarded_ok ho ?_
    exact if_neg hn
  case holdNone =>
    intro h g s ho _
    show execHold _ _ _ _ = _
    refine runGuarded_lands ho ?_
    exact if_pos rfl
  case trap =>
    intro h g code n s ho _
    show execTrap _ _ _ _ _ = _
    refine runGuarded_ok ho ?_
    rfl
  case eret => intro h d s hs hi; exact execEret_eq h d hs hi
  case exceptionReturn => intro s d; rfl

end Sys2Proof.Machine
end

section
/-! PROOFS. The words that move tokens, the words of data queues and waits, and those of control registers (R114-R118, R195-R199, R303-R313,
R376-R378). -/

-- In order, so that the one-text compile stays within memory.
set_option Elab.async false

namespace Sys2Proof.Machine
open Sys2Proof

/-- Settles O7: each of the five is one shared shape of issue, after the one thing it does. -/
theorem plainWordsComplete : Obligations.PlainWordsComplete := by
  unfold Obligations.PlainWordsComplete
  refine ⟨?nop, ?tksend, ?tkwait, ?mark, ?lockdown⟩
  case nop => intro h; exact landsAlways_of rfl fun _ => rfl
  case tksend =>
    intro h eng cnt e s hi he
    show execTksend _ _ _ _ = _
    refine runWord_ok hi ?_
    rw [he]; rfl
  case tkwait =>
    intro h eng cnt e s hi he
    have hx : extraPop (.tkwait h eng cnt) = some (e, cnt.toNat) := by simp only [extraPop, he, Option.map_some]
    show execTkwait _ _ _ _ = _
    refine runWord_ready_lands hi rfl ?_
    rw [hx]; rfl
  case mark =>
    intro h g tag s ho _
    show execMark _ _ _ _ = _
    exact runGuarded_lands ho rfl
  case lockdown =>
    intro h g mask s ho _
    show execLockdown _ _ _ _ = _
    exact runGuarded_lands ho rfl

/-! ## Queues and waits (R309-R313, R376-R378) -/

/-- Settles O11: the checks that pass leave each body its one effect. -/
theorem queueAndWaitWordsComplete : Obligations.QueueAndWaitWordsComplete := by
  unfold Obligations.QueueAndWaitWordsComplete
  refine ⟨?qpop, ?qpush, ?waitv, ?tsread⟩
  case qpop =>
    intro h g d q size s ho hr u c r t hc hb
    have he : t.eng = u.eng := congrArg whoNum (State.updJb_cur _ _)
    show execQpop _ _ _ _ _ _ = _
    refine runGuarded_ready_lands ho hr ?_
    simp only [u, c] at hc hb
    simp only [hc, hb, he]
    rfl
  case qpush =>
    intro h g r q size s ho hr u hc
    show execQpush _ _ _ _ _ _ = _
    refine runGuarded_ready_lands ho hr ?_
    simp only [u] at hc
    simp only [hc]
    rfl
  case waitv =>
    intro h kind index cond mode arg v s hi hw hu hv
    have hr : waitReady kind index cond mode arg s = true := by rw [waitReady, hw]; exact hv
    show execWaitv _ _ _ _ _ _ _ = _
    refine runWord_ready_lands hi hr ?_
    show (match (s.opened h).waitSource kind index with
      | .error c => _
      | .ok _ => _) = _
    rw [hu]; rfl
  case tsread => intro h g d; exact landsGuarded_of rfl fun _ => rfl

/-! ## Control registers (R195-R199) -/

/-- What a CSRR or CSRX of the event queue's head does beside (R211). -/
def State.readEvent (u : State) (n : BitVec 12) : State :=
  match u.cur with
  | .sys d => if n.toNat = 0x10A then (u.popEvent d).2 else u
  | .eng .. => u

/-- The values R198 lets a stream write. -/
def State.csrAccepts (u : State) (n : BitVec 12) (v : Word) : Prop :=
  csrAccess u.cur.issuer n.toNat = .write ∧ csrRefuses n.toNat v = false ∧
    ¬(0x104 ≤ n.toNat ∧ n.toNat ≤ 0x106 ∧ (u.die (whoDie u.cur)).lockstat.getLsbD 3 = true)

theorem csrBody_noAccess {h : Hdr} {rd wr : Option (BitVec 5)} {n : BitVec 12} {u : State} (ha : csrAccess u.cur.issuer n.toNat = .none) :
    csrBody h rd wr n u = .error { cause := .csrBad, info0 := n.zeroExtend 64 } := if_pos ha

theorem csrBody_readOnly {h : Hdr} {rd : Option (BitVec 5)} {r : BitVec 5} {n : BitVec 12} {u : State} (ha : csrAccess u.cur.issuer n.toNat = .read) :
    csrBody h rd (some r) n u = .error { cause := .csrRo, info0 := n.zeroExtend 64, info1 := u.readX 0 r } := by
  unfold csrBody
  simp only [ha]
  rfl

theorem csrBody_reads {h : Hdr} {d : BitVec 5} {n : BitVec 12} {u : State} (ha : csrAccess u.cur.issuer n.toNat ≠ .none) :
    csrBody h (some d) none n u = .ok ((u.readEvent n).launchWord h.tks (some (u.now + 2)) [.x d (u.csrValue n)] .fixed, .fall) := by
  unfold csrBody
  simp only [ha, if_false, Option.isSome_none, Bool.false_eq_true, false_and, State.readEvent]
  cases u.cur <;> rfl

theorem csrBody_writes {h : Hdr} {r : BitVec 5} {n : BitVec 12} {u : State} (ha : u.csrAccepts n (u.readX 0 r)) :
    csrBody h none (some r) n u = results h 2 [.csr n (if n.toNat = 0x011 ∧ (u.readX 0 r).extractLsb' 0 32 = 0x80000000 then 0
      else csrClean n.toNat (u.readX 0 r))] u := by
  obtain ⟨hw, hv, hl⟩ := ha
  unfold csrBody
  simp only [hw, hv, hl, Option.isSome_some, Option.isSome_none, and_false, Bool.false_eq_true, reduceCtorEq, if_false]
  cases u.cur <;> rfl

/-- No stream may write the register whose read pops an event. -/
theorem csrAccess_evthead (i : Issuer) : csrAccess i 0x10A ≠ .write := by
  cases i with
  | eng e => cases e <;> decide
  | sys => decide

theorem csrBody_exchanges {h : Hdr} {d r : BitVec 5} {n : BitVec 12} {u : State} (ha : u.csrAccepts n (u.readX 0 r)) :
    csrBody h (some d) (some r) n u = .ok (u.launchWord h.tks (some (u.now + 2))
      [.x d (u.csrValue n), if n = 0 then .fstatX u.now (csrClean 0 (u.readX 0 r)) else
        .csr n (if n.toNat = 0x011 ∧ (u.readX 0 r).extractLsb' 0 32 = 0x80000000 then 0 else csrClean n.toNat (u.readX 0 r))] .fixed, .fall) := by
  obtain ⟨hw, hv, hl⟩ := ha
  have hn : n.toNat ≠ 0x10A := fun hn => csrAccess_evthead _ (hn ▸ hw)
  unfold csrBody
  simp only [hw, hv, hl, hn, Option.isSome_some, true_and, and_true, Bool.false_eq_true, reduceCtorEq, if_false]
  by_cases hz : n = 0
  · subst hz
    cases u.cur <;> rfl
  · have hz' : n.toNat ≠ 0 := fun e => hz (BitVec.eq_of_toNat_eq e)
    rw [if_neg hz, if_neg hz']
    cases u.cur <;> rfl

/-- Settles O12: the three words share one body, whose outcome the lemmas above name. -/
theorem controlRegisterWordsComplete : Obligations.ControlRegisterWordsComplete := by
  unfold Obligations.ControlRegisterWordsComplete
  refine ⟨?csrr, ?csrw, ?csrx, ?csrrBad, ?csrwBad, ?csrwRo⟩
  case csrr =>
    intro h g d n s ho ha
    show execCsrr _ _ _ _ _ = _
    exact runGuarded_ok ho (csrBody_reads ha)
  case csrw =>
    intro h g r n s ho ha
    show execCsrw _ _ _ _ _ = _
    exact runGuarded_lands ho (csrBody_writes ha)
  case csrx =>
    intro h g d r n s ho ha
    show execCsrx _ _ _ _ _ _ = _
    exact runGuarded_ok ho (csrBody_exchanges ha)
  case csrrBad =>
    intro h g d n s ho ha
    show execCsrr _ _ _ _ _ = _
    exact runGuarded_error ho (csrBody_noAccess ha)
  case csrwBad =>
    intro h g r n s ho ha
    show execCsrw _ _ _ _ _ = _
    exact runGuarded_error ho (csrBody_noAccess ha)
  case csrwRo =>
    intro h g r n s ho ha
    show execCsrw _ _ _ _ _ = _
    exact runGuarded_error ho (csrBody_readOnly ha)

end Sys2Proof.Machine
end

section
/-! PROOFS. A's words (R227, R230, R236, R245-R263, R274, R275, R322, R354): what each body comes to once its checks pass, and the issue of an
access. -/

-- In order, so that the one-text compile stays within memory.
set_option Elab.async false

namespace Sys2Proof.Machine
open Sys2Proof

/-! ## The issue of an access -/

/-- A word whose body puts an access in flight. -/
theorem runGuarded_accesses {i : Instr} {h : Hdr} {g : Guard} {ready : State → Bool} {body : Body} {s u : State} {w : Work} (ho : s.opens i h g)
    (hr : ready s = true) (hb : body (s.opened h) = u.launchAccess h.tks w) (he : extraPop i = none := by rfl) :
    runGuarded i h g ready body s = .next (u.accesses h w) := by
  rw [runGuarded_opens he ho hr, hb]; rfl

/-- A word whose register is known at issue and returns later. -/
theorem runGuarded_touches {i : Instr} {h : Hdr} {g : Guard} {ready : State → Bool} {body : Body} {s u : State} {effs : List Eff} {w : Work}
    (ho : s.opens i h g) (hr : ready s = true) (hb : body (s.opened h) = u.launchTouch h.tks effs w) (he : extraPop i = none := by rfl) :
    runGuarded i h g ready body s = .next (u.touches h effs w) := by
  rw [runGuarded_opens he ho hr, hb]; rfl

/-- A word whose work goes on after its issue. -/
theorem runGuarded_starts {i : Instr} {h : Hdr} {g : Guard} {ready : State → Bool} {body : Body} {s u : State} {w : Work} (ho : s.opens i h g)
    (hr : ready s = true) (hb : body (s.opened h) = .ok (u.launchWord h.tks none [] w, .fall)) (he : extraPop i = none := by rfl) :
    runGuarded i h g ready body s = .next (u.starts h w) := by
  rw [runGuarded_opens he ho hr, hb]; rfl

/-! ## LDQ, LDSQ, STQ, STSQ (R245-R248) -/

/-- What a transfer that moves bytes leaves: a load has its places reserved. -/
def State.movesQueue (load : Bool) (t : State) (h : Hdr) (q : BitVec 4) (va bpr rows stride : Word) : State :=
  let n := bpr.toNat * rows.toNat
  if load then (t.updJb fun j => (j.dqMake q.toNat n).updDq q.toNat fun x => x.reserve t.str.nextId n).accesses h (.load q va bpr rows stride n 0)
  else t.accesses h (.store q va bpr rows stride n 0)

section
variable {h : Hdr} {q : BitVec 4} {load strided : Bool} {args : State → Word × Word × Word × Word} {u : State} {va bpr rows stride : Word}

theorem queueTransfer_empty (ha : args u = (va, bpr, rows, stride)) (hc : u.qtCheck q load strided bpr.toNat (bpr.toNat * rows.toNat) = none)
    (hn : bpr.toNat * rows.toNat = 0) : queueTransfer h q load strided args u = results h 1 [] u := by
  unfold queueTransfer
  simp only [ha, hc]
  rw [if_pos hn]; rfl

theorem queueTransfer_moves {t : State} (ha : args u = (va, bpr, rows, stride))
    (hc : u.qtCheck q load strided bpr.toNat (bpr.toNat * rows.toNat) = none) (hn : bpr.toNat * rows.toNat ≠ 0)
    (hp : u.firstPage va.toNat bpr.toNat (!load) = .ok t) :
    ∃ x, queueTransfer h q load strided args u = .ok (x, .fall) ∧ x.finish .fall = t.movesQueue load h q va bpr rows stride := by
  unfold queueTransfer
  simp only [ha, hc, hn, hp, if_false]
  cases load <;> exact ⟨_, rfl, rfl⟩

end

/-- LDQ and STQ move their bytes as one row. -/
theorem flatTransfer {i : Instr} {h : Hdr} {g : Guard} {q : BitVec 4} {load : Bool} {base len : BitVec 5} {off : BitVec 18} {s : State}
    (ho : s.opens i h g) (hr : qtReady q load false (flatArgs base len off) s = true)
    (hc : (s.opened h).qtCheck q load false ((s.opened h).readX 1 len).toNat ((s.opened h).readX 1 len).toNat = none)
    (he : extraPop i = none := by rfl)
    (hx : exec i s = runGuarded i h g (qtReady q load false (flatArgs base len off)) (queueTransfer h q load false (flatArgs base len off)) s := by rfl) :
    ((s.opened h).readX 1 len = 0 → exec i s = .next ((s.opened h).sends h 1 [])) ∧
    ∀ t, (s.opened h).readX 1 len ≠ 0 →
      (s.opened h).firstPage ((s.opened h).readX 0 base + off.signExtend 64).toNat ((s.opened h).readX 1 len).toNat (!load) = .ok t →
      exec i s = .next (t.movesQueue load h q ((s.opened h).readX 0 base + off.signExtend 64) ((s.opened h).readX 1 len) 1 0) := by
  have hm : ((s.opened h).readX 1 len).toNat * (1 : Word).toNat = ((s.opened h).readX 1 len).toNat := Nat.mul_one _
  rw [hx]
  refine ⟨fun hn => ?_, fun t hn hp => ?_⟩
  · refine runGuarded_ready_lands ho hr (queueTransfer_empty rfl (by rw [hm]; exact hc) ?_) he
    rw [hm, hn]; rfl
  · have hn' : ((s.opened h).readX 1 len).toNat * (1 : Word).toNat ≠ 0 := by
      rw [hm]; exact fun e => hn (BitVec.eq_of_toNat_eq e)
    obtain ⟨x, hb, hf⟩ := queueTransfer_moves (args := flatArgs base len off) rfl (by rw [hm]; exact hc) hn' hp
    rw [runGuarded_ready_ok ho hr hb he, hf]; rfl

/-- LDSQ and STSQ move the rows of their shape. -/
theorem shapedTransfer {i : Instr} {h : Hdr} {g : Guard} {q : BitVec 4} {load : Bool} {base shape stride : BitVec 5} {s : State} {bpr rows : Word}
    (ho : s.opens i h g) (hr : qtReady q load true (shapeArgs base shape stride) s = true)
    (ha : shapeArgs base shape stride (s.opened h) = ((s.opened h).readX 0 base, bpr, rows, (s.opened h).readX 2 stride))
    (hc : (s.opened h).qtCheck q load true bpr.toNat (bpr.toNat * rows.toNat) = none) (he : extraPop i = none := by rfl)
    (hx : exec i s = runGuarded i h g (qtReady q load true (shapeArgs base shape stride)) (queueTransfer h q load true (shapeArgs base shape stride)) s
      := by rfl) :
    (bpr.toNat * rows.toNat = 0 → exec i s = .next ((s.opened h).sends h 1 [])) ∧
    ∀ t, bpr.toNat * rows.toNat ≠ 0 → (s.opened h).firstPage ((s.opened h).readX 0 base).toNat bpr.toNat (!load) = .ok t →
      exec i s = .next (t.movesQueue load h q ((s.opened h).readX 0 base) bpr rows ((s.opened h).readX 2 stride)) := by
  rw [hx]
  refine ⟨fun hn => ?_, fun t hn hp => ?_⟩
  · exact runGuarded_ready_lands ho hr (queueTransfer_empty ha hc hn) he
  · obtain ⟨x, hb, hf⟩ := queueTransfer_moves ha hc hn hp
    rw [runGuarded_ready_ok ho hr hb he, hf]

/-! ## LDX, STX (R249) -/

/-- Settles O13: queue transfers by their operands and their first page, LDX and STX by alignment and theirs. -/
theorem loadAndStoreWordsIssue : Obligations.LoadAndStoreWordsIssue := by
  unfold Obligations.LoadAndStoreWordsIssue
  refine ⟨?flat, ?shaped, ?ldx, ?stx, ?ldxAlign, ?stxAlign⟩
  case flat =>
    intro p hp h g q base len off s
    simp only [List.mem_cons, List.not_mem_nil, or_false] at hp
    rcases hp with rfl | rfl <;> intro ho hr u va n hc <;> exact flatTransfer ho hr hc
  case shaped =>
    intro p hp h g q base shape stride s
    simp only [List.mem_cons, List.not_mem_nil, or_false] at hp
    rcases hp with rfl | rfl <;> intro ho hr u va bpr rows n hc <;> exact shapedTransfer ho hr rfl hc
  case ldx =>
    intro h g d base size sx off s t ho hr u va ha hp
    show execLdx _ _ _ _ _ _ _ _ = _
    refine runGuarded_accesses ho hr ?_
    have hm : (((s.opened h).addr base (sx64 off)).toNat % 2 ^ size.toNat != 0) = false := bne_eq_false_iff_eq.mpr ha
    have hp' : (s.opened h).firstPage ((s.opened h).addr base (sx64 off)).toNat (2 ^ size.toNat) false = .ok t := hp
    simp only [hm, hp']
    rfl
  case stx =>
    intro h g r base size off s t ho hr u va ha hp
    show execStx _ _ _ _ _ _ _ = _
    refine runGuarded_accesses ho hr ?_
    have hm : (((s.opened h).addr base (sx64 off)).toNat % 2 ^ size.toNat != 0) = false := bne_eq_false_iff_eq.mpr ha
    have hp' : (s.opened h).firstPage ((s.opened h).addr base (sx64 off)).toNat (2 ^ size.toNat) true = .ok t := hp
    simp only [hm, hp']
    rfl
  case ldxAlign =>
    intro h g d base size sx off s ho hb
    show execLdx _ _ _ _ _ _ _ _ = _
    refine runGuarded_ready_error ho hb.1 ?_
    exact if_pos (bne_iff_ne.mpr hb.2)
  case stxAlign =>
    intro h g r base size off s ho hb
    show execStx _ _ _ _ _ _ _ = _
    refine runGuarded_ready_error ho hb.1 ?_
    exact if_pos (bne_iff_ne.mpr hb.2)

/-! ## Atomics (R257, R258), GATHER, SCATTER, SCADD (R253-R256) -/

section
variable {h : Hdr} {op : BitVec 4} {d base r : BitVec 5} {size : BitVec 2} {scope : BitVec 3} {off : BitVec 12} {u : State}

/-- What stops an atomic with ALIGN: a size it has not, or an address off its size (R257). -/
def atomicOdd (op : BitVec 4) (size : BitVec 2) (va : Word) : Prop := size.toNat < 2 ∨ (op = 8 ∧ size ≠ 2) ∨ va.toNat % 2 ^ size.toNat ≠ 0

/-- Is an address in a buffer of host memory? -/
def State.inHost (u : State) (va : Word) : Prop := segKind (u.seg (whoDie u.cur) (u.asnOf u.cur) (bufOf va.toNat)) = 1

theorem atomicOdd_iff (op : BitVec 4) (size : BitVec 2) (va : Word) :
    (decide (size.toNat < 2) || (op == 8 && size != 2) || va.toNat % 2 ^ size.toNat != 0) = true ↔ atomicOdd op size va := by
  simp [atomicOdd, or_assoc]

theorem atomicBody_align (ha : atomicOdd op size (u.addr base (sx64 off))) :
    atomicBody h op d base r size scope off u = .error { cause := .align, info0 := u.addr base (sx64 off) } :=
  if_pos ((atomicOdd_iff ..).mpr ha)

theorem atomicBody_host (ha : ¬atomicOdd op size (u.addr base (sx64 off))) (hh : u.inHost (u.addr base (sx64 off))) :
    atomicBody h op d base r size scope off u = .error { cause := .atomicKind, info0 := u.addr base (sx64 off) } :=
  (if_neg (mt (atomicOdd_iff ..).mp ha)).trans (if_pos hh)

theorem atomicBody_accesses {t : State} (ha : ¬atomicOdd op size (u.addr base (sx64 off))) (hh : ¬u.inHost (u.addr base (sx64 off)))
    (hp : u.firstPage (u.addr base (sx64 off)).toNat (2 ^ size.toNat) true = .ok t) :
    atomicBody h op d base r size scope off u = t.launchAccess h.tks (.atomic op (u.addr base (sx64 off)) size
      (BitVec.ofNat 64 ((t.readX 1 r).toNat % 2 ^ (8 * 2 ^ size.toNat))) (BitVec.ofNat 64 ((t.readX 2 d).toNat % 2 ^ (8 * 2 ^ size.toNat))) scope d) := by
  refine (if_neg (mt (atomicOdd_iff ..).mp ha)).trans ((if_neg hh).trans ?_)
  simp only [hp]

/-- An atomic that issues: its three outcomes. -/
theorem atomicIssues {i : Instr} {g : Guard} {s : State} (ho : s.opens i h g) (hr : addrReady base (off.signExtend 64) s = true)
    (he : extraPop i = none := by rfl)
    (hx : exec i s = runGuarded i h g (addrReady base (sx64 off)) (atomicBody h op d base r size scope off) s := by rfl) :
    (atomicOdd op size ((s.opened h).addr base (sx64 off)) →
      exec i s = .next (s.stopIssue { cause := .align, info0 := (s.opened h).addr base (sx64 off) })) ∧
    (¬atomicOdd op size ((s.opened h).addr base (sx64 off)) → (s.opened h).inHost ((s.opened h).addr base (sx64 off)) →
      exec i s = .next (s.stopIssue { cause := .atomicKind, info0 := (s.opened h).addr base (sx64 off) })) ∧
    ∀ t, ¬atomicOdd op size ((s.opened h).addr base (sx64 off)) → ¬(s.opened h).inHost ((s.opened h).addr base (sx64 off)) →
      (s.opened h).firstPage ((s.opened h).addr base (sx64 off)).toNat (2 ^ size.toNat) true = .ok t →
      exec i s = .next (t.accesses h (.atomic op ((s.opened h).addr base (sx64 off)) size
        (BitVec.ofNat 64 ((t.readX 1 r).toNat % 2 ^ (8 * 2 ^ size.toNat))) (BitVec.ofNat 64 ((t.readX 2 d).toNat % 2 ^ (8 * 2 ^ size.toNat))) scope d)) := by
  rw [hx]
  refine ⟨fun ha => ?_, fun ha hh => ?_, fun t ha hh hp => ?_⟩
  · exact runGuarded_ready_error ho hr (atomicBody_align ha) he
  · exact runGuarded_ready_error ho hr (atomicBody_host ha hh) he
  · exact runGuarded_accesses ho hr (atomicBody_accesses ha hh hp) he

end

/-- GATHER, SCATTER and SCADD, once the checks of R253 pass. -/
theorem indexIssues {i : Instr} {h : Hdr} {g : Guard} {op : BitVec 2} {dq iq : BitVec 4} {tensor : BitVec 6} {cnt : BitVec 5} {isz : BitVec 2}
    {s : State} (ho : s.opens i h g) (hr : indexReady tensor s = true)
    (hc : (s.opened h).indexCheck op dq iq tensor ((s.opened h).tensor 3 tensor) ((s.opened h).readX 0 cnt).toNat isz = none)
    (he : extraPop i = none := by rfl)
    (hx : exec i s = runGuarded i h g (indexReady tensor) (indexBody h op dq iq tensor cnt isz) s := by rfl) :
    exec i s = .next (if ((s.opened h).readX 0 cnt).toNat = 0 then (s.opened h).sends h 1 [] else
      (s.opened h).accesses h (.index op dq iq ((s.opened h).tensor 3 tensor) tensor.toNat isz ((s.opened h).readX 0 cnt).toNat 0 none)) := by
  rw [hx]
  split
  next hn =>
    refine runGuarded_ready_lands ho hr ?_ he
    unfold indexBody
    simp only [hc]
    exact if_pos hn
  next hn =>
    refine runGuarded_accesses ho hr ?_ he
    unfold indexBody
    simp only [hc]
    exact if_neg hn

/-- Settles O14: the nine atomics are one body, the three index words another. -/
theorem atomicAndIndexWordsIssue : Obligations.AtomicAndIndexWordsIssue := by
  unfold Obligations.AtomicAndIndexWordsIssue
  refine ⟨?atomics, ?indices⟩
  case atomics =>
    intro p hp h g d base r size scope off s
    simp only [List.mem_cons, List.not_mem_nil, or_false] at hp
    rcases hp with rfl | rfl | rfl | rfl | rfl | rfl | rfl | rfl | rfl <;> exact fun ho hr => atomicIssues ho hr
  case indices =>
    intro p hp h g dq iq tensor cnt isz s
    simp only [List.mem_cons, List.not_mem_nil, or_false] at hp
    rcases hp with rfl | rfl | rfl <;> exact fun ho hr hc => indexIssues ho hr hc

/-! ## RWB, RINV, UBDISC, PREF (R236, R260-R263) -/

/-- RWB and RINV: their three outcomes. -/
theorem backIssues {i : Instr} {h : Hdr} {g : Guard} {inv : Bool} {base len : BitVec 5} {scope : BitVec 3} {level : BitVec 2} {s : State}
    (ho : s.opens i h g) (hr : rangeReady base s = true) (he : extraPop i = none := by rfl)
    (hx : exec i s = runGuarded i h g (rangeReady base) (backBody h inv base len scope level) s := by rfl) :
    (2 ^ 32 < ((s.opened h).readX 1 len).toNat → exec i s = .next (s.stopIssue (stopOf .lenRange))) ∧
    ((s.opened h).readX 1 len = 0 → exec i s = .next ((s.opened h).sends h 1 [])) ∧
    ∀ t, ((s.opened h).readX 1 len).toNat ≤ 2 ^ 32 → (s.opened h).readX 1 len ≠ 0 →
      (s.opened h).firstPage ((s.opened h).readX 0 base).toNat ((s.opened h).readX 1 len).toNat false = .ok t →
      exec i s = .next (t.accesses h (.wback inv ((s.opened h).readX 0 base) ((s.opened h).readX 1 len) scope level)) := by
  rw [hx]
  refine ⟨fun hn => ?_, fun hn => ?_, fun t hl hn hp => ?_⟩
  · exact runGuarded_ready_error ho hr (if_pos hn) he
  · refine runGuarded_ready_lands ho hr ?_ he
    exact (if_neg (by rw [hn]; decide)).trans (if_pos hn)
  · refine runGuarded_accesses ho hr ?_ he
    refine (if_neg (by omega)).trans ((if_neg hn).trans ?_)
    simp only [hp]

/-- Settles O16: RWB and RINV are one body; UBDISC asks for an unbacked buffer; PREF is its fills and nothing else. -/
theorem rangeWordsIssue : Obligations.RangeWordsIssue := by
  unfold Obligations.RangeWordsIssue
  refine ⟨?back, ?ubdisc, ?pref⟩
  case back =>
    intro p hp h g base len scope level s
    simp only [List.mem_cons, List.not_mem_nil, or_false] at hp
    rcases hp with rfl | rfl <;> exact fun ho hr => backIssues ho hr
  case ubdisc =>
    intro h g base len scope level s ho hr u va n unbacked
    refine ⟨fun hn => ?_, fun hn hu => ?_, fun t hn hu hp => ?_⟩ <;> show execUbdisc _ _ _ _ _ _ _ = _
    · refine runGuarded_ready_lands ho hr ?_
      exact if_pos hn
    · refine runGuarded_ready_error ho hr ?_
      exact (if_neg hn).trans (if_pos hu)
    · refine runGuarded_accesses ho hr ?_
      refine (if_neg hn).trans ((if_neg (not_not_intro hu)).trans ?_)
      simp only [va, n, u] at hp
      simp only [hp]
      rfl
  case pref =>
    intro h g base len scope level s ho hr
    show execPref _ _ _ _ _ _ _ = _
    exact runGuarded_ready_lands ho hr rfl

/-! ## ACQ, REL, PHASE (R274, R275), TDEF (R354), MSEND (R322) -/

/-- A word without a guard whose work goes on after its issue. -/
theorem runWord_starts {i : Instr} {h : Hdr} {body : Body} {s u : State} {w : Work} (hi : s.issues i h)
    (hb : body (s.popped h (extraPop i)) = .ok (u.launchWord h.tks none [] w, .fall)) : runWord i h always body s = .next (u.starts h w) := by
  rw [runWord_issues hi rfl, hb]; rfl

/-- Does the partition check of MSEND's target refuse it (R324)? -/
def State.msendRefused (u : State) (t : Word) : Prop :=
  u.tgtAway t = true ∧ u.egress (whoDie u.cur) (tgtPkg t) 0 false true 0 (.load 0 0) = .error .partition

section
variable {h : Hdr} {g : Guard} {q : BitVec 4} {tgt bytes : BitVec 5} {s : State}

/-- An MSEND whose queue, length and target are good goes on. -/
theorem msend_goes (ho : s.opens (.msend h g q tgt bytes) h g) (hq : queueCheck ((s.opened h).jb.qcfg q.toNat) false (s.opened h).eng = none)
    (hn : ((s.opened h).readX 1 bytes).toNat < 2 ^ 32)
    (hm : ((s.opened h).readX 1 bytes).toNat % (unitOf (qSnk ((s.opened h).jb.qcfg q.toNat))).1 = 0)
    (ht : ((s.opened h).readX 0 tgt).toNat / 2 ^ 32 = 0 ∧ tgtCore ((s.opened h).readX 0 tgt) ≤ 255)
    (hr : ¬(s.opened h).msendRefused ((s.opened h).readX 0 tgt)) :
    exec (.msend h g q tgt bytes) s =
      .next ((s.opened h).starts h (.msend q ((s.opened h).readX 0 tgt) ((s.opened h).readX 1 bytes).toNat none [])) := by
  show execMsend _ _ _ _ _ _ = _
  refine runGuarded_starts ho rfl ?_
  simp only [hq]
  refine (if_neg (by omega)).trans ((if_neg (by omega)).trans (if_neg fun hc => hr ?_))
  rw [Bool.and_eq_true] at hc
  refine ⟨hc.1, ?_⟩
  have hc := hc.2
  split at hc
  next he => exact he
  next => cases hc

/-- An MSEND whose target's partition refuses it stops. -/
theorem msend_refused (ho : s.opens (.msend h g q tgt bytes) h g) (hq : queueCheck ((s.opened h).jb.qcfg q.toNat) false (s.opened h).eng = none)
    (hn : ((s.opened h).readX 1 bytes).toNat < 2 ^ 32)
    (hm : ((s.opened h).readX 1 bytes).toNat % (unitOf (qSnk ((s.opened h).jb.qcfg q.toNat))).1 = 0)
    (ht : ((s.opened h).readX 0 tgt).toNat / 2 ^ 32 = 0 ∧ tgtCore ((s.opened h).readX 0 tgt) ≤ 255)
    (hr : (s.opened h).msendRefused ((s.opened h).readX 0 tgt)) :
    exec (.msend h g q tgt bytes) s = .next (s.stopIssue (stopOf .partition)) := by
  show execMsend _ _ _ _ _ _ = _
  refine runGuarded_ready_error ho rfl ?_
  simp only [hq]
  refine (if_neg (by omega)).trans ((if_neg (by omega)).trans (if_pos ?_))
  rw [hr.1, hr.2]; rfl

end

/-- Settles O17: the ordering words have no condition of their own; TDEF asks its entry, MSEND its queue, length, target and partition. -/
theorem orderingTensorAndMessageWordsIssue : Obligations.OrderingTensorAndMessageWordsIssue := by
  unfold Obligations.OrderingTensorAndMessageWordsIssue
  refine ⟨?acq, ?rel, ?phase, ?tdef, ?msend, ?mqBad⟩
  case acq =>
    intro h scope s hi
    show execAcq _ _ _ = _
    exact runWord_starts hi rfl
  case rel =>
    intro h scope s hi
    show execRel _ _ _ = _
    exact runWord_starts hi rfl
  case phase =>
    intro h scope s hi
    show execPhase _ _ _ = _
    exact runWord_starts hi rfl
  case tdef =>
    intro h g tensor r s ho u v
    refine ⟨fun hv => ?_, fun c b hv hb => ?_⟩ <;> show execTdef _ _ _ _ _ = _
    · refine runGuarded_lands ho ?_
      have hn : (if tValid v then tensorBad v u.jb.spBytes else none) = none := by
        rcases hv with hv | hv <;> simp [hv]
      simp only [v, u] at hn
      simp only [hn]
      rfl
    · refine runGuarded_error ho ?_
      have hn : (if tValid v then tensorBad v u.jb.spBytes else none) = some (c, b) := by rw [if_pos hv, hb]
      simp only [v, u] at hn
      simp only [hn]
      rfl
  case msend =>
    intro h g q tgt bytes s ho u t n hq hn hm ht hc
    refine ⟨fun ha => ?_, fun ha hp => ?_, fun ha hp => ?_⟩
    · exact msend_goes ho hq hn hm ⟨ht, hc⟩ fun hr => by rw [hr.1] at ha; cases ha
    · exact msend_goes ho hq hn hm ⟨ht, hc⟩ fun hr => hp hr.2
    · exact msend_refused ho hq hn hm ⟨ht, hc⟩ ⟨ha, hp⟩
  case mqBad =>
    rintro h g q tgt bytes s ho ⟨hq, hn, hm, ht⟩
    show execMsend _ _ _ _ _ _ = _
    refine runGuarded_error ho ?_
    simp only [hq]
    exact (if_neg (by omega)).trans (if_pos ht)

end Sys2Proof.Machine
end

section
/-! PROOFS. RPROBE, LOCK and UNLOCK (R227, R230): the bodies of the words whose register is known at issue. -/

-- In order, so that the one-text compile stays within memory.
set_option Elab.async false

namespace Sys2Proof.Machine
open Sys2Proof

/-! ## RPROBE (R227) -/

section
variable {h : Hdr} {d base len : BitVec 5} {kind : BitVec 2} {u t : State} {absent : List (Nat × DieId)} {framed : Nat}

/-- The issue of an RPROBE that gives v. -/
def State.probed (u t : State) (h : Hdr) (d base len : BitVec 5) (kind : BitVec 2) (v : Nat) : Except Stop (State × Flow) :=
  t.launchTouch h.tks [.x d (BitVec.ofNat 64 v)] (.probe (u.readX 0 base) (u.readX 1 len) kind d)

/-- A line reserved at its home, charged to the job in record r of die x (R229). -/
def State.reserveLine (x : DieId) (r : Nat) (u : State) (k : Nat × DieId) : State :=
  { u.makeRoom k.2 with masters := (u.makeRoom k.2).masters.put k.1 { ub := true, charge := some (x.val, r), home := k.2 } }

/-- How many lines a reservation of so many more is short of its bounds (R227). -/
def State.reserveShort (t : State) (absent : List (Nat × DieId)) : Nat :=
  let grown := max t.jb.ubres.toNat (t.jb.ubused + absent.length)
  max (max (t.lockedBy (whoDie t.cur) (t.recOf t.cur) + grown - t.jb.llcq.toNat) (t.pinned (absent.headD (0, 0)).2 + absent.length - pinBound))
    (grown - (2 ^ 24 - 1))

theorem probeBody_empty (hn : (u.readX 1 len).toNat = 0) : probeBody h d base len kind u = u.probed u h d base len kind 0 := by
  unfold probeBody State.probed
  simp only [BitVec.ofNat_toNat, BitVec.setWidth_eq]
  exact if_pos hn

theorem probeBody_counts (hn : (u.readX 1 len).toNat ≠ 0)
    (hp : u.probeRange (u.readX 0 base).toNat (u.readX 1 len).toNat (kind != 0) = .ok (absent, framed, t))
    (hr : ¬(kind = 2 ∧ segKind (u.seg (whoDie u.cur) (u.asnOf u.cur) (bufOf (u.readX 0 base).toNat)) = 3 ∧ absent ≠ [])) :
    probeBody h d base len kind u = u.probed t h d base len kind framed := by
  unfold probeBody State.probed
  simp only [BitVec.ofNat_toNat, BitVec.setWidth_eq, hp]
  refine (if_neg hn).trans (if_pos ?_)
  exact (Classical.not_and_iff_not_or_not.mp hr).imp_right fun h => (Classical.not_and_iff_not_or_not.mp h).imp_right Classical.not_not.mp

theorem probeBody_reserves (hn : (u.readX 1 len).toNat ≠ 0)
    (hp : u.probeRange (u.readX 0 base).toNat (u.readX 1 len).toNat (kind != 0) = .ok (absent, framed, t))
    (hr : kind = 2 ∧ segKind (u.seg (whoDie u.cur) (u.asnOf u.cur) (bufOf (u.readX 0 base).toNat)) = 3 ∧ absent ≠ []) :
    probeBody h d base len kind u = if t.reserveShort absent = 0 then
        u.probed ((absent.foldl (State.reserveLine (whoDie t.cur) (t.recOf t.cur)) t).updJb fun j =>
          { j with ubres := BitVec.ofNat 24 (max t.jb.ubres.toNat (t.jb.ubused + absent.length)), ubused := t.jb.ubused + absent.length })
          h d base len kind (absent.length * 2 ^ 32 + framed)
      else .error { cause := .ubReserve, info0 := u.readX 0 base, info1 := BitVec.ofNat 64 (t.reserveShort absent) } := by
  unfold probeBody State.probed
  simp only [BitVec.ofNat_toNat, BitVec.setWidth_eq, hp]
  refine (if_neg hn).trans ((if_neg ?_).trans ?_)
  · obtain ⟨hkind, hseg, hsome⟩ := hr
    exact fun o => o.elim (· hkind) fun o => o.elim (· hseg) hsome
  · exact ite_not ..

end

/-! ## LOCK and UNLOCK (R230) -/

section
variable {h : Hdr} {d base len : BitVec 5} {u t : State} {ps : List (Option LockLine)}

/-- Who locks: the record of the current job on its die. -/
def State.locker (t : State) : Nat × Nat := ((whoDie t.cur).val, t.recOf t.cur)

/-- The cacheable lines of a range that the job does not lock, or does. -/
def State.freshLines (t : State) (ps : List (Option LockLine)) : List LockLine :=
  ((ps.filterMap id).eraseDups).filter fun k => !(t.locksOf (whoDie t.cur) k).contains t.locker
def State.ownLines (t : State) (ps : List (Option LockLine)) : List LockLine :=
  ((ps.filterMap id).eraseDups).filter fun k => (t.locksOf (whoDie t.cur) k).contains t.locker

/-- The lines among some that die y would have to pin anew. -/
def State.newlyPinned (t : State) (ls : List LockLine) (y : DieId) : Nat :=
  (ls.filter fun k => (if k.asCopy then whoDie t.cur else k.home) == y && !t.lineKept (whoDie t.cur) k).length

/-- Would locks of some lines go beyond the job's quota or a die's bound (R229)? -/
def State.locksOver (t : State) (ls : List LockLine) : Prop :=
  t.jb.llcq.toNat < t.lockedBy (whoDie t.cur) t.locker.2 + ls.length + t.jb.ubres.toNat ∨
    ∃ y : DieId, pinBound < t.pinned y + t.newlyPinned ls y ∧ t.newlyPinned ls y ≠ 0

theorem State.locksOver_iff (t : State) (ls : List LockLine) :
    (decide (t.jb.llcq.toNat < t.lockedBy (whoDie t.cur) t.locker.2 + ls.length + t.jb.ubres.toNat) ||
      (List.finRange 4).any fun x => decide (pinBound < t.pinned x + t.newlyPinned ls x) && t.newlyPinned ls x != 0) = true ↔ t.locksOver ls := by
  simp only [State.locksOver, Bool.or_eq_true, decide_eq_true_eq, List.any_eq_true, List.mem_finRange, true_and, Bool.and_eq_true, bne_iff_ne]

theorem lockBody_over (hp : u.lockLines (u.readX 0 base).toNat (u.readX 1 len).toNat = .ok (ps, t)) (ho : t.locksOver (t.freshLines ps)) :
    lockBody h d base len u = t.launchTouch h.tks [.x d 2] (.lock true (u.readX 0 base) (u.readX 1 len) d) := by
  unfold lockBody
  simp only [BitVec.ofNat_toNat, BitVec.setWidth_eq, hp]
  exact if_pos ((State.locksOver_iff ..).mpr ho)

theorem lockBody_pins (hp : u.lockLines (u.readX 0 base).toNat (u.readX 1 len).toNat = .ok (ps, t)) (ho : ¬t.locksOver (t.freshLines ps)) :
    lockBody h d base len u = ((t.freshLines ps).foldl (fun v k => v.pinLine (whoDie t.cur) (v.asnOf v.cur) k t.locker) t).launchTouch h.tks
      [.x d (BitVec.ofNat 64 ((if none ∈ ps then 1 else 0) + (t.freshLines ps).length * 2 ^ 32))] (.lock true (u.readX 0 base) (u.readX 1 len) d) := by
  have hc : (if none ∈ ps then 1 else 0) = if ps.contains none then 1 else 0 := by simp only [List.contains_iff_mem]
  unfold lockBody
  simp only [BitVec.ofNat_toNat, BitVec.setWidth_eq, hp, hc]
  exact if_neg (mt (State.locksOver_iff ..).mp ho)

theorem unlockBody_unpins (hp : u.lockLines (u.readX 0 base).toNat (u.readX 1 len).toNat = .ok (ps, t)) :
    unlockBody h d base len u = ((t.ownLines ps).foldl (fun v k => v.unpinLine (whoDie t.cur) k t.locker) t).launchTouch h.tks
      [.x d (BitVec.ofNat 64 ((t.ownLines ps).length * 2 ^ 32))] (.lock false (u.readX 0 base) (u.readX 1 len) d) := by
  unfold unlockBody
  simp only [BitVec.ofNat_toNat, BitVec.setWidth_eq, hp]
  rfl

end

/-- Settles O15: each clause is one outcome of its word's body. -/
theorem probeAndLockWordsComplete : Obligations.ProbeAndLockWordsComplete := by
  unfold Obligations.ProbeAndLockWordsComplete
  refine ⟨?rprobe, ?lock, ?unlock⟩
  case rprobe =>
    intro h g d base len kind s ho hr u va n done
    refine ⟨fun hn => ?_, ?_⟩
    · show execRprobe _ _ _ _ _ _ _ = _
      exact runGuarded_touches ho hr (probeBody_empty hn)
    intro absent framed t hn hp reserving
    refine ⟨fun hv => ?_, fun hv => ?_⟩
    · show execRprobe _ _ _ _ _ _ _ = _
      exact runGuarded_touches ho hr (probeBody_counts hn hp hv)
    · have hb := probeBody_reserves (h := h) (d := d) hn hp hv
      show execRprobe _ _ _ _ _ _ _ = _
      by_cases hz : t.reserveShort absent = 0
      · rw [if_pos hz] at hb
        exact (runGuarded_touches ho hr hb).trans (if_pos hz).symm
      · rw [if_neg hz] at hb
        exact (runGuarded_ready_error ho hr hb).trans (if_neg hz).symm
  case lock =>
    intro h g d base len s ps t ho hr va n hp x me fresh newly tooMany
    refine ⟨fun hv => ?_, fun hv => ?_⟩ <;> show execLock _ _ _ _ _ _ = _
    · exact runGuarded_touches ho hr (lockBody_over hp hv)
    · exact runGuarded_touches ho hr (lockBody_pins hp hv)
  case unlock =>
    intro h g d base len s ps t ho hr va n hp x me mine
    show execUnlock _ _ _ _ _ _ = _
    exact runGuarded_touches ho hr (unlockBody_unpins hp)

end Sys2Proof.Machine
end

section
/-! PROOFS. T's words (R290-R298, R316, R317, R325-R335): copies, tile moves and programming requests at issue. -/

-- In order, so that the one-text compile stays within memory.
set_option Elab.async false

namespace Sys2Proof.Machine
open Sys2Proof

/-! ## Copies (R325-R334) -/

section
variable {h : Hdr} {g : Guard} {k : BitVec 2} {s : State}

theorem xcopy_starts {st dt : BitVec 6} {xs : BitVec 4} {sorg dorg : BitVec 5} {t t' : State} (ho : s.opens (.xcopy h g k st dt xs sorg dorg) h g)
    (hk : k.toNat < (s.opened h).jb.kernel.chan) (hr : ((s.opened h).jb.chan k.toNat).recVa = none)
    (hs : (s.opened h).entryBad st (xcopyXfer st dt xs sorg dorg (s.opened h)).src [0, 1, 2, 3] .tensorBad = none)
    (hd : (s.opened h).entryBad dt (xcopyXfer st dt xs sorg dorg (s.opened h)).dst [0, 1, 2] .tensorBad = none)
    (hx : (s.opened h).xferBad (s.opened h).cur (xcopyXfer st dt xs sorg dorg (s.opened h)) ((s.opened h).jb.chan k.toNat).limit = none)
    (ht : (s.opened h).firstElem (xcopyXfer st dt xs sorg dorg (s.opened h)).src ((xcopyXfer st dt xs sorg dorg (s.opened h)).srcAt 0 0) false = .ok t)
    (ht' : t.firstElem (xcopyXfer st dt xs sorg dorg (s.opened h)).dst (some (orgRow (xcopyXfer st dt xs sorg dorg (s.opened h)).dorg,
      orgCol (xcopyXfer st dt xs sorg dorg (s.opened h)).dorg)) true = .ok t') :
    exec (.xcopy h g k st dt xs sorg dorg) s = .next (t'.starts h (.xcopy k (xcopyXfer st dt xs sorg dorg (s.opened h)))) := by
  show execXcopy _ _ _ _ _ _ _ _ _ = _
  refine runGuarded_starts ho rfl ?_
  simp only [hs, hd, hx, ht, ht']
  exact (if_neg (by omega)).trans (if_neg (by rw [hr]; decide))

/-- Settles O18: each clause is one branch of its word's body, by the checks it names. -/
theorem copyWordsIssue : Obligations.CopyWordsIssue := by
  unfold Obligations.CopyWordsIssue
  refine ⟨?xcopy, ?xset, ?xchain, ?xstat, ?xcancelIdle, ?xcancel, ?xcopyUndeclared, ?xchainUndeclared, ?xstatUndeclared, ?xcancelUndeclared,
    ?xcopyBusy, ?xchainBusy⟩
  case xcopy => intro h g k st dt xs sorg dorg s t t' ho u x hk hr hs hd hx ht ht'; exact xcopy_starts ho hk hr hs hd hx ht ht'
  case xset => intro h g xs r; exact landsGuarded_of rfl fun _ => rfl
  case xchain =>
    rintro h g k head s ho ⟨hk, hs⟩
    show execXchain _ _ _ _ _ = _
    refine runGuarded_lands ho ?_
    exact (if_neg (by omega)).trans (if_neg (not_not_intro hs))
  case xstat =>
    intro h g d k s ho hk
    show execXstat _ _ _ _ _ = _
    refine runGuarded_lands ho ?_
    exact if_neg (by omega)
  case xcancelIdle =>
    rintro h g k s ho ⟨hk, hi⟩
    show execXcancel _ _ _ _ = _
    refine runGuarded_lands ho ?_
    exact (if_neg (by omega)).trans (if_pos hi)
  case xcancel =>
    rintro h g k s ho ⟨hk, hi⟩
    show execXcancel _ _ _ _ = _
    refine runGuarded_ok ho ?_
    exact (if_neg (by omega)).trans (if_neg (by rw [hi]; decide))
  case xcopyUndeclared =>
    intro h g k st dt xs sorg dorg s ho hk
    show execXcopy _ _ _ _ _ _ _ _ _ = _
    refine runGuarded_error ho ?_
    exact if_pos hk
  case xchainUndeclared =>
    intro h g k head s ho hk
    show execXchain _ _ _ _ _ = _
    refine runGuarded_error ho ?_
    exact if_pos hk
  case xstatUndeclared =>
    intro h g d k s ho hk
    show execXstat _ _ _ _ _ = _
    refine runGuarded_error ho ?_
    exact if_pos hk
  case xcancelUndeclared =>
    intro h g k s ho hk
    show execXcancel _ _ _ _ = _
    refine runGuarded_error ho ?_
    exact if_pos hk
  case xcopyBusy =>
    rintro h g k st dt xs sorg dorg s ho ⟨hk, hr⟩
    show execXcopy _ _ _ _ _ _ _ _ _ = _
    refine runGuarded_error ho ?_
    exact (if_neg (by omega)).trans (if_pos (Option.isSome_iff_ne_none.mpr hr))
  case xchainBusy =>
    rintro h g k head s ho ⟨hk, hs⟩
    show execXchain _ _ _ _ _ = _
    refine runGuarded_error ho ?_
    exact (if_neg (by omega)).trans (if_pos hs)

end

/-! ## Tile moves (R316, R317, R335) -/

/-- Settles O19: TQIN and TQOUT once their checks pass; XFILL by whether its origin lies in its tensor. -/
theorem tileMoveWordsIssue : Obligations.TileMoveWordsIssue := by
  unfold Obligations.TileMoveWordsIssue
  refine ⟨?tqin, ?tqout, ?xfill⟩
  case tqin =>
    intro h g tq tensor org s ho hc
    show execTqin _ _ _ _ _ _ = _
    refine runGuarded_starts ho rfl ?_
    simp only [hc]
  case tqout =>
    intro h g tq tensor org s ho hc
    show execTqout _ _ _ _ _ _ = _
    refine runGuarded_starts ho rfl ?_
    simp only [hc]
  case xfill =>
    intro h g dt val org s ho
    dsimp only
    intro hu hb hf
    have hn : (fmtIsSb (tFmt ((s.opened h).tensor 3 dt)) || decide (0x0C ≤ (tFmt ((s.opened h).tensor 3 dt)).toNat)) = false := by
      rw [hb, Bool.false_or, decide_eq_false_iff_not]; omega
    refine ⟨fun hr => ?_, fun hr hc hw => ?_⟩ <;> show execXfill _ _ _ _ _ _ = _
    · refine runGuarded_error ho ?_
      simp only [hu, hn, Bool.false_eq_true, if_false]
      exact if_pos hr
    · refine runGuarded_ok ho ?_
      simp only [hu, hn, hw, Bool.false_eq_true, if_false]
      exact if_neg (by omega)

/-! ## Programming (R290-R298) -/

/-- Settles O20: each clause is one branch of its word's body. -/
theorem programmingWordsIssue : Obligations.ProgrammingWordsIssue := by
  unfold Obligations.ProgrammingWordsIssue
  refine ⟨?pgmrow, ?pgmtile, ?pgmret, ?rowPriv, ?tilePriv, ?retPriv, ?pgmstat⟩
  case pgmrow =>
    intro h g row tensor off dc s n ho hr
    dsimp only
    intro hm hs hc
    refine ⟨fun hl => ?_, fun h1 h2 hl => ?_, fun h1 h2 hl => ?_⟩ <;> show execPgmrow _ _ _ _ _ _ _ = _
    · refine runGuarded_ready_error ho hr ?_
      simp only [hm, hs, hc, Bool.not_true, Bool.false_eq_true, if_false]
      exact if_pos hl
    · refine runGuarded_ready_error ho hr ?_
      simp only [hm, hs, hc, Bool.not_true, Bool.false_eq_true, if_false]
      exact (if_neg (by omega)).trans (if_pos hl)
    · refine runGuarded_starts ho hr ?_
      simp only [hm, hs, hc, Bool.not_true, Bool.false_eq_true, if_false]
      exact (if_neg (by omega)).trans (if_neg (by omega))
  case pgmtile =>
    intro h g idx tensor kl dc s n ho hr
    dsimp only
    intro hm hs hc
    generalize hk : (s.opened h).readX 1 kl = k
    have hi : (bits k 63 62 == 1 || bits k 63 62 == 2) = decide (bits k 63 62 = 1 ∨ bits k 63 62 = 2) := by
      rw [Bool.decide_or]; rfl
    refine ⟨fun hl => ?_, fun h1 h2 h3 h4 => ?_, fun h1 h2 h3 => ?_⟩ <;> show execPgmtile _ _ _ _ _ _ _ = _
    · refine runGuarded_ready_error ho hr ?_
      simp only [hm, hs, hc, hk, Bool.not_true, Bool.false_eq_true, if_false]
      exact if_pos hl
    · have hn : ¬(262143 < ((s.opened h).readX 0 idx).toNat ∨ k.getLsbD 61 = true) := not_or.mpr ⟨by omega, by rw [h2]; decide⟩
      refine runGuarded_starts ho hr ?_
      simp only [hm, hs, hc, hk, hi, h3, decide_true, Bool.not_true, Bool.false_eq_true, if_false, if_true]
      exact (if_neg hn).trans (if_neg (by simpa using h4))
    · have hn : ¬(262143 < ((s.opened h).readX 0 idx).toNat ∨ k.getLsbD 61 = true) := not_or.mpr ⟨by omega, by rw [h2]; decide⟩
      refine runGuarded_starts ho hr ?_
      simp only [hm, hs, hc, hk, hi, h3, decide_false, Bool.not_true, Bool.false_eq_true, Bool.false_and, if_false]
      exact if_neg hn
  case pgmret =>
    intro h g prow s ho hr hm
    dsimp only
    show execPgmret _ _ _ _ = _
    by_cases hp : 0x43FFFF < ((s.opened h).readX 0 prow).toNat
    · rw [if_pos hp]
      refine runGuarded_ready_error ho hr ?_
      simp only [hm, Bool.not_true, Bool.false_eq_true, if_false]
      exact if_pos hp
    · rw [if_neg hp]
      refine runGuarded_starts ho hr ?_
      simp only [hm, Bool.not_true, Bool.false_eq_true, if_false]
      exact if_neg hp
  case rowPriv =>
    rintro h g row tensor off dc s ho ⟨hr, hm⟩
    show execPgmrow _ _ _ _ _ _ _ = _
    refine runGuarded_ready_error ho hr ?_
    exact if_pos (by rw [hm]; rfl)
  case tilePriv =>
    rintro h g idx tensor kl dc s ho ⟨hr, hm⟩
    show execPgmtile _ _ _ _ _ _ _ = _
    refine runGuarded_ready_error ho hr ?_
    exact if_pos (by rw [hm]; rfl)
  case retPriv =>
    rintro h g prow s ho ⟨hr, hm⟩
    show execPgmret _ _ _ _ = _
    refine runGuarded_ready_error ho hr ?_
    exact if_pos (by rw [hm]; rfl)
  case pgmstat => intro h g d tag; exact landsGuarded_of rfl fun _ => rfl

end Sys2Proof.Machine
end

section
/-! PROOFS. M's words (R139-R166). -/

-- In order, so that the one-text compile stays within memory.
set_option Elab.async false

namespace Sys2Proof.Machine
open Sys2Proof

/-- A word with a true guard that lands in a later cycle, its work its own. -/
theorem runGuarded_sent {i : Instr} {h : Hdr} {g : Guard} {ready : State → Bool} {body : Body} {s u : State} {land : Option Nat} {effs : List Eff}
    {w : Work} (ho : s.opens i h g) (hr : ready s = true) (hb : body (s.opened h) = .ok (u.launchWord h.tks land effs w, .fall))
    (he : extraPop i = none := by rfl) : runGuarded i h g ready body s = .next (u.sent h land effs w) := by
  rw [runGuarded_opens he ho hr, hb]; rfl

/-! ## A tile as M sees it -/

@[simp] theorem State.seenTile_win (u : State) (z : BitVec 2) : (u.seenTile z).win = (u.jb.tile z).win := by
  unfold State.seenTile; dsimp only; split <;> rfl

@[simp] theorem State.seenTile_ty (u : State) (z : BitVec 2) : (u.seenTile z).ty = (u.jb.tile z).ty := by
  unfold State.seenTile; dsimp only; split <;> rfl

@[simp] theorem State.seenTile_ue (u : State) (z : BitVec 2) : (u.seenTile z).ue = (u.jb.tile z).ue := by
  unfold State.seenTile; dsimp only; split <;> rfl

@[simp] theorem State.seenTile_armed (u : State) (z : BitVec 2) : (u.seenTile z).armed = (u.jb.tile z).armed := by
  unfold State.seenTile; dsimp only; split <;> rfl

/-- ABFTTOL as a word sees it rests on the job's register and on C's words in flight alone. -/
theorem State.updJb_tolSeen (u : State) {f : Job → Job} (ha : (f u.jb).abfttol = u.jb.abfttol) (hs : (f u.jb).streams = u.jb.streams) :
    (u.updJb f).tolSeen = u.tolSeen := by
  have hf : (u.updJb f).free = u.free := by simp
  unfold State.tolSeen State.slotCsr State.choose
  rcases State.updJb_jb u f with hj | hj <;> simp only [hj, ha, hs, State.updJb_now, hf]

/-- A check that meets an error notes it in the tile's open window (R161, R388). -/
def State.noteErr (u : State) (z : BitVec 2) : State :=
  if (u.jb.tile z).ue = 0 then u else u.updJb fun j => j.updTile z fun t => { t with win := t.win.map fun w => { w with err := true } }

theorem State.noteErr_tolSeen (u : State) (z : BitVec 2) : (u.noteErr z).tolSeen = u.tolSeen := by
  unfold State.noteErr
  split
  · rfl
  · exact u.updJb_tolSeen rfl rfl

/-- MCHK of a tile whose rows can be read. -/
theorem mchkBody_lands {h : Hdr} {g : Guard} {d : BitVec 5} {pd : BitVec 3} {z : BitVec 2} {s : State} (ho : s.opens (.mchk h g d pd z) h g)
    (hr : matrixReady z false s = true) (ht : (s.opened h).tileBad z = none) (hu : (s.opened h).jb.tileUe z = none) :
    execMchk h g d pd z s = .next (((s.opened h).noteErr z).sends h 4
      (if ((s.opened h).jb.tile z).armed then [.x d (BitVec.ofNat 64 (((s.opened h).seenTile z).mismatches (s.opened h).tolSeen)),
        .p pd (((s.opened h).seenTile z).mismatches (s.opened h).tolSeen != 0)] else [.x d (1#64 <<< 63), .p pd false])) := by
  refine runGuarded_ready_lands ho hr ?_
  have hv : (if (((s.opened h).jb.tile z).ue != 0) = true then
      (s.opened h).updJb fun j => j.updTile z fun t => { t with win := t.win.map fun w => { w with err := true } } else s.opened h) =
      (s.opened h).noteErr z := by
    simp only [bne_iff_ne, ne_eq, ite_not]
    rfl
  simp only [ht, hu, State.seenTile_ue, State.seenTile_armed, hv, State.noteErr_tolSeen]
  split <;> rfl

/-! ## The words -/

/-- Settles O21: each clause is the branch of its word's body that its conditions lead to. -/
theorem matrixWordsIssue : Obligations.MatrixWordsIssue := by
  unfold Obligations.MatrixWordsIssue
  refine ⟨?mopen, ?mma, ?tstart, ?tend, ?mrd, ?mcvt, ?mchk, ?tileBad, ?noWindow⟩
  case mopen =>
    rintro h g z zf ty s ho ⟨hr, ht, hl, hw⟩
    have hn : ¬(tileLanes ty).isNone = true := by rw [← Option.not_isSome, hl]; decide
    have hv : ¬((s.opened h).jb.tile z).win.isSome = true := by rw [hw]; decide
    show execMopen _ _ _ _ _ _ = _
    refine runGuarded_sent ho hr ?_
    simp only [ht]
    exact (if_neg hn).trans (if_neg hv)
  case mma =>
    intro h g z ta tb idx kr ck s us t ho hm ha m hc v
    have hr : (matrixReady z true s && s.arrayRoom) = true := by rw [hm, ha]; rfl
    refine ⟨fun hn => ?_, fun d c k e hn hv => ?_⟩ <;> show execMma _ _ _ _ _ _ _ _ _ = _
    · refine runGuarded_sent ho hr ?_
      simp only [hc]
      exact if_pos hn
    · refine runGuarded_ready_ok ho hr ?_
      simp only [hc]
      have hcur : (v.launchWord h.tks none [] (.mma m 0 none)).cur = .eng d c k e := (State.launchWord_cur ..).trans hv
      refine (if_neg hn).trans ?_
      simp only [m, v] at hcur
      simp only [hcur]
      rfl
  case tstart =>
    rintro h g z k we thr s ho ⟨hm, hs, hb, hw⟩
    have hr : (matrixReady z false s && ((s.tstartBad z k we).isSome || !we || decide ((s.readX 0 thr).toNat ≤ (s.jb.chan k.toNat).wp))) = true := by
      rw [hm, hs]
      cases we
      · rfl
      · rw [decide_eq_true (hw rfl)]; rfl
    show execTstart _ _ _ _ _ _ _ = _
    simp only [State.sends, State.updJb_now]
    refine runGuarded_sent ho hr ?_
    simp only [hb]
  case tend =>
    rintro h g z s ho ⟨hr, ht, hw⟩
    have hn : ¬((s.opened h).jb.tile z).win.isNone = true := by rwa [Option.isNone_iff_eq_none]
    show execTend _ _ _ _ = _
    refine runGuarded_starts ho hr ?_
    simp only [ht]
    exact if_neg hn
  case mrd =>
    rintro h g z dt fmt rnd sat fin org s ho ⟨hr, hb⟩
    show execMrd _ _ _ _ _ _ _ _ _ _ = _
    refine runGuarded_starts ho hr ?_
    simp only [hb]
  case mcvt =>
    rintro h g z fmt rnd sat fin s ho ⟨hr, ht, hw, hty, hl, hf, hu⟩
    have hn : ¬((tileLanes fmt).isNone = true ∨ fmt = 0x0C) := by
      rw [← Option.not_isSome, hl]
      exact not_or.mpr ⟨by decide, hf⟩
    show execMcvt _ _ _ _ _ _ _ _ = _
    refine runGuarded_sent ho hr ?_
    simp only [ht, hu, State.seenTile_win, State.seenTile_ty, hw, hty]
    exact (if_neg (by decide)).trans ((if_neg (by decide)).trans (if_neg hn))
  case mchk =>
    rintro h g d pd z s ho ⟨hr, ht, hu⟩
    exact mchkBody_lands ho hr ht hu
  case tileBad =>
    rintro h g z zf ty e s ho ⟨hr, hb⟩
    show execMopen _ _ _ _ _ _ = _
    refine runGuarded_ready_error ho hr ?_
    simp only [hb]
  case noWindow =>
    rintro h g z s ho ⟨hr, ht, hw⟩
    show execTend _ _ _ _ = _
    refine runGuarded_ready_error ho hr ?_
    simp only [ht]
    exact if_pos (by rw [hw]; decide)

/-- Where a word reads the second tensor entry it names, as the statement has it. -/
theorem secondSite_eq (t u : BitVec 6) : secondSite t u = if t = u then 3 else 4 := rfl

/-- Settles O22: both words' checks pass first; SEEDSCAN then asks its range of seeds, SEEDFIT its seed and its record's tensor. -/
theorem seedWordsIssue : Obligations.SeedWordsIssue := by
  unfold Obligations.SeedWordsIssue
  refine ⟨?seedscan, ?seedfit⟩
  case seedscan =>
    intro h g z tt fs cnt j1 d s l ho hm ha hn
    dsimp only
    intro hc
    have hr : (matrixReady z false s && s.arrayEmpty && s.readsNow h) = true := by rw [hm, ha, hn]; rfl
    show execSeedscan _ _ _ _ _ _ _ _ _ = _
    split
    next hz =>
      refine runGuarded_ready_error ho hr ?_
      simp only [hc]
      exact if_pos hz
    next hz =>
      refine runGuarded_sent ho hr ?_
      simp only [hc]
      exact if_neg hz
  case seedfit =>
    intro h g z tt seed j1 rt d s l ho hm ha hn
    dsimp only
    intro hc
    have hr : (matrixReady z false s && s.arrayEmpty && s.readsNow h) = true := by rw [hm, ha, hn]; rfl
    refine ⟨fun hz => ?_, fun hz hu hf hl => ?_⟩ <;> show execSeedfit _ _ _ _ _ _ _ _ _ = _
    · refine runGuarded_ready_error ho hr ?_
      simp only [hc]
      exact if_pos hz
    · rw [← secondSite_eq] at hu hf hl ⊢
      refine runGuarded_sent ho hr ?_
      simp only [hc, hu]
      refine (if_neg hz).trans (if_neg ?_)
      rw [hf]
      exact not_or.mpr ⟨not_not_intro rfl, by omega⟩

end Sys2Proof.Machine
end

section
/-! PROOFS. V's lane-wise, row, conversion, mask and lane words (R168-R191). -/

-- In order, so that the one-text compile stays within memory.
set_option Elab.async false

namespace Sys2Proof.Machine
open Sys2Proof

theorem getD_toArray (l : List Nat) (j : Nat) : l.toArray.getD j 0 = l.getD j 0 := by
  by_cases hj : j < l.length <;> simp [Array.getD, List.getD, hj]

/-! ## Lane-wise words -/

/-- What a word does to one lane: its type, RMODE, and the lanes of VS1, VS2 and the third source. -/
abbrev LaneFn := BitVec 5 → Nat → Nat → Nat → Nat → Nat × FlagSet

/-- The row a lane-wise word lands where its row has no W1024 type. -/
def laneEffs (f : LaneFn) (third : Bool) (vd vs1 vs2 : BitVec 7) (mask : BitVec 3) (u : State) : List Eff :=
  let ty := u.rowType vd
  let a := rowLanes ty (u.readRow 0 vs1).1
  let b := rowLanes ty (u.readRow 1 vs2).1
  let c := if third then rowLanes ty (u.readRow 2 vd).1 else []
  let r := maskedLanes (u.mask 3 mask) a fun j => f ty u.rmode.toNat (a.getD j 0) (b.getD j 0) (c.getD j 0)
  .row vd (lanesRow ty r.1) 0 :: flagEff r.2

/-- A function of lanes is a word's where it is what laneOp gives for the word's number on the types the word admits. -/
def LaneFn.isOp (f : LaneFn) (op : Nat) (kinds : List Nat) : Prop :=
  ∀ ty mode a b c, kinds.contains (typeKind ty) = true → typeKind ty ≠ 0 → laneOp op ty mode a b c = f ty mode a b c

/-- A function that tells FP lanes from integer ones is a word's where both sides are. -/
theorem LaneFn.isOp_of_split {op : Nat} {kinds : List Nat} {x y : LaneFn}
    (hx : ∀ ty mode a b c, typeKind ty = 1 → laneOp op ty mode a b c = x ty mode a b c)
    (hy : ∀ ty mode a b c, typeKind ty ≠ 1 → laneOp op ty mode a b c = y ty mode a b c) :
    LaneFn.isOp (fun ty mode a b c => if typeKind ty = 1 then x ty mode a b c else y ty mode a b c) op kinds := by
  intro ty mode a b c _ _
  dsimp only
  split
  next h => exact hx ty mode a b c h
  next h => exact hy ty mode a b c h

/-- The words of integer lanes alone. -/
theorem LaneFn.isOp_of_int {op : Nat} {f : LaneFn} (hy : ∀ ty mode a b c, typeKind ty ≠ 1 → laneOp op ty mode a b c = f ty mode a b c) :
    f.isOp op [2] := by
  intro ty mode a b c hk _
  refine hy ty mode a b c fun h1 => ?_
  rw [h1] at hk
  exact absurd hk (by decide)

/-- FP lanes under the words but VAND, VOR and VXOR. -/
theorem laneOp_fp (op : Nat) {ty : BitVec 5} (h : typeKind ty = 1) (mode a b c : Nat) (h8 : op ≠ 8 := by decide) (h9 : op ≠ 9 := by decide)
    (h10 : op ≠ 10 := by decide) :
    laneOp op ty mode a b c =
      if op = 0 then fpAdd ty mode (fmtValue ty a) (fmtValue ty b)
      else if op = 1 then fpAdd ty mode (fmtValue ty a) (fmtValue ty b).neg
      else if op = 2 then fpMul ty mode (fmtValue ty a) (fmtValue ty b)
      else if op = 3 then fpFma ty mode (fmtValue ty a) (fmtValue ty b) (fmtValue ty c)
      else if op = 4 then (fpMinMax ty false a b, 0)
      else if op = 5 then (fpMinMax ty true a b, 0)
      else if op = 6 then (a % 2 ^ (laneWidth ty - 1), 0)
      else (a ^^^ 2 ^ (laneWidth ty - 1), 0) := by
  unfold laneOp
  simp only [h8, h9, h10, h, if_false, if_true]

/-- Integer lanes under the words but VAND, VOR and VXOR. -/
theorem laneOp_int (op : Nat) {ty : BitVec 5} (h : typeKind ty ≠ 1) (mode a b c : Nat) (h8 : op ≠ 8 := by decide) (h9 : op ≠ 9 := by decide)
    (h10 : op ≠ 10 := by decide) :
    laneOp op ty mode a b c =
      (intLane (laneWidth ty)
        (if op = 0 then laneInt (laneWidth ty) a + laneInt (laneWidth ty) b
        else if op = 1 then laneInt (laneWidth ty) a - laneInt (laneWidth ty) b
        else if op = 2 then laneInt (laneWidth ty) a * laneInt (laneWidth ty) b
        else if op = 3 then laneInt (laneWidth ty) a * laneInt (laneWidth ty) b + laneInt (laneWidth ty) c
        else if op = 4 then min (laneInt (laneWidth ty) a) (laneInt (laneWidth ty) b)
        else if op = 5 then max (laneInt (laneWidth ty) a) (laneInt (laneWidth ty) b)
        else if op = 6 then ((laneInt (laneWidth ty) a).natAbs : Int)
        else if op = 7 then -laneInt (laneWidth ty) a
        else if op = 11 then laneInt (laneWidth ty) a * 2 ^ (b % laneWidth ty)
        else if op = 12 then ((a % 2 ^ laneWidth ty / 2 ^ (b % laneWidth ty) : Nat) : Int)
        else laneInt (laneWidth ty) a / 2 ^ (b % laneWidth ty)), 0) := by
  unfold laneOp
  simp only [h8, h9, h10, h, if_false]

/-- A lane-wise word of no W1024 row. -/
theorem laneFn_lands {i : Instr} (op : Nat) {third : Bool} {kinds : List Nat} {h : Hdr} {g : Guard} {vd vs1 vs2 : BitVec 7} {m : BitVec 3} {f : LaneFn}
    (hf : f.isOp op kinds) (h3 : (op == 3) = third) (hk : kinds.contains 0 = false) (he : extraPop i = none := by rfl)
    (hx : ∀ s, exec i s = laneWord i op kinds h g vd vs1 vs2 m s := by exact fun _ => rfl) :
    landsRows i h g 12 true (sameOps kinds vd third [vs1, vs2]) noCheck (laneEffs f third vd vs1 vs2 m) := by
  rw [← h3]
  refine laneWord_lands he hx (fun u hc hz => ?_) fun u hc hz => ?_
  · rw [hz, hk] at hc; cases hc
  · simp only [hf _ _ _ _ _ hc hz, laneEffs, beq_iff_eq]

/-- VADD and VSUB, which take W1024 rows as well. -/
theorem sumWord_lands {i : Instr} (op : Nat) {h : Hdr} {g : Guard} {vd vs1 vs2 : BitVec 7} {m : BitVec 3} {f : LaneFn}
    (hf : f.isOp op [0, 1, 2]) (h3 : (op == 3) = false) (he : extraPop i = none := by rfl)
    (hx : ∀ s, exec i s = laneWord i op [0, 1, 2] h g vd vs1 vs2 m s := by exact fun _ => rfl) :
    landsRows i h g 12 true (sameOps [0, 1, 2] vd false [vs1, vs2]) noCheck fun u =>
      if typeKind (u.rowType vd) = 0 then
        let r := wideOp (op == 1) (u.readRow 0 vs1) (u.readRow 1 vs2) (u.mask 3 m)
        .row vd r.1 r.2.1 :: flagEff r.2.2
      else laneEffs f false vd vs1 vs2 m u := by
  rw [← h3]
  refine laneWord_lands he hx (fun u hc hz => ?_) fun u hc hz => ?_
  · exact if_pos hz
  · simp only [if_neg hz, hf _ _ _ _ _ hc hz, laneEffs, beq_iff_eq]

/-- Settles O23: each word's function is laneOp at the word's number, on the lane types the word admits. -/
theorem laneWordsLandTheirRow : Obligations.LaneWordsLandTheirRow := by
  unfold Obligations.LaneWordsLandTheirRow
  refine ⟨?sums, ?two, ?fma, ?one⟩
  case sums =>
    intro p hp h g vd vs1 vs2 mask
    simp only [List.mem_cons, List.not_mem_nil, or_false] at hp
    rcases hp with rfl | rfl
    · refine sumWord_lands 0 ?_ rfl
      exact LaneFn.isOp_of_split (fun _ _ _ _ _ hk => laneOp_fp 0 hk ..) fun _ _ _ _ _ hk => laneOp_int 0 hk ..
    · refine sumWord_lands 1 ?_ rfl
      exact LaneFn.isOp_of_split (fun _ _ _ _ _ hk => laneOp_fp 1 hk ..) fun _ _ _ _ _ hk => laneOp_int 1 hk ..
  case two =>
    intro p hp h g vd vs1 vs2 mask
    simp only [List.mem_cons, List.not_mem_nil, or_false] at hp
    rcases hp with rfl | rfl | rfl | rfl | rfl | rfl | rfl | rfl | rfl
    · refine laneFn_lands 2 ?_ rfl rfl
      exact LaneFn.isOp_of_split (fun _ _ _ _ _ hk => laneOp_fp 2 hk ..) fun _ _ _ _ _ hk => laneOp_int 2 hk ..
    · refine laneFn_lands 4 ?_ rfl rfl
      exact LaneFn.isOp_of_split (fun _ _ _ _ _ hk => laneOp_fp 4 hk ..) fun _ _ _ _ _ hk => laneOp_int 4 hk ..
    · refine laneFn_lands 5 ?_ rfl rfl
      exact LaneFn.isOp_of_split (fun _ _ _ _ _ hk => laneOp_fp 5 hk ..) fun _ _ _ _ _ hk => laneOp_int 5 hk ..
    · exact laneFn_lands 8 (f := fun _ _ a b _ => (a &&& b, 0)) (fun _ _ _ _ _ _ _ => rfl) rfl rfl
    · exact laneFn_lands 9 (f := fun _ _ a b _ => (a ||| b, 0)) (fun _ _ _ _ _ _ _ => rfl) rfl rfl
    · exact laneFn_lands 10 (f := fun _ _ a b _ => (a ^^^ b, 0)) (fun _ _ _ _ _ _ _ => rfl) rfl rfl
    · refine laneFn_lands 11 ?_ rfl rfl
      exact LaneFn.isOp_of_int fun _ _ _ _ _ hk => laneOp_int 11 hk ..
    · refine laneFn_lands 12 ?_ rfl rfl
      exact LaneFn.isOp_of_int fun _ _ _ _ _ hk => laneOp_int 12 hk ..
    · refine laneFn_lands 13 ?_ rfl rfl
      exact LaneFn.isOp_of_int fun _ _ _ _ _ hk => laneOp_int 13 hk ..
  case fma =>
    intro h g vd vs1 vs2 mask
    refine laneFn_lands 3 (f := fun ty mode a b c => if typeKind ty = 1 then fpFma ty mode (fmtValue ty a) (fmtValue ty b) (fmtValue ty c)
      else (((laneInt (laneWidth ty) a * laneInt (laneWidth ty) b + laneInt (laneWidth ty) c) % 2 ^ laneWidth ty).toNat, 0)) ?_ rfl rfl
    exact LaneFn.isOp_of_split (fun _ _ _ _ _ hk => laneOp_fp 3 hk ..) fun _ _ _ _ _ hk => laneOp_int 3 hk ..
  case one =>
    intro p hp h g vd vs1 mask
    simp only [List.mem_cons, List.not_mem_nil, or_false] at hp
    rcases hp with rfl | rfl
    · refine laneFn_lands 6 ?_ rfl rfl
      exact LaneFn.isOp_of_split (fun _ _ _ _ _ hk => laneOp_fp 6 hk ..) fun _ _ _ _ _ hk => laneOp_int 6 hk ..
    · refine laneFn_lands 7 ?_ rfl rfl
      exact LaneFn.isOp_of_split (fun _ _ _ _ _ hk => laneOp_fp 7 hk ..) fun _ _ _ _ _ hk => laneOp_int 7 hk ..

/-! ## Row words -/

theorem laneWidth_cases (ty : BitVec 5) : laneCount ty = 32 ∧ laneWidth ty = 1024 ∨ laneCount ty = 1024 ∧ laneWidth ty = 32 ∨
    laneCount ty = 2048 ∧ laneWidth ty = 16 ∨ laneCount ty = 4096 ∧ laneWidth ty = 8 := by
  unfold laneWidth laneCount tileLanes
  split; · decide
  split; · decide
  split; · decide
  split <;> decide

/-- Types of one lane width cut a row alike. -/
theorem rowLanes_eq_of_width {a b : BitVec 5} (h : laneWidth a = laneWidth b) (r : Row) : rowLanes a r = rowLanes b r := by
  have hc : laneCount a = laneCount b := by
    have ha := laneWidth_cases a
    have hb := laneWidth_cases b
    omega
  unfold rowLanes
  rw [h, hc]

/-- Settles O24: each word's body is results; VPERM's index lanes are those of a row as wide as VD's, as its checks say. -/
theorem rowWordsLandTheirRow : Obligations.RowWordsLandTheirRow := by
  unfold Obligations.RowWordsLandTheirRow
  refine ⟨?vcmp, ?vsel, ?vmov, ?vbcast, ?reductions, ?vperm, ?vrot⟩
  case vcmp =>
    intro h g md vs1 vs2 mask cond
    exact landsRows_of rfl (fun s => show execVcmp h g md vs1 vs2 mask cond s = _ from rfl) fun u _ => rfl
  case vsel =>
    intro h g vd vs1 vs2 mask
    exact landsRows_of rfl (fun s => show execVsel h g vd vs1 vs2 mask s = _ from rfl) fun u _ => rfl
  case vmov =>
    intro h g vd vs1 mask
    exact landsRows_of rfl (fun s => show execVmov h g vd vs1 mask s = _ from rfl) fun u _ => rfl
  case vbcast =>
    intro h g vd val mask
    exact landsRows_of rfl (fun s => show execVbcast h g vd val mask s = _ from rfl) fun u _ => rfl
  case reductions =>
    intro p hp h g vd vs1 vs2 mask opr seg
    simp only [List.mem_cons, List.not_mem_nil, or_false] at hp
    rcases hp with rfl | rfl
    · have hx (s : State) : exec (.vred h g vd vs1 vs2 mask opr seg) s = redWord (.vred h g vd vs1 vs2 mask opr seg) false h g vd vs1 vs2 mask opr seg s :=
        rfl
      exact ⟨landsRows_of rfl hx fun u _ => rfl, stopsRows_of rfl hx⟩
    · have hx (s : State) : exec (.vscan h g vd vs1 vs2 mask opr seg) s = redWord (.vscan h g vd vs1 vs2 mask opr seg) true h g vd vs1 vs2 mask opr seg s :=
        rfl
      exact ⟨landsRows_of rfl hx fun u _ => rfl, stopsRows_of rfl hx⟩
  case vperm =>
    intro h g vd vs1 vs2 mask
    refine landsRows_of rfl (fun s => show execVperm h g vd vs1 vs2 mask s = _ from rfl) fun u hu => ?_
    have hw : laneWidth (u.rowType vd) = laneWidth (u.rowType vs2) := by
      have := hu _ (List.mem_append_right _ (List.mem_singleton_self _))
      rw [Bool.and_eq_true, beq_iff_eq] at this
      exact this.2.symm
    dsimp only
    generalize hv : u.noteRows _ = v
    rw [← State.noteRows_rowType u _ vd, ← State.noteRows_rowType u _ vs2, hv] at hw
    refine congrArg (fun f => results h 12 [.row vd (lanesRow (v.rowType vd) (maskedLanes (v.mask 3 mask)
      (rowLanes (v.rowType vd) (v.readRow 0 vs1).1) f).1) 0] v) (funext fun j => ?_)
    simp only [getD_toArray, rowLanes_eq_of_width hw, permSource]
    split
    next k hk => rw [hk]; rfl
    next hk => rw [hk]; rfl
  case vrot =>
    intro h g vd vs1 amt mask
    refine landsRows_of rfl (fun s => show execVrot h g vd vs1 amt mask s = _ from rfl) fun u _ => ?_
    simp only [getD_toArray]
    rfl

/-! ## Conversions and special functions -/

theorem specialWord_lands {i : Instr} (n : Nat) {h : Hdr} {g : Guard} {vd vs1 : BitVec 7} {mask : BitVec 3} (he : extraPop i = none := by rfl)
    (hx : ∀ s, exec i s = specialWord i n h g vd vs1 mask s := by exact fun _ => rfl) :
    landsRows i h g 20 true (sameOps [1] vd false [vs1]) noCheck fun u =>
      let ty := u.rowType vd
      let a := rowLanes ty (u.readRow 0 vs1).1
      let r := maskedLanes (u.mask 3 mask) a fun j => special n ty (a.getD j 0)
      .row vd (lanesRow ty r.1) 0 :: flagEff r.2 := by
  refine landsRows_of he hx fun u _ => ?_
  simp only [getD_toArray]
  rfl

/-- Settles O25: each word's body is results. -/
theorem conversionAndFunctionWordsLandTheirRow : Obligations.ConversionAndFunctionWordsLandTheirRow := by
  unfold Obligations.ConversionAndFunctionWordsLandTheirRow
  refine ⟨?vcvt, ?vrnd, ?special⟩
  case vcvt =>
    intro h g vd vs1 mask rnd sat fin
    refine landsRows_of rfl (fun s => show execVcvt h g vd vs1 mask rnd sat fin s = _ from rfl) fun u _ => ?_
    simp only [getD_toArray]
    rfl
  case vrnd =>
    intro h g vd vs1 mask rnd sat fin
    refine landsRows_of rfl (fun s => show execVrnd h g vd vs1 mask rnd sat fin s = _ from rfl) fun u _ => ?_
    simp only [getD_toArray]
    split <;> rfl
  case special =>
    intro p hp h g vd vs1 mask
    simp only [List.mem_cons, List.not_mem_nil, or_false] at hp
    rcases hp with rfl | rfl | rfl | rfl | rfl | rfl | rfl | rfl | rfl | rfl
    all_goals exact specialWord_lands _

/-! ## Masks, single lanes and snapshots -/

/-- The bits MSETI sets: COUNT of them from FIRST on, as far as a mask reaches (R187). -/
theorem msetiMask_getLsbD (first count : BitVec 13) (j : Nat) :
    (BitVec.ofNat 4096 ((2 ^ count.toNat - 1) * 2 ^ first.toNat)).getLsbD j =
      decide (first.toNat ≤ j ∧ j < first.toNat + count.toNat ∧ j < 4096) := by
  rw [BitVec.getLsbD_ofNat, Nat.testBit_mul_two_pow, Nat.testBit_two_pow_sub_one, Bool.eq_iff_iff]
  simp only [Bool.and_eq_true, decide_eq_true_eq]
  omega

/-- Settles O26: each word's body is results; VGET and VPUT check their lane first. -/
theorem maskAndLaneWordsLand : Obligations.MaskAndLaneWordsLand := by
  unfold Obligations.MaskAndLaneWordsLand
  refine ⟨?mand, ?mor, ?mnot, ?mseti, ?cset, ?vget, ?vput, ?vsnap⟩
  case mand => exact fun h g md ms1 ms2 => landsGuarded_of rfl fun _ => rfl
  case mor => exact fun h g md ms1 ms2 => landsGuarded_of rfl fun _ => rfl
  case mnot => exact fun h g md ms1 => landsGuarded_of rfl fun _ => rfl
  case mseti => exact fun first count => ⟨_, msetiMask_getLsbD first count, fun h g md => landsGuarded_of rfl fun _ => rfl⟩
  case cset => exact fun h g ct r => landsGuarded_of rfl fun _ => rfl
  case vget =>
    intro h g d vs lane
    have hx (s : State) := show exec (.vget h g d vs lane) s = execVget h g d vs lane s from rfl
    exact ⟨landsRows_of rfl hx fun u _ => rfl, stopsRows_of rfl hx⟩
  case vput =>
    intro h g vd val lane
    have hx (s : State) := show exec (.vput h g vd val lane) s = execVput h g vd val lane s from rfl
    exact ⟨landsRows_of rfl hx fun u _ => rfl, stopsRows_of rfl hx⟩
  case vsnap =>
    intro h g vd vs d
    refine landsRows_of rfl (fun s => show execVsnap h g vd vs d s = _ from rfl) fun u _ => ?_
    simp only [bne_iff_ne, ne_eq, ite_not]

/-! ## Words that move rows -/

/-- Settles O27: each clause is the branch of its word's body that its conditions lead to. -/
theorem queueRowWordsComplete : Obligations.QueueRowWordsComplete := by
  unfold Obligations.QueueRowWordsComplete
  refine ⟨?vpop, ?vpush, ?chain⟩
  case vpop =>
    intro h g vd q s r t hi
    dsimp only
    intro hc hr hk ht hp
    have hready : ((s.vpopCheck (s.guard g) vd q).isSome || s.rowHere s.cur q s.str.nextId) = true := by rw [hr, Bool.or_true]
    have htag : ¬((s.opened h).guard g &&
        (((s.opened h).tqHead (qName q) (s.opened h).now).map (·.tag)).any (· != (s.opened h).rowType vd)) = true := by
      intro hb
      rw [Bool.and_eq_true] at hb
      obtain ⟨hg, ha⟩ := hb
      cases he : (s.opened h).tqHead (qName q) (s.opened h).now with
      | none => rw [he] at ha; cases ha
      | some e =>
        rw [he] at ha
        simp [ht hg e he] at ha
    show execVpop _ _ _ _ _ = _
    cases hg : (s.opened h).guard g with
    | true =>
      rw [hg] at hk hp htag
      refine runWord_ready_lands hi hready ?_
      simp only [show s.popped h (extraPop (.vpop h g vd q)) = s.opened h from rfl, hg, hk]
      refine (if_neg htag).trans ?_
      rw [hp]
      rfl
    | false =>
      rw [hg] at hk hp htag
      refine runWord_ready_lands hi hready ?_
      simp only [show s.popped h (extraPop (.vpop h g vd q)) = s.opened h from rfl, hg, hk]
      refine (if_neg htag).trans ?_
      rw [hp]
      rfl
  case vpush =>
    intro h g q vs s hi hc hr
    dsimp only
    intro hk
    have hready : ((s.vpushCheck (s.guard g) q vs).isSome || s.rowRoom s.cur q) = true := by rw [hr, Bool.or_true]
    show execVpush _ _ _ _ _ = _
    refine runWord_ready_lands hi hready ?_
    simp only [show s.popped h (extraPop (.vpush h g q vs)) = s.opened h from rfl, hk]
    cases (s.opened h).guard g <;> rfl
  case chain =>
    intro h g iq oq ct cnt s hi
    dsimp only
    intro hk
    refine ⟨fun hn => ?_, fun d c k x hn hcur => ?_⟩ <;> show execChain _ _ _ _ _ _ _ = _
    · refine runWord_ready_lands hi rfl ?_
      simp only [show s.popped h (extraPop (.chain h g iq oq ct cnt)) = s.opened h from rfl, hk]
      exact if_pos hn
    · refine runWord_ok hi ?_
      simp only [show s.popped h (extraPop (.chain h g iq oq ct cnt)) = s.opened h from rfl, hk]
      refine (if_neg hn).trans ?_
      simp only [State.launchWord_cur, hcur]
      rfl

end Sys2Proof.Machine
end

section
/-! PROOFS. C's words and the system core's (R37, R204, R207, R213, R214, R226, R237, R238, R343, R344, R359, R366, R369-R375). -/

-- In order, so that the one-text compile stays within memory.
set_option Elab.async false

namespace Sys2Proof.Machine
open Sys2Proof

/-! ## Dependence counters -/

theorem toNat_append_eq_add {m n : Nat} (x : BitVec m) (y : BitVec n) : (x ++ y).toNat = x.toNat * 2 ^ n + y.toNat := by
  rw [BitVec.toNat_append, ← Nat.shiftLeft_add_eq_or_of_lt y.isLt, Nat.shiftLeft_eq]

/-- A counter's word by its fields (R369). -/
theorem dcWord_eq (c : Dc) : c.word = BitVec.ofNat 64 (c.value.toNat + 2 ^ 32 * c.act.toNat + 2 ^ 36 * c.scope.toNat + 2 ^ 39 * c.sysrec.toNat +
    2 ^ 40 * c.asn.toNat + 2 ^ 63 * c.under.toNat) := by
  have hv := c.value.isLt
  have ha := c.act.isLt
  have hs := Bool.toNat_le c.scope
  have hr := Bool.toNat_le c.sysrec
  have hn := c.asn.isLt
  have hu := Bool.toNat_le c.under
  apply BitVec.eq_of_toNat_eq
  unfold Dc.word
  simp only [toNat_append_eq_add, BitVec.toNat_ofBool, BitVec.toNat_ofNat, BitVec.ofNat_eq_ofNat]
  omega

/-- A counter's die is named by two bits. -/
theorem bits_13_12_lt (c : Word) : bits c 13 12 < 4 := (c.extractLsb' 12 2).isLt

/-- The range check of R372. -/
theorem State.depBad_iff (u : State) (c : Word) : u.depBad (whoDie u.cur) c = true ↔
    bits c 63 14 ≠ 0 ∨ u.live (Fin.ofNat 4 (bits c 13 12)) = false ∨
      (bits c 13 12 ≠ (whoDie u.cur).val ∧ (u.dc (Fin.ofNat 4 (bits c 13 12)) (bits c 11 0)).scope = false) := by
  have hd : Fin.ofNat 4 (bits c 13 12) ≠ whoDie u.cur ↔ bits c 13 12 ≠ (whoDie u.cur).val := by
    rw [ne_eq, Fin.ext_iff, Fin.val_ofNat, Nat.mod_eq_of_lt (bits_13_12_lt c)]
  unfold State.depBad
  simp only [Bool.or_eq_true, Bool.and_eq_true, bne_iff_ne, Bool.not_eq_true', hd, or_assoc]

theorem State.depBad_false {u : State} {c : Word} (h : ¬(bits c 63 14 ≠ 0 ∨ u.live (Fin.ofNat 4 (bits c 13 12)) = false ∨
      (bits c 13 12 ≠ (whoDie u.cur).val ∧ (u.dc (Fin.ofNat 4 (bits c 13 12)) (bits c 11 0)).scope = false))) :
    ¬u.depBad (whoDie u.cur) c = true := fun hb => h (u.depBad_iff c |>.mp hb)

/-- Settles O28: each clause is the branch of its word's body that its conditions lead to, R372's range check first. -/
theorem counterWordsComplete : Obligations.CounterWordsComplete := by
  unfold Obligations.CounterWordsComplete
  refine ⟨?dec, ?set, ?read, ?decBad, ?decWide, ?setBad, ?readBad⟩
  case dec =>
    rintro h g ctr amt s ho ⟨hc, ha⟩
    show execDepdec _ _ _ _ _ = _
    refine runGuarded_starts ho rfl ?_
    exact (if_neg (State.depBad_false hc)).trans (if_neg (not_not_intro ha))
  case set =>
    rintro h g ctr val lrec s ho ⟨hc, hm, h3, hl⟩
    show execDepset _ _ _ _ _ _ = _
    refine runGuarded_sent ho rfl ?_
    refine (if_neg (State.depBad_false hc)).trans ((if_neg (not_or.mpr ⟨not_not_intro hm, h3⟩)).trans (if_neg ?_))
    rintro ⟨h1, hb⟩
    obtain ⟨h64, hf⟩ := hl h1
    cases hcur : (s.opened h).cur with
    | eng d c k e =>
      simp only [hcur, h64, bne_self_eq_false, Bool.false_eq_true] at hb
    | sys d =>
      simp only [hcur, h64, bne_self_eq_false, Bool.false_or, Option.isNone_iff_eq_none] at hb
      have := hf d hcur
      rw [hb] at this
      cases this
  case read =>
    intro h g d ctr s ho hc
    show execDepread _ _ _ _ _ = _
    refine runGuarded_lands ho ?_
    simp only [← dcWord_eq]
    exact if_neg (State.depBad_false hc)
  case decBad =>
    intro h g ctr amt s ho hc
    show execDepdec _ _ _ _ _ = _
    exact runGuarded_error ho (if_pos ((State.depBad_iff _ _).mpr hc))
  case decWide =>
    rintro h g ctr amt s ho ⟨hc, ha⟩
    show execDepdec _ _ _ _ _ = _
    exact runGuarded_error ho ((if_neg (State.depBad_false hc)).trans (if_pos ha))
  case setBad =>
    intro h g ctr val lrec s ho hc
    show execDepset _ _ _ _ _ _ = _
    exact runGuarded_error ho (if_pos ((State.depBad_iff _ _).mpr hc))
  case readBad =>
    intro h g d ctr s ho hc
    show execDepread _ _ _ _ _ = _
    exact runGuarded_error ho (if_pos ((State.depBad_iff _ _).mpr hc))

/-! ## LAUNCH and ABORT -/

/-- The image LAUNCH reads its record from: its job's scratchpad, or memory for the system core (R343). -/
def State.launchImage (u : State) (a : Nat) : List (Byte × Bool) :=
  match u.cur with
  | .eng .. => u.jb.spRead a 64
  | .sys d => (u.sysGet d a 64).1.map fun b => (b, (u.sysGet d a 64).2)

/-- Is the record one of another address space than the job's (R344)? -/
def State.otherAsn (u : State) (x : LaunchRec) : Bool :=
  match u.cur with
  | .eng .. => x.asn != u.jb.asn
  | .sys _ => false

theorem State.otherAsn_iff (u : State) (x : LaunchRec) : u.otherAsn x = true ↔ ∃ e c k y, u.cur = .eng e c k y ∧ x.asn ≠ u.jb.asn := by
  unfold State.otherAsn
  cases hc : u.cur with
  | eng e c k y => simp
  | sys d => simp

/-- What LAUNCH's body comes to at a place it accepts. -/
theorem launchBody_eq {h : Hdr} {g : Guard} {r : BitVec 5} {lq : BitVec 4} {d : BitVec 5} {s : State} (ho : s.opens (.launch h g r lq d) h g)
    (hr : launchRoom r (Fin.ofNat 16 lq.toNat) s = true) (hn : s.readsNow h = true)
    (hp : (s.opened h).launchPlaceBad ((s.opened h).readX 0 r).toNat = false) :
    let u := s.opened h
    let a := u.readX 0 r
    let q : Fin 16 := Fin.ofNat 16 lq.toNat
    let l := u.launchImage a.toNat
    let x := launchOf (l.map (·.1))
    exec (.launch h g r lq d) s =
      if (l.any (·.2) || launchBad (l.map (·.1)) || u.otherAsn x) = true then .next (s.stopIssue { cause := .launchRec, info0 := a })
      else if (!((List.finRange 4).any fun i => x.dies.getLsbD i.val && u.live i)) = true then .next (u.sends h 4 [.x d 1])
      else if (!(u.lq (whoDie u.cur) q).enable) = true then .next (u.sends h 4 [.x d 2])
      else .next ((u.updLq (whoDie u.cur) q fun y =>
        y.enter { x with cov := (u.covers u.cur u.str.nextId).map fun i => (u.recOf u.cur, i) } u.time (launchRank u.cur)).sends h 4 [.x d 0]) := by
  have hready : (launchRoom r (Fin.ofNat 16 lq.toNat) s && s.readsNow h) = true := by rw [hr, hn]; rfl
  dsimp only
  show execLaunch _ _ _ _ _ _ = _
  unfold execLaunch
  dsimp only
  have hp' : ¬(s.opened h).launchPlaceBad ((s.opened h).readX 0 r).toNat = true := by rw [hp]; decide
  split
  next hb => exact runGuarded_ready_error ho hready ((if_neg hp').trans (if_pos hb))
  next hb =>
    split
    next hl =>
      refine runGuarded_ready_lands ho hready ?_
      exact (if_neg hp').trans ((if_neg hb).trans (if_pos hl))
    next hl =>
      split
      next he =>
        refine runGuarded_ready_lands ho hready ?_
        exact (if_neg hp').trans ((if_neg hb).trans ((if_neg hl).trans (if_pos he)))
      next he =>
        refine runGuarded_ready_lands ho hready ?_
        exact (if_neg hp').trans ((if_neg hb).trans ((if_neg hl).trans (if_neg he)))

/-- Settles O29: LAUNCH's outcomes in the order of its checks; ABORT is its body. -/
theorem launchAndAbortWordsComplete : Obligations.LaunchAndAbortWordsComplete := by
  unfold Obligations.LaunchAndAbortWordsComplete
  refine ⟨?launch, ?abort⟩
  case launch =>
    intro h g r lq d s ho hr hn
    dsimp only
    intro hp
    have hx := launchBody_eq ho hr hn hp
    dsimp only at hx
    generalize hu : s.opened h = u at hx ⊢
    have hbad (l : List (Byte × Bool)) : (l.any (·.2) || launchBad (l.map (·.1)) || u.otherAsn (launchOf (l.map (·.1)))) = true ↔
        (l.any (·.2) = true ∨ launchBad (l.map (·.1)) = true ∨ ∃ e c k y, u.cur = .eng e c k y ∧ (launchOf (l.map (·.1))).asn ≠ u.jb.asn) := by
      rw [Bool.or_eq_true, Bool.or_eq_true, or_assoc, State.otherAsn_iff]
    have hlive (x : LaunchRec) : (!((List.finRange 4).any fun i => x.dies.getLsbD i.val && u.live i)) = true ↔
        ¬∃ i : DieId, x.dies.getLsbD i.val = true ∧ u.live i = true := by
      simp
    refine ⟨fun hb => hx.trans ?_, fun hb hd => hx.trans ?_, fun hb hd he => hx.trans ?_, fun hb hd he => hx.trans ?_⟩
    · exact if_pos ((hbad _).mpr hb)
    · exact (if_neg (mt (hbad _).mp hb)).trans (if_pos ((hlive _).mpr hd))
    · exact (if_neg (mt (hbad _).mp hb)).trans ((if_neg fun hc => (hlive _).mp hc hd).trans (if_pos (by rw [he]; rfl)))
    · exact (if_neg (mt (hbad _).mp hb)).trans ((if_neg fun hc => (hlive _).mp hc hd).trans (if_neg (by rw [he]; decide)))
  case abort =>
    intro h g code s ho _
    show execAbort _ _ _ _ = _
    exact runGuarded_ok ho rfl

/-! ## SYSRD, SYSWR and TLBINV -/

theorem State.sysStop_align {u : State} {a : Word} {v : Option Word} (ha : a.toNat % 8 ≠ 0) : u.sysStop a v = some { cause := .align, info0 := a } :=
  if_pos ha

theorem State.sysStop_badTarget {u : State} {a : Word} {v : Option Word} (ha : a.toNat % 8 = 0) (hm : sysMapped (whoDie u.cur) a.toNat = false) :
    u.sysStop a v = some { cause := .badTarget, info0 := a } :=
  (if_neg (not_not_intro ha)).trans (if_pos (by rw [hm]; rfl))

theorem State.sysStop_mapped {u : State} {a : Word} (v : Option Word) (ha : a.toNat % 8 = 0) (hm : sysMapped (whoDie u.cur) a.toNat = true) :
    u.sysStop a v = match v with
      | none => none
      | some v => match u.sysWrite (whoDie u.cur) a.toNat v with
        | .locked => some { cause := .locked }
        | _ => none :=
  (if_neg (not_not_intro ha)).trans (if_neg (by rw [hm]; decide))

/-- Settles O30: the checks of R213 in their order. -/
theorem systemAccessWordsComplete : Obligations.SystemAccessWordsComplete := by
  unfold Obligations.SystemAccessWordsComplete
  refine ⟨?read, ?write, ?readAlign, ?writeAlign, ?readTarget, ?locked, ?tlbinv⟩
  case read =>
    rintro h g d addr s ho ⟨ha, hm⟩
    show execSysrd _ _ _ _ _ = _
    refine runGuarded_ok ho ?_
    simp only [State.sysStop_mapped none ha hm]
  case write =>
    rintro h g val addr s ho ⟨ha, hm, hl⟩
    show execSyswr _ _ _ _ _ = _
    refine runGuarded_ok ho ?_
    simp only [State.sysStop_mapped (some _) ha hm]
  case readAlign =>
    intro h g d addr s ho ha
    show execSysrd _ _ _ _ _ = _
    refine runGuarded_error ho ?_
    simp only [State.sysStop_align ha]
  case writeAlign =>
    intro h g val addr s ho ha
    show execSyswr _ _ _ _ _ = _
    refine runGuarded_error ho ?_
    simp only [State.sysStop_align ha]
  case readTarget =>
    rintro h g d addr s ho ⟨ha, hm⟩
    show execSysrd _ _ _ _ _ = _
    refine runGuarded_error ho ?_
    simp only [State.sysStop_badTarget ha hm]
  case locked =>
    rintro h g val addr s ho ⟨ha, hm, hl⟩
    show execSyswr _ _ _ _ _ = _
    refine runGuarded_error ho ?_
    simp only [State.sysStop_mapped (some _) ha hm, hl]
  case tlbinv =>
    intro h g cb rng scope s ho _
    show execTlbinv _ _ _ _ _ _ = _
    exact runGuarded_starts ho rfl rfl

/-! ## RESUME, KILL and SUSPEND -/

/-- An action on a job by handle moves no clock. -/
def keepsNow (act : State → DieId → Nat → State) : Prop := ∀ s d r, (act s d r).now = s.now

theorem askResume_keepsNow : keepsNow State.askResume := fun s d r => State.updJob_timeOf s d r _ _

theorem askKill_keepsNow : keepsNow State.askKill := by
  intro s d r
  unfold State.askKill
  split
  · rfl
  · exact State.updJob_timeOf s d r _ _

theorem askSuspend_keepsNow : keepsNow State.askSuspend := by
  intro s d r
  unfold State.askSuspend
  split
  · rfl
  · exact State.updJob_timeOf s d r _ _

/-- A handle of another generation names nothing. -/
theorem State.byHandle_stale {u : State} {d : DieId} {h : Word} {y : Rec} (hy : (u.die d).recs[bits h 6 0]? = some y)
    (hg : y.gen ≠ h.extractLsb' 8 24) : u.byHandle d h = none := by
  unfold State.byHandle
  simp only [hy, if_neg hg]

theorem State.byHandle_named {u : State} {d : DieId} {h : Word} {y : Rec} (hy : (u.die d).recs[bits h 6 0]? = some y)
    (hg : y.gen = h.extractLsb' 8 24) : u.byHandle d h = some (bits h 6 0, y.job) := by
  unfold State.byHandle
  simp only [hy, if_pos hg]

/-- A request by handle: its outcome by the record its handle names (R207, R214). -/
theorem requestWord_outcome {i : Instr} {h : Hdr} {g : Guard} {hreg : BitVec 5} {okJob : Job → Bool} {act : State → DieId → Nat → State} {s : State}
    {y : Rec} (hk : keepsNow act) (ho : s.opens i h g)
    (hy : ((s.opened h).die (whoDie (s.opened h).cur)).recs[bits ((s.opened h).readX 0 hreg) 6 0]? = some y)
    (he : extraPop i = none := by rfl) (hx : exec i s = runGuarded i h g always (requestBody h hreg okJob act) s := by rfl) :
    let u := s.opened h
    let hd := u.readX 0 hreg
    let done (t : State) (v : Word) : Host.Outcome State Fault Refusal := .next (t.sends h 4 [.csr 0x10C v])
    (y.gen ≠ hd.extractLsb' 8 24 → exec i s = done u 1) ∧
    (y.gen = hd.extractLsb' 8 24 → y.job = none → exec i s = done u 2) ∧
    (∀ j, y.gen = hd.extractLsb' 8 24 → y.job = some j →
      exec i s = if j.requested then done u 3 else if okJob j then done (act u (whoDie u.cur) (bits hd 6 0)) 0 else done u 2) := by
  dsimp only
  rw [hx]
  refine ⟨fun hg => ?_, fun hg hj => ?_, fun j hg hj => ?_⟩
  · refine runGuarded_lands ho ?_ he
    unfold requestBody
    simp only [State.byHandle_stale hy hg]
    rfl
  · refine runGuarded_lands ho ?_ he
    unfold requestBody
    simp only [State.byHandle_named hy hg, hj]
    rfl
  · have hb := State.byHandle_named hy hg
    rw [hj] at hb
    cases hr : j.requested with
    | true =>
      refine runGuarded_lands ho ?_ he
      unfold requestBody
      simp only [hb, hr, if_true]
      rfl
    | false =>
      cases hok : okJob j with
      | true =>
        refine runGuarded_lands ho ?_ he
        unfold requestBody results
        simp only [hb, hr, hok, if_true, hk _ _ _, Bool.false_eq_true, if_false]
      | false =>
        refine runGuarded_lands ho ?_ he
        unfold requestBody
        simp only [hb, hr, hok, Bool.false_eq_true, if_false]
        rfl

/-- Settles O31: the three words run one body, each with its own condition and action. -/
theorem requestWordsComplete : Obligations.RequestWordsComplete := by
  unfold Obligations.RequestWordsComplete
  intro p hp h g hreg s ho
  dsimp only
  intro y hy
  simp only [List.mem_cons, List.not_mem_nil, or_false] at hp
  rcases hp with rfl | rfl | rfl
  · exact requestWord_outcome askResume_keepsNow ho hy
  · exact requestWord_outcome askKill_keepsNow ho hy
  · exact requestWord_outcome askSuspend_keepsNow ho hy

/-! ## SEGSET, MIGRATE, FRAME and ROUTEW -/

/-- A frame's die is named by two bits. -/
theorem frameDie_val (f : Word) : (Fin.ofNat 4 (bits f 51 50)).val = bits f 51 50 :=
  Nat.mod_eq_of_lt (f.extractLsb' 50 2).isLt

/-- FRAME's refusals of its segment are those of one that is not an unbacked buffer's with tables and the page in it. -/
theorem frameSeg_iff {b : BitVec 12} {l k n : Nat} {r : Bool} :
    (b = 0 ∨ b = 4095 ∨ l = 0 ∨ k ≠ 3 ∨ l < n ∨ r = false) ↔ ¬(b ≠ 0 ∧ b ≠ 4095 ∧ l ≠ 0 ∧ k = 3 ∧ n ≤ l ∧ r = true) := by
  simp only [Classical.not_and_iff_not_or_not, Classical.not_not, Nat.not_le, Bool.not_eq_true]

/-- The reserved bits of a route or key entry, as the statement writes them. -/
theorem not_routeMask (keys : Bool) : ~~~routeMask keys = if keys then 0x7FFFFFFFFFFF0000#64 else 0x7FFFFFFFFFF00000#64 := by
  cases keys <;> rfl

theorem zx64_ofBool (b : Bool) : zx64 (BitVec.ofBool b) = if b then 1 else 0 := by
  cases b <;> rfl

/-- Settles O32: the checks of each word in their order. -/
theorem tableWordsComplete : Obligations.TableWordsComplete := by
  unfold Obligations.TableWordsComplete
  refine ⟨?segset, ?segBad, ?migrate, ?frame, ?routew⟩
  case segset =>
    intro h g cb r s ho hb
    show execSegset _ _ _ _ _ = _
    refine runGuarded_ok ho ?_
    exact if_neg (by rw [hb]; decide)
  case segBad =>
    intro h g cb r s ho hb
    show execSegset _ _ _ _ _ = _
    exact runGuarded_error ho (if_pos hb)
  case migrate =>
    intro h g b die s ho
    dsimp only
    refine ⟨fun hb => ?_, fun hb hl => ?_, fun hb hl hh => ?_, fun hb hl hh hk hs => ?_, fun hb hl hh hs => ?_⟩ <;>
      show execMigrate _ _ _ _ _ = _
    · exact runGuarded_error ho (if_pos hb)
    · exact runGuarded_error ho ((if_neg hb).trans (if_pos (by rw [hl]; rfl)))
    · refine runGuarded_lands ho ?_
      exact (if_neg hb).trans ((if_neg (by rw [hl]; decide)).trans (if_pos hh))
    · exact runGuarded_error ho ((if_neg hb).trans ((if_neg (by rw [hl]; decide)).trans ((if_neg hh).trans (if_pos ⟨hk, hs⟩))))
    · refine runGuarded_ok ho ?_
      refine (if_neg hb).trans ((if_neg (by rw [hl]; decide)).trans ((if_neg hh).trans (if_neg ?_)))
      rintro ⟨hk, hn⟩
      exact hs.elim (fun h => h hk) fun h => hn h
  case frame =>
    intro h g va fs s ho
    dsimp only
    rw [← frameDie_val]
    refine ⟨fun hs => ?_, fun hs ha => ?_, fun hs ha hp => ?_, fun p hs ha hp => ?_⟩ <;> show execFrame _ _ _ _ _ = _
    · exact runGuarded_error ho (if_pos (frameSeg_iff.mpr hs))
    · exact runGuarded_error ho ((if_neg (not_not_intro hs ∘ frameSeg_iff.mp)).trans (if_pos (Classical.not_and_iff_not_or_not.mp ha)))
    · refine runGuarded_error ho ((if_neg (not_not_intro hs ∘ frameSeg_iff.mp)).trans ((if_neg (not_not_intro ha ∘ Classical.not_and_iff_not_or_not.mpr)).trans ?_))
      simp only [hp]
      rfl
    · split
      next ht =>
        refine runGuarded_error ho ((if_neg (not_not_intro hs ∘ frameSeg_iff.mp)).trans ((if_neg (not_not_intro ha ∘ Classical.not_and_iff_not_or_not.mpr)).trans ?_))
        simp only [hp]
        exact if_pos ht
      next ht =>
        refine runGuarded_starts ho rfl ((if_neg (not_not_intro hs ∘ frameSeg_iff.mp)).trans ((if_neg (not_not_intro ha ∘ Classical.not_and_iff_not_or_not.mpr)).trans ?_))
        simp only [hp]
        exact if_neg ht
  case routew =>
    intro h g idx r s ho
    dsimp only
    rw [← not_routeMask, ← zx64_ofBool]
    refine ⟨fun hl => ?_, fun hl hi => ?_, fun hl hi hc => ?_, fun hl hi hc => ?_⟩ <;> show execRoutew _ _ _ _ _ = _
    · exact runGuarded_error ho (if_pos hl)
    · exact runGuarded_error ho ((if_neg (by rw [hl]; decide)).trans (if_pos hi))
    · exact runGuarded_error ho ((if_neg (by rw [hl]; decide)).trans ((if_neg (not_not_intro hi)).trans (if_pos hc)))
    · exact runGuarded_starts ho rfl ((if_neg (by rw [hl]; decide)).trans ((if_neg (not_not_intro hi)).trans (if_neg (not_not_intro hc))))

end Sys2Proof.Machine
end

section
/-! PROOFS. The machine as a whole: reset, the turns of its agenda, the words of the specification. -/

-- In order, so that the one-text compile stays within memory.
set_option Elab.async false

namespace Sys2Proof.Machine
open Sys2Proof

/-! ## Reset -/

theorem State.reset_die (d : DieId) : State.reset.die d = { sys := { stream := freshStream } } := by
  unfold State.die State.reset
  exact Vector.getElem_replicate ..

theorem State.reset_dc (d : DieId) (n : Nat) : State.reset.dc d n = {} := by
  unfold State.dc
  rw [State.reset_die]
  rfl

/-- Settles O47: every die's record at reset has its fields' initial values. -/
theorem resetValues : Obligations.ResetValues := by
  refine ⟨rfl, rfl, fun d => ?_⟩
  rw [State.reset_die]
  refine ⟨rfl, rfl, rfl, rfl, rfl, rfl, rfl, rfl, rfl, rfl, rfl, rfl, rfl, rfl, rfl, rfl, rfl, rfl, rfl, rfl, rfl, rfl, rfl, ?lqs, ?dcs, ?mons, ?groves,
    ?x, ?p, ?b, rfl, rfl, rfl, rfl, rfl, rfl⟩
  case lqs => intro q; simp
  case dcs => intro n; rw [State.reset_dc]; exact ⟨rfl, rfl⟩
  case mons => intro n; simp
  case groves => intro g; simp
  case x => decide
  case p => decide
  case b => decide

/-! ## Decoding -/

/-- Settles O52: each decodes by evaluation. -/
theorem decodeFewWords : Obligations.DecodeFewWords := by
  refine ⟨rfl, rfl, rfl, rfl, rfl, rfl, rfl, rfl, rfl, rfl⟩

/-! ## Turns -/

theorem step_turn {s : State} {t : Turn} {rest : List Turn} (h : s.agenda = t :: rest) :
    step s = keepClock s.clock t.timed (State.runTurn { s with agenda := rest } t) := by
  unfold step
  rw [h]

/-! ## A stream's turn -/

theorem State.attempt_decoded {s : State} {w : Word} {i : Instr} (hf : s.fetch = some w) (hd : decode w s.cur.issuer = .ok i) :
    s.attempt = exec i s := by
  unfold State.attempt
  simp only [hf, hd]

/-- What one engine's turn leaves of its arbitration, by the slot it picks and which slots were eligible (R35). -/
def Arb.turned (b : Arb) (now : Nat) (pick : Option SlotId) (el0 el1 sw : Bool) (wait : Vector Nat 2) : Arb :=
  { b with
    seen := some now
    wait := #v[(if pick = some 0 then 0 else if el0 then wait[(0 : SlotId)] + 1 else 0),
      (if pick = some 1 then 0 else if el1 then wait[(1 : SlotId)] + 1 else 0)]
    cur := match pick with
      | some k => if sw then 1 - k else b.cur
      | none => b.cur }

/-- A state with what the engine's turn leaves of its arbitration. -/
def State.turned (s : State) (d : DieId) (c : CoreId) (e : Engine) (now : Nat) (pick : Option SlotId) (el0 el1 sw : Bool) (wait : Vector Nat 2) : State :=
  s.updCore d c fun y => { y with arbs := updAt y.arbs e.idx.val fun b => b.turned now pick el0 el1 sw wait }

/-- An engine's turn in which one of its slots issues. -/
theorem State.engineTurn_picks {s : State} {d : DieId} {c : CoreId} {e : Engine} {k : SlotId} {t0 t1 : Option (Host.Outcome State Fault Refusal)} {x : State}
    {w : Word} (hl : s.live d = true) (hn : ((s.core d c).arbs[e.idx]).seen ≠ some (s.grove d (groveOf c)).cyc) (h0 : s.slotTry d c e 0 = t0)
    (h1 : s.slotTry d c e 1 = t1)
    (hp : pickSlot t0.isSome t1.isSome ((s.core d c).arbs[e.idx]).cur (((s.core d c).arbs[e.idx]).wait[1 - ((s.core d c).arbs[e.idx]).cur]) = some k)
    (hx : (if k = 0 then t0 else t1) = some (.next x)) (hf : State.fetch { s with cur := .eng d c k e } = some w) :
    s.engineTurn d c e = .next ((if e = .a then ((State.countWait { s with cur := .eng d c k e } x).slotCounts d c k true).slotCounts d c (1 - k)
        (if 1 - k = 0 then t0 else t1).isSome else x).turned d c e (s.grove d (groveOf c)).cyc (some k) t0.isSome t1.isSome
        (w.getLsbD 53 && (if k = 0 then t1.isSome else t0.isSome)) ((s.core d c).arbs[e.idx]).wait) := by
  have hseen : (!s.live d || ((s.core d c).arbs[e.idx]).seen == some (s.grove d (groveOf c)).cyc) = false := by
    rw [hl, beq_eq_false_iff_ne.mpr hn]; rfl
  unfold State.engineTurn
  simp only [hseen, h0, h1, hp, hx, hf, Bool.false_eq_true, if_false]
  split
  next he => subst he; rfl
  next => rfl

/-- An engine's turn in which no slot is eligible. -/
theorem State.engineTurn_idle {s : State} {d : DieId} {c : CoreId} {e : Engine} (hl : s.live d = true)
    (hn : ((s.core d c).arbs[e.idx]).seen ≠ some (s.grove d (groveOf c)).cyc) (h0 : s.slotTry d c e 0 = none) (h1 : s.slotTry d c e 1 = none) :
    s.engineTurn d c e = .next ((if e = .a then (s.slotCounts d c 0 false).slotCounts d c 1 false else s).turned d c e (s.grove d (groveOf c)).cyc none false false false ((s.core d c).arbs[e.idx]).wait) := by
  have hseen : (!s.live d || ((s.core d c).arbs[e.idx]).seen == some (s.grove d (groveOf c)).cyc) = false := by
    rw [hl, beq_eq_false_iff_ne.mpr hn]; rfl
  have hp (cur : SlotId) (n : Nat) : pickSlot false false cur n = none := by
    unfold pickSlot
    revert cur; simp
  unfold State.engineTurn
  simp only [hseen, h0, h1, Option.isSome_none, hp, Bool.false_eq_true, if_false]
  split
  next he => subst he; rfl
  next => rfl

theorem State.slotTry_empty {s : State} {d : DieId} {c : CoreId} {e : Engine} {k : SlotId} (h : s.slotRec? d c k = none) :
    s.slotTry d c e k = none := by
  have h' : State.slotRec? { s with cur := .eng d c k e } d c k = none := h
  unfold State.slotTry
  simp only [h']

/-- A slot tries its next word: it is eligible where that draws a free value's number. -/
theorem State.slotTry_word {s : State} {d : DieId} {c : CoreId} {e : Engine} {k : SlotId} {x : State} (h : (s.slotRec? d c k).isSome = true)
    (hd : e = .t → State.deliverNext { s with cur := .eng d c k e } d c k = none) (hx : State.attempt { s with cur := .eng d c k e } = .next x) :
    s.slotTry d c e k = if x.free ≠ s.free then some (.next x) else none := by
  obtain ⟨r, hr⟩ := Option.isSome_iff_exists.mp h
  have hr' : State.slotRec? { s with cur := .eng d c k e } d c k = some r := hr
  have hn : (if e = .t then State.deliverNext { s with cur := .eng d c k e } d c k else none) = none := by
    split
    next he => exact hd he
    · rfl
  unfold State.slotTry
  simp only [hr', hn, hx, issued, bne_iff_ne]

theorem slotId_cases (k : SlotId) : k = 0 ∨ k = 1 := by
  revert k; decide

/-- The slot that alone is eligible is picked. -/
theorem pickSlot_alone (k cur : SlotId) (n : Nat) : pickSlot (decide (k = 0)) (decide (k = 1)) cur n = some k := by
  unfold pickSlot
  rcases slotId_cases k with rfl | rfl <;> rcases slotId_cases cur with rfl | rfl <;> simp

/-- An engine's turn in which one slot alone is eligible. -/
theorem State.engineTurn_alone {s : State} {d : DieId} {c : CoreId} {e : Engine} {k : SlotId} {x : State} {w : Word} (hl : s.live d = true)
    (hn : ((s.core d c).arbs[e.idx]).seen ≠ some (s.grove d (groveOf c)).cyc) (hk : s.slotTry d c e k = some (.next x))
    (ho : s.slotTry d c e (1 - k) = none) (hf : State.fetch { s with cur := .eng d c k e } = some w) :
    s.engineTurn d c e = .next ((if e = .a then ((State.countWait { s with cur := .eng d c k e } x).slotCounts d c k true).slotCounts d c (1 - k) false
        else x).updCore d c fun y => { y with arbs := updAt y.arbs e.idx.val fun b => { b with seen := some (s.grove d (groveOf c)).cyc, wait := #v[0, 0] } }) := by
  rcases slotId_cases k with rfl | rfl
  · rw [State.engineTurn_picks hl hn hk ho (pickSlot_alone 0 ..) rfl hf]
    simp only [State.turned, Arb.turned, Option.isSome_none, Option.isSome_some, Bool.and_false, if_true, Bool.false_eq_true, if_false]
    rfl
  · have h10 : ((1 : SlotId) = 0) = False := eq_false (by decide)
    have h11 : (1 - 1 : SlotId) = 0 := rfl
    rw [State.engineTurn_picks hl hn ho hk (pickSlot_alone 1 ..) rfl hf]
    simp only [State.turned, Arb.turned, Option.isSome_none, Option.isSome_some, h10, h11, Option.some.injEq, Bool.and_false, if_true,
      Bool.false_eq_true, if_false]

/-- The stop of a word that is no instruction is taken once its stream is free for it. -/
theorem State.stopFetched_taken {s : State} {st : Stop} (ho : s.streamOpen = true) (he : s.engineFree = true) (hg : s.gatesOpen = true)
    (hi : (match s.fetch with
      | some w => decide (s.str.last + 1 + (bits w 63 54 : Int) ≤ (s.now : Int))
      | none => decide (s.str.last + 1 ≤ (s.now : Int))) = true) : s.stopFetched st = .next (s.stopIssue st) := by
  unfold State.stopFetched
  rw [ho, he, hg]
  exact if_pos hi

/-- Settles O48: a turn fetches, decodes and runs; a word that is refused, or no word, stops the stream once it is free for it. -/
theorem stepRunsWord : Obligations.StepRunsWord := by
  unfold Obligations.StepRunsWord
  refine ⟨fun s w i hf hd => State.attempt_decoded hf hd, ?refused, ?beyond, ?sys, ?engine⟩
  case refused =>
    intro s w x hf hd ho he hg hi
    unfold State.attempt
    simp only [hf, hd]
    refine State.stopFetched_taken ho he hg ?_
    rw [hf]
    exact decide_eq_true hi
  case beyond =>
    intro s hf ho he hg hi
    unfold State.attempt
    simp only [hf]
    refine State.stopFetched_taken ho he hg ?_
    rw [hf]
    exact decide_eq_true hi
  case sys =>
    intro s d rest w i ha hl hs hh hz
    dsimp only
    intro hf hd
    rw [step_turn ha]
    have hlive : (!State.live { s with agenda := rest } d || !(State.sysc { s with agenda := rest } d).started ||
        (State.sysc { s with agenda := rest } d).halted || (State.sysc { s with agenda := rest } d).asleep) = false := by
      show (!s.live d || !(s.sysc d).started || (s.sysc d).halted || (s.sysc d).asleep) = false
      rw [hl, hs, hh, hz]; rfl
    have ht : State.sysTurn { s with agenda := rest } d = exec i { s with agenda := rest, cur := .sys d } := by
      unfold State.sysTurn
      rw [hlive]
      exact State.attempt_decoded hf hd
    exact congrArg (keepClock s.clock false) ht
  case engine =>
    intro s d c e k rest w i x ha hl
    dsimp only
    intro hn hr ho hd hf hw hx
    rw [step_turn ha]
    have hatt := (State.attempt_decoded hf hw).trans hx
    have hmine := State.slotTry_word (s := { s with agenda := rest }) hr hd hatt
    have hother : State.slotTry { s with agenda := rest } d c e (1 - k) = none := State.slotTry_empty ho
    refine ⟨fun hfree => ?_, fun hfree => ?_⟩
    · exact congrArg (keepClock s.clock false) (State.engineTurn_alone hl hn (hmine.trans (if_pos hfree)) hother hf)
    · have hnone := hmine.trans (if_neg (not_not_intro hfree))
      have h01 : State.slotTry { s with agenda := rest } d c e 0 = none ∧ State.slotTry { s with agenda := rest } d c e 1 = none := by
        rcases slotId_cases k with rfl | rfl
        · exact ⟨hnone, hother⟩
        · exact ⟨hother, hnone⟩
      exact congrArg (keepClock s.clock false) (State.engineTurn_idle hl hn h01.1 h01.2)

/-- The pick between two eligible slots (R35). -/
theorem pickSlot_both (cur : SlotId) (n : Nat) : pickSlot true true cur n = some (if 64 ≤ n then 1 - cur else cur) := by
  unfold pickSlot
  simp only [ite_self, Bool.true_and, decide_eq_true_eq, if_true]
  split <;> rfl

/-- Settles O49: the pick is R35's; what the turn leaves of the arbitration follows for either slot. -/
theorem slotsShareAnEngine : Obligations.SlotsShareAnEngine := by
  unfold Obligations.SlotsShareAnEngine
  intro s d c e rest x0 x1 w ha hl
  dsimp only
  intro hn h0 h1 hf
  rw [step_turn ha]
  refine congrArg (keepClock s.clock false) ?_
  show State.engineTurn { s with agenda := rest } d c e = _
  have hi (v : Vector Nat 2) (k : SlotId) : v[(1 - k : SlotId)] = v[1 - k.val] := by
    rcases slotId_cases k with rfl | rfl <;> rfl
  have hp := pickSlot_both ((s.core d c).arbs[e.idx]).cur (((s.core d c).arbs[e.idx]).wait[(1 - ((s.core d c).arbs[e.idx]).cur : SlotId)])
  simp only [← hi] at hf ⊢
  generalize hk : (if 64 ≤ ((s.core d c).arbs[e.idx]).wait[(1 - ((s.core d c).arbs[e.idx]).cur : SlotId)] then 1 - ((s.core d c).arbs[e.idx]).cur
    else ((s.core d c).arbs[e.idx]).cur) = k at hf hp ⊢
  have h10 : ((1 : SlotId) = 0) = False := eq_false (by decide)
  have h01 : ((0 : SlotId) = 1) = False := eq_false (by decide)
  have h11 : (1 - 1 : SlotId) = 0 := rfl
  rcases slotId_cases k with rfl | rfl
  · refine (State.engineTurn_picks (s := { s with agenda := rest }) hl hn h0 h1 hp rfl hf).trans ?_
    simp only [State.turned, Arb.turned, Option.isSome_some, h01, Option.some.injEq, Bool.and_true, if_true, ite_self, if_false]
    split
    next he => subst he; rfl
    next => rfl
  · refine (State.engineTurn_picks (s := { s with agenda := rest }) hl hn h0 h1 hp (if_neg (by decide)) hf).trans ?_
    simp only [State.turned, Arb.turned, Option.isSome_some, h10, h11, Option.some.injEq, Bool.and_true, if_true, ite_self, if_false]
    split
    next he => subst he; rfl
    next => rfl

/-! ## The other turns -/

theorem State.fetch_eng {s : State} {d : DieId} {c : CoreId} {k : SlotId} {e : Engine} {j : Job} {p : List Word} {w : Word} (hc : s.cur = .eng d c k e)
    (hj : s.slotJob? d c k = some j) (hp : j.kernel.progs[e.idx.val]?.getD [] = p) (hw : p[(j.streams[e.idx]).pc.toNat]? = some w) :
    s.fetch = some w := by
  have hstr : s.str = j.streams[e.idx] := by
    unfold State.str State.stream?
    rw [hc]
    simp only [hj, Option.map_some, Option.getD_some]
  have hprog : s.program = p := by
    unfold State.program State.jb State.jobOf?
    rw [hc]
    simp only [hj, Option.getD_some, hp]
  obtain ⟨hlt, -⟩ := List.getElem?_eq_some_iff.mp hw
  unfold State.fetch
  rw [hstr, hprog, if_pos hlt, hw]

theorem State.fetch_sys {s : State} {d : DieId} {w : Word} (hc : s.cur = .sys d) (hs : (s.sysc d).started = true)
    (hw : (s.sysc d).prog[(s.sysc d).stream.pc.toNat]? = some w) : s.fetch = some w := by
  have hstr : s.str = (s.sysc d).stream := by
    unfold State.str State.stream?
    rw [hc]
    simp only [hs, if_true, Option.getD_some]
  have hprog : s.program = (s.sysc d).prog := by
    unfold State.program
    rw [hc]
  obtain ⟨hlt, -⟩ := List.getElem?_eq_some_iff.mp hw
  unfold State.fetch
  rw [hstr, hprog, if_pos hlt, hw]

theorem State.withFetchWord_eng {s : State} {nbits w : Nat} {e : Engine} (h : someIssuer (BitVec.ofNat 64 (w % 2 ^ min nbits 64)) = .eng e) :
    (s.withFetchWord nbits w).agenda = .engine 0 0 e :: s.agenda ∧
      State.fetch { s.withFetchWord nbits w with cur := .eng 0 0 0 e } = some (BitVec.ofNat 64 (w % 2 ^ min nbits 64)) := by
  unfold State.withFetchWord
  simp only [h]
  refine ⟨rfl, State.fetch_eng (j := ?_) (p := [BitVec.ofNat 64 (w % 2 ^ min nbits 64)]) rfl ?_ ?_ ?_⟩
  · exact { phase := .running, home := some (0, 0)
            kernel := { progs := (List.range 5).map fun k => if k = e.idx.val then [BitVec.ofNat 64 (w % 2 ^ min nbits 64)] else [0] }
            streams := Vector.replicate 5 (openStream (s.grove 0 0).cyc) }
  · simp [State.slotJob?, State.slotRec?, State.job?, State.core, State.updCore, State.updDie, State.die]
  · cases e <;> rfl
  · cases e <;> rfl

theorem State.withFetchWord_sys {s : State} {nbits w : Nat} (h : someIssuer (BitVec.ofNat 64 (w % 2 ^ min nbits 64)) = .sys) :
    (s.withFetchWord nbits w).agenda = .sysCore 0 :: s.agenda ∧
      State.fetch { s.withFetchWord nbits w with cur := .sys 0 } = some (BitVec.ofNat 64 (w % 2 ^ min nbits 64)) := by
  unfold State.withFetchWord
  simp only [h]
  have hs : State.sysc (s.updSys 0 fun x => { x with
      prog := [BitVec.ofNat 64 (w % 2 ^ min nbits 64)], started := true, halted := false, asleep := false, hold := none
      stream := openStream s.clock.tick }) 0 = { s.sysc 0 with
      prog := [BitVec.ofNat 64 (w % 2 ^ min nbits 64)], started := true, halted := false, asleep := false, hold := none
      stream := openStream s.clock.tick } := by
    unfold State.sysc State.updSys
    simp
  refine ⟨trivial, State.fetch_sys rfl ?_ ?_⟩
  · exact congrArg SysCore.started hs
  · exact (congrArg (fun x : SysCore => x.prog[x.stream.pc.toNat]?) hs).trans rfl

/-- Settles O50: the turn at the head of the agenda says what the step runs. -/
theorem stepRunsEvent : Obligations.StepRunsEvent := by
  unfold Obligations.StepRunsEvent
  refine ⟨?event, ?word, ?tick, ?round, fun s nbits w => ⟨fun e h => State.withFetchWord_eng h, State.withFetchWord_sys⟩⟩
  case event =>
    intro s i rest ha he
    rw [step_turn ha]
    have hw : ¬isWord i = true := by unfold isWord; rw [he]; decide
    exact congrArg (keepClock s.clock false) (if_neg hw)
  case word =>
    intro s i rest ha he
    rw [step_turn ha]
    exact congrArg (keepClock s.clock false) (if_pos he)
  case tick =>
    intro s rest ha
    exact ⟨_, (step_turn ha).trans (keepClock_timed _ _), rfl, rfl⟩
  case round =>
    intro s ha
    unfold step
    rw [ha]

end Sys2Proof.Machine
end

section
/-! PROOFS. Every word runs as runWord does: what a word does whose conditions are not met, or whose guard is false (R29, R78). -/

-- In order, so that the one-text compile stays within memory.
set_option Elab.async false

namespace Sys2Proof.Machine
open Sys2Proof

/-- How an instruction's meaning is made: a word with a guard by runGuarded, another word by runWord, a step by neither. -/
inductive WordShape (i : Instr) (f : State → Host.Outcome State Fault Refusal) : Prop
  | guarded (h : Hdr) (g : Guard) (ready : State → Bool) (body : Body) (hh : hdr? i = some h) (hg : guard? i = some g) (he : extraPop i = none)
      (hr : ∀ s, s.guard g = false → ready s = true) (hb : ∀ s, s.guard g = false → body s = asNop h s) (hf : ∀ s, f s = runWord i h ready body s)
  | plain (h : Hdr) (ready : State → Bool) (body : Body) (hh : hdr? i = some h) (hg : guard? i = none ∨ movesRows i = true)
      (hf : ∀ s, f s = runWord i h ready body s)
  | step (hh : hdr? i = none)

theorem WordShape.of_guarded {i : Instr} {h : Hdr} {g : Guard} {ready : State → Bool} {body : Body} (hh : hdr? i = some h := by rfl)
    (hg : guard? i = some g := by rfl) (he : extraPop i = none := by rfl) : WordShape i (runGuarded i h g ready body) :=
  .guarded h g _ _ hh hg he (fun s hs => by simp [hs]) (fun s hs => by simp [hs]) fun _ => rfl

/-- A branch with a false guard does nothing but move its tokens. -/
theorem WordShape.of_branch {i : Instr} {h : Hdr} {g : Guard} {b : BitVec 2} {link : Bool} (hh : hdr? i = some h := by rfl)
    (hg : guard? i = some g := by rfl) (he : extraPop i = none := by rfl) : WordShape i (runWord i h always (branch h g b link)) :=
  .guarded h g _ _ hh hg he (fun _ _ => rfl) (fun s hs => by unfold branch; simp [hs]) fun _ => rfl

theorem WordShape.of_plain {i : Instr} {h : Hdr} {ready : State → Bool} {body : Body} (hg : guard? i = none ∨ movesRows i = true)
    (hh : hdr? i = some h := by rfl) : WordShape i (runWord i h ready body) :=
  .plain h ready body hh hg fun _ => rfl

/-- Every instruction's meaning has one of the three shapes. -/
theorem exec_shape (i : Instr) : WordShape i (exec i) := by
  cases i
  case
    lbrk | hold | trap | mark | qpop | qpush | tsread | csrr | csrw | csrx | add | sub | mul | mulh | mulhu | div | divu | rem | remu | and | or
    | xor | shl | shr | sar | min | minu | max | maxu | sel | clz | ctz | popc | addi | andi | ori | xori | shli | shri | sari | muli | ceq | cne
    | clt | cltu | cle | cleu | ceqi | cnei | clti | cgei | pand | por | pxor | pandn | pset | pget | fadd | fsub | fmul | ffma | fmin | fmax |
    fcvt | fceq | fclt | fcle | ldq | ldsq | stq | stsq | ldx | stx | gather | scatter | scadd | aadd | amin | amax | aand | aor | axor | axchg |
    acas | afadd | rprobe | lock | unlock | rwb | rinv | ubdisc | pref | msend | tdef | xcopy | xset | xchain | xstat | xcancel | xfill | tqin |
    tqout | pgmrow | pgmtile | pgmstat | pgmret | mopen | mma | tstart | tend | mrd | mcvt | mchk | seedscan | seedfit | vcmp | vsel | vmov |
    vbcast | vcvt | vrnd | vperm | vrot | mand | mor | mnot | mseti | vget | vput | vsnap | cset | launch | depdec | depset | depread | abort |
    resume | kill | suspend | tlbinv | segset | frame | migrate | sysrd | syswr | routew | lockdown =>
    delta exec
    dsimp only
    delta
      execLbrk execHold execTrap execMark execQpop execQpush execTsread execCsrr execCsrw execCsrx execAdd execSub execMul execMulh execMulhu
      execDiv execDivu execRem execRemu execAnd execOr execXor execShl execShr execSar execMin execMinu execMax execMaxu execSel execClz execCtz
      execPopc execAddi execAndi execOri execXori execShli execShri execSari execMuli execCeq execCne execClt execCltu execCle execCleu execCeqi
      execCnei execClti execCgei execPand execPor execPxor execPandn execPset execPget execFadd execFsub execFmul execFfma execFmin execFmax
      execFcvt execFceq execFclt execFcle execLdq execLdsq execStq execStsq execLdx execStx execGather execScatter execScadd execAadd execAmin
      execAmax execAand execAor execAxor execAxchg execAcas execAfadd execRprobe execLock execUnlock execRwb execRinv execUbdisc execPref
      execMsend execTdef execXcopy execXset execXchain execXstat execXcancel execXfill execTqin execTqout execPgmrow execPgmtile execPgmstat
      execPgmret execMopen execMma execTstart execTend execMrd execMcvt execMchk execSeedscan execSeedfit execVcmp execVsel execVmov execVbcast
      execVcvt execVrnd execVperm execVrot execMand execMor execMnot execMseti execVget execVput execVsnap execCset execLaunch execDepdec
      execDepset execDepread execAbort execResume execKill execSuspend execTlbinv execSegset execFrame execMigrate execSysrd execSyswr execRoutew
      execLockdown
    exact .of_guarded
  case vadd | vsub | vmul | vfma | vmin | vmax | vand | vor | vxor | vshl | vshr | vsar | vabs | vneg =>
    delta exec
    dsimp only
    delta execVadd execVsub execVmul execVfma execVmin execVmax execVand execVor execVxor execVshl execVshr execVsar execVabs execVneg
    delta laneWord
    exact .of_guarded
  case vred | vscan =>
    delta exec
    dsimp only
    delta execVred execVscan
    delta redWord
    exact .of_guarded
  case vexp2 | vlog2 | vrcp | vrsq | vsqrt | vtanh | vsigm | verf | vsin | vcos =>
    delta exec
    dsimp only
    delta execVexp2 execVlog2 execVrcp execVrsq execVsqrt execVtanh execVsigm execVerf execVsin execVcos
    delta specialWord
    exact .of_guarded
  case br | brl =>
    delta exec
    dsimp only
    delta execBr execBrl
    exact .of_branch
  case nop | prep | prepr | loop | loopi | endw | tksend | tkwait | waitv | movi | movhi | acq | rel | phase | eret =>
    delta exec
    dsimp only
    delta execNop execPrep execPrepr execLoop execLoopi execEndw execTksend execTkwait execWaitv execMovi execMovhi execAcq execRel execPhase execEret
    exact .of_plain (.inl rfl)
  case vpop | vpush | chain =>
    delta exec
    dsimp only
    delta execVpop execVpush execChain
    exact .of_plain (.inr rfl)
  all_goals exact .step rfl

end Sys2Proof.Machine
end

section
/-! PROOFS. What a word's operands read (R33, R79, R105-R107, R171). -/

-- In order, so that the one-text compile stays within memory.
set_option Elab.async false

namespace Sys2Proof.Machine
open Sys2Proof

/-! ## Popping tokens changes what a stream has acquired, and no operand -/

/-- A stream but for what it has acquired. -/
def Stream.sansCov (st : Stream) : Stream := { st with cov := [] }

/-- A job but for its tokens and what its streams have acquired. -/
def Job.sansToks (j : Job) : Job := { j with tokens := Vector.replicate 25 [], streams := j.streams.map Stream.sansCov }

/-- What a word's operands are read from agrees in two states: the current stream, its cycle, the free values, its job but for tokens. -/
structure State.Sees (s t : State) : Prop where
  cur : t.cur = s.cur
  free : t.free = s.free
  now : t.now = s.now
  str : t.str.sansCov = s.str.sansCov
  jb : t.jb.sansToks = s.jb.sansToks

theorem State.Sees.rfl {s : State} : s.Sees s := ⟨Eq.refl _, Eq.refl _, Eq.refl _, Eq.refl _, Eq.refl _⟩

theorem State.Sees.trans {s t u : State} (h : s.Sees t) (k : t.Sees u) : s.Sees u :=
  ⟨k.cur.trans h.cur, k.free.trans h.free, k.now.trans h.now, k.str.trans h.str, k.jb.trans h.jb⟩

theorem Vector.map_set_getElem {α β : Type} {n : Nat} (v : Vector α n) (i : Nat) (hi : i < n) (f : α → β) (a : α) (h : f a = f v[i]) :
    (v.set i a hi).map f = v.map f := by
  ext k hk
  rw [Vector.getElem_map, Vector.getElem_map, Vector.getElem_set]
  split
  next hik => subst hik; exact h
  · rfl

/-- A change of what a stream has acquired. -/
theorem Job.sansToks_set (j : Job) (i : Fin 5) {f : Stream → Stream} (h : ∀ st, (f st).sansCov = st.sansCov) :
    ({ j with streams := j.streams.set i (f (j.streams[i])) } : Job).sansToks = j.sansToks := by
  unfold Job.sansToks
  simp only [Vector.map_set_getElem j.streams i.val i.isLt Stream.sansCov (f j.streams[i]) (h _)]

/-- An engine's current stream is its job's. -/
theorem State.str_eng {s : State} {d : DieId} {c : CoreId} {k : SlotId} {e : Engine} (h : s.cur = .eng d c k e) : s.str = s.jb.streams[e.idx] := by
  unfold State.str State.jb State.stream? State.jobOf?
  rw [h]
  dsimp only
  cases s.slotJob? d c k with
  | none => cases e <;> rfl
  | some j => rfl

theorem Job.sansToks_stream {j j' : Job} (h : j'.sansToks = j.sansToks) (i : Fin 5) : (j'.streams[i]).sansCov = (j.streams[i]).sansCov := by
  have hs : (j'.streams.map Stream.sansCov)[i] = (j.streams.map Stream.sansCov)[i] := congrArg (fun x : Job => x.streams[i]) h
  simpa using hs

/-- On an engine, states whose jobs agree agree on the current stream. -/
theorem State.Sees.of_jb {s t : State} {d : DieId} {c : CoreId} {k : SlotId} {e : Engine} (h : s.cur = .eng d c k e) (hc : t.cur = s.cur)
    (hf : t.free = s.free) (hn : t.now = s.now) (hj : t.jb.sansToks = s.jb.sansToks) : s.Sees t := by
  refine ⟨hc, hf, hn, ?_, hj⟩
  rw [State.str_eng h, State.str_eng (hc.trans h)]
  exact Job.sansToks_stream hj e.idx

/-- On an engine, a change of the current stream is one of its job. -/
theorem State.updStr_eq_updJb {s : State} {d : DieId} {c : CoreId} {k : SlotId} {e : Engine} (h : s.cur = .eng d c k e) (f : Stream → Stream) :
    s.updStr f = s.updJb fun j => { j with streams := j.streams.set e.idx (f (j.streams[e.idx])) } := by
  unfold State.updStr State.updJb State.updStream State.updJobOf
  rw [h]

theorem State.sees_updJb {s : State} {d : DieId} {c : CoreId} {k : SlotId} {e : Engine} (h : s.cur = .eng d c k e) {f : Job → Job}
    (hf : (f s.jb).sansToks = s.jb.sansToks) : s.Sees (s.updJb f) := by
  refine State.Sees.of_jb h (by unfold State.updJb; simp) (by unfold State.updJb; simp) (by simp) ?_
  rcases State.updJb_jb s f with hj | hj <;> rw [hj]
  exact hf

theorem State.sees_updStr_cov {s : State} {d : DieId} {c : CoreId} {k : SlotId} {e : Engine} (h : s.cur = .eng d c k e) {f : Stream → Stream}
    (hf : ∀ st, (f st).sansCov = st.sansCov) : s.Sees (s.updStr f) := by
  rw [State.updStr_eq_updJb h]
  exact State.sees_updJb h (Job.sansToks_set _ e.idx hf)

theorem State.sees_acquireTokens (s : State) : s.Sees s.acquireTokens := by
  rcases s.acquireTokens_cases with h | ⟨d, c, h⟩ <;> rw [h]
  · exact .rfl
  · have hs : (s.updCore d c Core.dropL1s).stream? s.cur = s.stream? s.cur := State.updCore_stream? s d c (f := Core.dropL1s) (fun _ => rfl) _
    have hj : (s.updCore d c Core.dropL1s).jobOf? s.cur = s.jobOf? s.cur := by
      unfold State.jobOf?
      split
      · exact State.updCore_slotJob? s d c (f := Core.dropL1s) (fun _ => rfl) ..
      · rfl
    refine ⟨rfl, rfl, State.updCore_timeOf .., ?_, ?_⟩
    · exact congrArg (fun x : Option Stream => (x.getD {}).sansCov) hs
    · exact congrArg (fun x : Option Job => (x.getD {}).sansToks) hj

/-- Popping tokens changes nothing an operand is read from. -/
theorem State.sees_popMask {s : State} {d : DieId} {c : CoreId} {k : SlotId} {e : Engine} (h : s.cur = .eng d c k e) (y : Engine) (m : BitVec 4)
    (x : Option (Engine × Nat)) : s.Sees (s.popMask y m x) := by
  unfold State.popMask
  have fold : ∀ (l : List (Engine × Nat)) (t : State), t.cur = .eng d c k e → t.Sees (l.foldl (fun s p =>
      let r := s.jb.popToks p.1 y p.2
      (s.updJb fun _ => r.1).updStr fun st => { st with cov := st.cov ++ r.2 }) t) := by
    intro l
    induction l with
    | nil => exact fun t _ => .rfl
    | cons p l ih =>
      intro t ht
      have h1 : t.Sees (t.updJb fun _ => (t.jb.popToks p.1 y p.2).1) := State.sees_updJb ht rfl
      have h2 := State.sees_updStr_cov (h1.cur.trans ht) (f := fun st => { st with cov := st.cov ++ (t.jb.popToks p.1 y p.2).2 }) fun _ => rfl
      exact (h1.trans h2).trans (ih _ ((h1.trans h2).cur.trans ht))
  have h0 : s.Sees (if (match x with
      | some p => (maskEngines y m).map (fun x => (x, 1)) ++ [p]
      | none => (maskEngines y m).map fun x => (x, 1)) = [] then s else s.acquireTokens) := by
    exact iteInduction (motive := s.Sees) (fun _ => .rfl) fun _ => s.sees_acquireTokens
  exact h0.trans (fold _ _ (h0.cur.trans h))

theorem State.sees_popped (s : State) (h : Hdr) (x : Option (Engine × Nat)) : s.Sees (s.popped h x) := by
  unfold State.popped
  split
  next hc => exact State.sees_popMask hc ..
  next => exact .rfl

theorem State.sees_opened (s : State) (h : Hdr) : s.Sees (s.opened h) := s.sees_popped h none

/-! ## Reads rest on what `Sees` keeps -/

section
variable {s t : State}

theorem State.Sees.choose (h : s.Sees t) {α : Type} (site : Nat) (d : α) (l : List α) : t.choose site d l = s.choose site d l := by
  unfold State.choose
  rw [h.free]

theorem State.Sees.streamField (h : s.Sees t) {α : Type} {f : Stream → α} (hf : ∀ st : Stream, f st.sansCov = f st) : f t.str = f s.str := by
  rw [← hf t.str, h.str, hf]

theorem State.Sees.jobField (h : s.Sees t) {α : Type} {f : Job → α} (hf : ∀ j : Job, f j.sansToks = f j) : f t.jb = f s.jb := by
  rw [← hf t.jb, h.jb, hf]

theorem State.Sees.flights (h : s.Sees t) : t.str.flights = s.str.flights := h.streamField (f := Stream.flights) fun _ => Eq.refl _

theorem State.Sees.readX (h : s.Sees t) (k : Nat) (r : BitVec 5) : t.readX k r = s.readX k r := by
  unfold State.readX
  rw [h.choose, h.now, h.flights, h.streamField (f := Stream.x) fun _ => Eq.refl _]

theorem State.Sees.readP (h : s.Sees t) (k : Nat) (r : BitVec 3) : t.readP k r = s.readP k r := by
  unfold State.readP
  rw [h.choose, h.now, h.flights, h.streamField (f := Stream.p) fun _ => Eq.refl _]

theorem State.Sees.readB (h : s.Sees t) (r : BitVec 2) : t.readB r = s.readB r := by
  unfold State.readB
  rw [h.choose, h.now, h.flights, h.streamField (f := Stream.b) fun _ => Eq.refl _]

theorem State.Sees.guard (h : s.Sees t) (g : Guard) : t.guard g = s.guard g := by
  unfold State.guard
  rw [h.readP]

theorem State.Sees.rmode (h : s.Sees t) : t.rmode = s.rmode := by
  unfold State.rmode
  rw [h.choose, h.now, h.flights, h.streamField (f := Stream.rmode) fun _ => Eq.refl _]

theorem State.Sees.tensor (h : s.Sees t) (k : Nat) (n : BitVec 6) : t.tensor k n = s.tensor k n := by
  unfold State.tensor State.readTable
  have hfl : (t.jb.streams[Engine.idx .a]).sansCov.flights = (s.jb.streams[Engine.idx .a]).sansCov.flights := by
    rw [Job.sansToks_stream h.jb]
  rw [show (t.jb.streams[Engine.idx .a]).flights = (s.jb.streams[Engine.idx .a]).flights from hfl]
  rw [h.choose, h.now, h.jobField (f := Job.tensors) fun _ => Eq.refl _]

end

/-- A word's guard is what it was before its tokens are popped. -/
theorem State.opened_guard (s : State) (h : Hdr) (g : Guard) : (s.opened h).guard g = s.guard g := (s.sees_opened h).guard g

/-! ## What a read returns -/

/-- One effect's part in the values a read may return. -/
def shadowEff {α : Type} (landed : Bool) (get : Eff → Option α) (l : List α) (e : Eff) : List α :=
  match get e with
  | none => l
  | some v => if landed then [v] else l ++ [v]

theorem shadow_eq {α : Type} (now : Nat) (base : α) (fs : List Flight) (get : Eff → Option α) :
    shadow now base fs get = fs.foldl (fun l f => f.effs.foldl (shadowEff (f.landed now) get) l) [base] := rfl

theorem mem_shadowEff {α : Type} {landed : Bool} {get : Eff → Option α} {l : List α} {e : Eff} {v : α} (h : v ∈ shadowEff landed get l e) :
    v ∈ l ∨ get e = some v := by
  unfold shadowEff at h
  split at h
  · exact .inl h
  next w hw =>
    split at h
    · rw [List.mem_singleton] at h
      exact .inr (h ▸ hw)
    · rw [List.mem_append, List.mem_singleton] at h
      exact h.imp id fun hv => hw.trans (congrArg some hv.symm)

theorem shadowEff_ne_nil {α : Type} {landed : Bool} {get : Eff → Option α} {l : List α} {e : Eff} (h : l ≠ []) : shadowEff landed get l e ≠ [] := by
  unfold shadowEff
  split
  · exact h
  · split <;> simp

/-- A property of a fold's start that each of its steps keeps. -/
theorem foldl_keeps {α β : Type} {f : β → α → β} {P : β → Prop} {l : List α} {b : β} (hb : P b) (hf : ∀ b, P b → ∀ a ∈ l, P (f b a)) :
    P (l.foldl f b) := by
  induction l generalizing b with
  | nil => exact hb
  | cons a l ih => exact ih (hf b hb a (List.mem_cons_self ..)) fun b hb x hx => hf b hb x (List.mem_cons_of_mem _ hx)

/-- The values a read may return are the register's and those that words in flight write. -/
theorem mem_shadow {α : Type} {now : Nat} {base : α} {fs : List Flight} {get : Eff → Option α} :
    ∀ v ∈ shadow now base fs get, v = base ∨ ∃ f ∈ fs, ∃ e ∈ f.effs, get e = some v := by
  rw [shadow_eq]
  refine foldl_keeps (P := fun l => ∀ v ∈ l, v = base ∨ ∃ f ∈ fs, ∃ e ∈ f.effs, get e = some v) (fun v hv => .inl (List.mem_singleton.mp hv)) ?_
  intro l hl f hf
  refine foldl_keeps (P := fun l => ∀ v ∈ l, v = base ∨ ∃ f ∈ fs, ∃ e ∈ f.effs, get e = some v) hl ?_
  intro l hl e he v hv
  rcases mem_shadowEff hv with hm | hm
  · exact hl v hm
  · exact .inr ⟨f, hf, e, he, hm⟩

theorem shadow_ne_nil {α : Type} {now : Nat} {base : α} {fs : List Flight} {get : Eff → Option α} : shadow now base fs get ≠ [] := by
  rw [shadow_eq]
  exact foldl_keeps (P := (· ≠ [])) (by simp) fun l hl f _ => foldl_keeps (P := (· ≠ [])) hl fun l hl e _ => shadowEff_ne_nil hl

/-- A register that no word in flight writes has its own value alone. -/
theorem shadow_unwritten {α : Type} {now : Nat} {base : α} {fs : List Flight} {get : Eff → Option α} (h : ∀ f ∈ fs, ∀ e ∈ f.effs, get e = none) :
    shadow now base fs get = [base] := by
  rw [shadow_eq]
  refine foldl_keeps (P := (· = [base])) rfl ?_
  intro l hl f hf
  refine foldl_keeps (P := (· = [base])) hl ?_
  intro l hl e he
  unfold shadowEff
  rw [h f hf e he]
  exact hl

/-- The latest word's landed write hides what came before. -/
theorem shadow_landed {α : Type} {now : Nat} {base : α} {fs : List Flight} {f : Flight} {get : Eff → Option α} {e : Eff} {v : α}
    (hl : f.landed now = true) (he : f.effs = [e]) (hv : get e = some v) : shadow now base (fs ++ [f]) get = [v] := by
  rw [shadow_eq, List.foldl_append]
  simp only [List.foldl_cons, List.foldl_nil, he]
  unfold shadowEff
  simp only [hv, hl, if_true]

theorem State.choose_mem (s : State) {α : Type} (site : Nat) (d : α) {l : List α} (h : l ≠ []) : s.choose site d l ∈ l := by
  unfold State.choose
  split
  · exact absurd rfl h
  · exact List.mem_singleton_self _
  · have hn : Config.freeNat s.free site % l.length < l.length := Nat.mod_lt _ (List.length_pos_iff.mpr h)
    rw [List.getD_eq_getElem?_getD, List.getElem?_eq_getElem hn, Option.getD_some]
    exact List.getElem_mem hn

/-- The value of an effect that writes x register r. -/
def Eff.xOf (r : BitVec 5) : Eff → Option Word
  | .x q v => if q = r then some v else none
  | _ => none

theorem Eff.xOf_some {r : BitVec 5} {e : Eff} {v : Word} (h : e.xOf r = some v) : e = .x r v := by
  unfold Eff.xOf at h
  split at h
  next q w =>
    split at h
    next hq => injection h with h; rw [hq, h]
    · cases h
  · cases h

theorem State.readX_eq (s : State) (k : Nat) {r : BitVec 5} (hr : r ≠ 0) :
    s.readX k r = s.choose k 0 (shadow s.now (s.str.x[r.toNat]?.getD 0) s.str.flights (Eff.xOf r)) := by
  unfold State.readX
  exact if_neg hr

/-- Settles O56: popping tokens keeps what operands are read from; a read chooses among the register's value and those in flight. -/
theorem operandReads : Obligations.OperandReads := by
  unfold Obligations.OperandReads
  refine ⟨fun s k => ⟨if_pos rfl, if_pos rfl, if_pos rfl⟩, fun _ _ _ => rfl, fun _ _ _ => rfl, fun _ _ => rfl,
    fun now st d v hd => if_neg hd, fun s h => (s.sees_opened h).readX, fun s h => (s.sees_opened h).readP, fun s h => (s.sees_opened h).readB,
    State.opened_guard, fun s h => (s.sees_opened h).tensor, fun s h => (s.sees_opened h).rmode, ?unwritten, ?chosen, ?landed⟩
  case unwritten =>
    intro s k r hr hf
    have hnone : ∀ f ∈ s.str.flights, ∀ e ∈ f.effs, e.xOf r = none := by
      intro f hm e he
      rw [Option.eq_none_iff_forall_ne_some]
      intro v hv
      exact hf f hm v (Eff.xOf_some hv ▸ he)
    rw [s.readX_eq k hr, shadow_unwritten hnone]
    rfl
  case chosen =>
    intro s k r hr
    have hm := s.choose_mem k 0 (shadow_ne_nil (now := s.now) (base := s.str.x[r.toNat]?.getD 0) (fs := s.str.flights) (get := Eff.xOf r))
    rw [← s.readX_eq k hr] at hm
    rcases mem_shadow _ hm with hb | ⟨f, hf, e, he, hv⟩
    · exact .inl hb
    · exact .inr ⟨f, hf, Eff.xOf_some hv ▸ he⟩
  case landed =>
    intro s k r fs f v hr hfs hl he
    rw [s.readX_eq k hr, hfs, shadow_landed hl he (if_pos rfl)]
    rfl

/-- Settles O55: a word's shape says both. -/
theorem wordsWaitOrMoveTokens : Obligations.WordsWaitOrMoveTokens := by
  unfold Obligations.WordsWaitOrMoveTokens
  refine ⟨?waits, ?tokens⟩
  case waits =>
    intro i h s hh hs hc
    rcases exec_shape i with ⟨h', g, ready, body, hh', -, -, -, -, hf⟩ | ⟨h', ready, body, hh', -, hf⟩ | hn
    · obtain rfl : h = h' := Option.some.inj (hh.symm.trans hh')
      rw [hf, runWord_waits hs (.inl hc)]
    · obtain rfl : h = h' := Option.some.inj (hh.symm.trans hh')
      rw [hf, runWord_waits hs (.inl hc)]
    · rw [hn] at hh; cases hh
  case tokens =>
    intro i h g s hh hg hm hi hfalse
    rcases exec_shape i with ⟨h', g', ready, body, hh', hg', he, hr, hb, hf⟩ | ⟨h', ready, body, hh', hg' | hm', hf⟩ | hn
    · obtain rfl : h = h' := Option.some.inj (hh.symm.trans hh')
      obtain rfl : g = g' := Option.some.inj (hg.symm.trans hg')
      have hs : s.guard g = false := (s.opened_guard h g).symm.trans hfalse
      rw [hf, runWord_issues hi (hr s hs), he, show s.popped h none = s.opened h from rfl, hb _ hfalse]
      rfl
    · rw [hg'] at hg; cases hg
    · rw [hm'] at hm; cases hm
    · rw [hn] at hh; cases hh

end Sys2Proof.Machine
end

section
/-! PROOFS. What a stop writes (R80, R81, R200, R201, R212). -/

-- In order, so that the one-text compile stays within memory.
set_option Elab.async false

namespace Sys2Proof.Machine
open Sys2Proof

/-! ## Rules for jobs and system cores under changes of a die -/

theorem State.updDie_slotJob? (s : State) (d : DieId) {f : Die → Die} (hc : (f (s.die d)).cores = (s.die d).cores)
    (hr : (f (s.die d)).recs = (s.die d).recs) (e : DieId) (c : CoreId) (k : SlotId) : (s.updDie d f).slotJob? e c k = s.slotJob? e c k := by
  unfold State.slotJob? State.slotRec? State.core
  rw [show (s.updDie d f).job? e = s.job? e from funext (State.updDie_cores_job? s d f hr e)]
  by_cases h : e = d
  · subst h; rw [State.updDie_die, hc]
  · rw [State.updDie_die_ne _ _ h]

theorem State.updDie_sysc (s : State) (d : DieId) {f : Die → Die} (hf : (f (s.die d)).sys = (s.die d).sys) (e : DieId) :
    (s.updDie d f).sysc e = s.sysc e := by
  unfold State.sysc
  by_cases h : e = d
  · subst h; rw [State.updDie_die, hf]
  · rw [State.updDie_die_ne _ _ h]

@[simp] theorem State.updSys_sysc (s : State) (d : DieId) (f : SysCore → SysCore) : (s.updSys d f).sysc d = f (s.sysc d) := by
  unfold State.sysc State.updSys
  rw [State.updDie_die]

/-- The job in a slot after a change of that job. -/
theorem State.updJobOf_slotJob? (s : State) (d : DieId) (c : CoreId) (k : SlotId) (e : Engine) (f : Job → Job) :
    (s.updJobOf (.eng d c k e) f).slotJob? d c k = (s.slotJob? d c k).map f := by
  unfold State.updJobOf State.slotJob?
  cases hr : s.slotRec? d c k with
  | none => simp [hr]
  | some r => simp only [State.updJob_slotRec?, hr, Option.bind_some, State.updJob_job?]

theorem State.updJobOf_core (s : State) (w : Who) (f : Job → Job) (d : DieId) (c : CoreId) : (s.updJobOf w f).core d c = s.core d c := by
  unfold State.updJobOf State.core
  split
  next e b k _ =>
    split
    next r =>
      unfold State.updJob
      by_cases h : d = e
      · subst h; rw [State.updDie_die]
      · rw [State.updDie_die_ne _ _ h]
    · rfl
  · rfl

@[simp] theorem State.updCore_core (s : State) (d : DieId) (c : CoreId) (f : Core → Core) : (s.updCore d c f).core d c = f (s.core d c) := by
  unfold State.core State.updCore
  rw [State.updDie_die]
  simp

/-! ## A stop of an engine's stream -/

/-- A state in which a stop's POISON or UE_CONSUMED has been counted (R391). -/
def State.countStop (s : State) (w : Who) (st : Stop) : State :=
  if st.cause = .poison ∨ st.cause = .ueConsumed then s.count (whoDie w) 0x068 1 else s

section
variable (s : State) (w : Who) (st : Stop)

theorem State.countStop_slotJob? (d : DieId) (c : CoreId) (k : SlotId) : (s.countStop w st).slotJob? d c k = s.slotJob? d c k := by
  unfold State.countStop
  split
  · exact s.updDie_slotJob? _ rfl rfl d c k
  · rfl

theorem State.countStop_sysc (d : DieId) : (s.countStop w st).sysc d = s.sysc d := by
  unfold State.countStop
  split
  · exact s.updDie_sysc _ rfl d
  · rfl

theorem State.countStop_timeOf (v : Who) : (s.countStop w st).timeOf v = s.timeOf v := by
  unfold State.countStop
  split
  · exact s.updDie_timeOf _ _ rfl v
  · rfl

theorem State.countStop_free : (s.countStop w st).free = s.free := by
  unfold State.countStop
  split <;> rfl

theorem State.countStop_evq (d : DieId) : ((s.countStop w st).die d).evq = (s.die d).evq := by
  unfold State.countStop State.count
  split
  · by_cases h : d = whoDie w
    · subst h; rw [State.updDie_die]
    · rw [State.updDie_die_ne _ _ h]
  · rfl

theorem State.countStop_incarnation : (s.countStop w st).incarnation = s.incarnation := by
  unfold State.countStop
  split <;> rfl

end

/-- The job in its slot after a trap's pre-emption of it is dropped. -/
theorem State.dropPreempt_slotJob? (s : State) (w : Who) (now : Nat) (d : DieId) (c : CoreId) (k : SlotId) :
    (s.dropPreempt w now).slotJob? d c k = s.slotJob? d c k := by
  unfold State.dropPreempt
  split
  next e b l _ j _ =>
    split
    · exact s.updCore_slotJob? e b (f := fun x => { x with reserved := x.reserved.set l none }) (fun _ => rfl) d c k
    · rfl
  · rfl

/-- What a stop at issue leaves of the job whose stream stops. -/
theorem State.takeStop_slotJob? {s : State} {d : DieId} {c : CoreId} {k : SlotId} {e : Engine} (hc : s.cur = .eng d c k e) (st : Stop) :
    (s.takeStop st).slotJob? d c k = (s.slotJob? d c k).map fun j =>
      j.trap e.idx.val s.str.pc st (s.bare (whoSite s.cur)) s.now (j.streams[e.idx]).nextId := by
  have hb : (s.countStop s.cur st).bare (whoSite s.cur) = s.bare (whoSite s.cur) := by
    unfold State.bare
    rw [State.countStop_free]
  have ht : (s.countStop s.cur st).timeOf s.cur = s.now := s.countStop_timeOf ..
  unfold State.takeStop State.stopAt
  rw [hc] at hb ht ⊢
  show ((State.dropPreempt (s.countStop (.eng d c k e) st) _ _).updJobOf _ _).slotJob? d c k = _
  rw [State.updJobOf_slotJob?, State.dropPreempt_slotJob?, State.countStop_slotJob?]
  show (s.slotJob? d c k).map (fun j => j.trap e.idx.val s.str.pc st ((s.countStop (.eng d c k e) st).bare (whoSite (.eng d c k e)))
    ((s.countStop (.eng d c k e) st).timeOf (.eng d c k e)) (j.streams[e.idx]).nextId) = _
  rw [hb, ht]

theorem State.takeStop_job {s : State} {d : DieId} {c : CoreId} {k : SlotId} {e : Engine} {j : Job} (hc : s.cur = .eng d c k e)
    (hj : s.slotJob? d c k = some j) (st : Stop) : (s.takeStop st).slotJob? d c k =
      some (j.trap e.idx.val s.str.pc st (s.bare (whoSite s.cur)) s.now (j.streams[e.idx]).nextId) := by
  rw [State.takeStop_slotJob? hc, hj]
  rfl

/-- What a job's trap registers hold after a stop of engine e at pc, in cycle now (R200, R201). -/
def Job.holdsStop (j : Job) (e : Engine) (pc : Word) (st : Stop) (now : Nat) : Prop :=
  j.trapCause = BitVec.ofBool st.cause.fatal ++ st.cause.code ∧ j.trapStream = BitVec.ofNat 3 e.idx.val ∧ j.trapPc = pc ∧
    (∀ v, st.info0 = some v → j.trapInfo0 = v ∧ j.trapInfo1 = st.info1.getD 0) ∧ (∀ v, st.info1 = some v → j.trapInfo1 = v) ∧ j.phase = .stopping .trap now

/-- The words of a stop that gives its first info, and of one that gives its second (R80). -/
theorem Stop.words_info0 {st : Stop} {v : Word} (h : st.info0 = some v) (bare : Word × Word) : st.words bare = (v, st.info1.getD 0) := by
  unfold Stop.words
  rw [h]
  cases st.info1 <;> rfl

theorem Stop.words_info1 {st : Stop} {v : Word} (h : st.info1 = some v) (bare : Word × Word) : (st.words bare).2 = v := by
  unfold Stop.words
  rw [h]

/-- A job whose trap registers were just written. -/
def Job.trapped (j : Job) (e : Nat) (pc : Word) (st : Stop) (bare : Word × Word) (now id : Nat) : Job :=
  { j with
    undo := if j.running then j.trapRegs else j.undo
    trapCause := BitVec.ofBool st.cause.fatal ++ st.cause.code, trapStream := BitVec.ofNat 3 e, trapPc := pc
    trapInfo0 := (st.words bare).1, trapInfo1 := (st.words bare).2, phase := .stopping .trap now, trapId := id }

theorem Job.trapped_holds (j : Job) (e : Engine) (pc : Word) (st : Stop) (bare : Word × Word) (now id : Nat) :
    (j.trapped e.idx.val pc st bare now id).holdsStop e pc st now := by
  refine ⟨rfl, rfl, rfl, fun v hv => ?_, fun v hv => Stop.words_info1 hv bare, rfl⟩
  unfold Job.trapped
  rw [Stop.words_info0 hv]
  exact ⟨rfl, rfl⟩

section
variable {j : Job} {e : Nat} {pc : Word} {st : Stop} {bare : Word × Word} {now id : Nat}

theorem Job.trap_running (h : j.phase = .running) : j.trap e pc st bare now id = j.trapped e pc st bare now id := by
  unfold Job.trap
  rw [h]
  rfl

theorem Job.trap_lower (h : j.phase = .stopping .trap now) (hl : e < j.trapStream.toNat) :
    j.trap e pc st bare now id = j.trapped e pc st bare now id := by
  unfold Job.trap
  simp only [h]
  exact if_pos ⟨trivial, .inl hl⟩

theorem Job.trap_higher (h : j.phase = .stopping .trap now) (hl : j.trapStream.toNat < e ∨ (j.trapStream.toNat = e ∧ j.trapId ≤ id)) :
    j.trap e pc st bare now id = j := by
  unfold Job.trap
  simp only [h]
  exact if_neg (by omega)

theorem Job.trap_preempt (h : j.phase = .stopping .preempt now) : j.trap e pc st bare now id = j.trapped e pc st bare now id := by
  unfold Job.trap
  simp only [h]
  exact if_pos trivial

end

/-- A trap in the cycle of a pre-emption frees the slot it was kept for (R38). -/
theorem State.takeStop_unreserves {s : State} {d : DieId} {c : CoreId} {k : SlotId} {e : Engine} {j : Job} (hc : s.cur = .eng d c k e)
    (hj : s.slotJob? d c k = some j) (hp : j.phase = .stopping .preempt s.now) (st : Stop) : ((s.takeStop st).core d c).reserved[k] = none := by
  have ht : (s.countStop s.cur st).timeOf s.cur = s.now := s.countStop_timeOf ..
  have hj' : (s.countStop s.cur st).jobOf? (.eng d c k e) = some j := (s.countStop_slotJob? s.cur st d c k).trans hj
  have hn : j.preemptedNow s.now = true := by
    unfold Job.preemptedNow
    rw [hp]
    exact beq_self_eq_true _
  unfold State.takeStop State.stopAt
  rw [hc] at ht hj' ⊢
  show ((State.updJobOf (State.dropPreempt (s.countStop (.eng d c k e) st) _ _) _ _).core d c).reserved[k] = none
  rw [State.updJobOf_core]
  show ((State.dropPreempt (s.countStop (.eng d c k e) st) (.eng d c k e) ((s.countStop (.eng d c k e) st).timeOf (.eng d c k e))).core d c).reserved[k] = none
  rw [ht]
  unfold State.dropPreempt
  simp only [hj', hn, if_true, State.updCore_core]
  simp

/-! ## A stop on the system core -/

theorem State.sysSees_congr {s t : State} {d : DieId} (hf : t.free = s.free) (ht : t.timeOf (.sys d) = s.timeOf (.sys d))
    (hs : (t.sysc d).stream.flights = (s.sysc d).stream.flights) (site : Nat) (n : BitVec 12) (base : Word) :
    t.sysSees d site n base = s.sysSees d site n base := by
  unfold State.sysSees State.choose
  rw [hf, ht, hs]

theorem State.countStop_sysInTrap (s : State) (w : Who) (st : Stop) (d : DieId) : (s.countStop w st).sysInTrap d = s.sysInTrap d := by
  unfold State.sysInTrap
  rw [State.sysSees_congr (s.countStop_free w st) (s.countStop_timeOf w st _) (congrArg (fun x : SysCore => x.stream.flights) (s.countStop_sysc w st d)),
    s.countStop_sysc]

theorem State.countStop_sysVec (s : State) (w : Who) (st : Stop) (d : DieId) : (s.countStop w st).sysVec d = s.sysVec d := by
  unfold State.sysVec
  rw [State.sysSees_congr (s.countStop_free w st) (s.countStop_timeOf w st _) (congrArg (fun x : SysCore => x.stream.flights) (s.countStop_sysc w st d)),
    s.countStop_sysc]

/-- A stop of the system core is a trap there, its count taken first. -/
theorem State.takeStop_sys {s : State} {d : DieId} (hc : s.cur = .sys d) (st : Stop) :
    s.takeStop st = if s.sysInTrap d then (s.countStop (.sys d) st).machineCheck d else (s.countStop (.sys d) st).sysEnter d s.str.pc st := by
  unfold State.takeStop State.stopAt
  rw [hc]
  show (s.countStop (.sys d) st).sysTrap d s.str.pc st = _
  unfold State.sysTrap
  rw [State.countStop_sysInTrap]

/-- Without words in flight that write them, a stop sees INTRAP and SVEC as they stand. -/
theorem State.sysSees_unwritten {s : State} {d : DieId} {n : BitVec 12} (h : ∀ f ∈ (s.sysc d).stream.flights, ∀ m v, Eff.csr m v ∈ f.effs → m ≠ n)
    (site : Nat) (base : Word) : s.sysSees d site n base = base := by
  unfold State.sysSees
  rw [shadow_unwritten]
  · rfl
  · intro f hf e he
    split
    next m v => exact if_neg (h f hf m v he)
    next => rfl

/-! ## MACHINE_CHECK -/

/-- A die's system core has halted, and nothing new is dispatched there. -/
def State.checked (s : State) (d : DieId) : Prop := (s.sysc d).halted = true ∧ (s.die d).noDispatch = true

theorem State.checked_updDie {s : State} {d : DieId} (h : s.checked d) (e : DieId) {f : Die → Die}
    (hf : ∀ x : Die, x.sys.halted = true → x.noDispatch = true → (f x).sys.halted = true ∧ (f x).noDispatch = true) : (s.updDie e f).checked d := by
  unfold State.checked State.sysc
  by_cases he : d = e
  · subst he
    rw [State.updDie_die]
    exact hf _ h.1 h.2
  · rw [State.updDie_die_ne _ _ he]
    exact h

theorem State.checked_pushEvent {s : State} {d : DieId} (h : s.checked d) (e : DieId) (ev : Word) : (s.pushEvent e ev).checked d := by
  refine State.checked_updDie h e fun x hh hn => ?_
  split
  · exact ⟨hh, hn⟩
  · exact ⟨hh, hn⟩

theorem State.checked_offerEvent {s : State} {d : DieId} (h : s.checked d) (e : DieId) (ev : Word) : (s.offerEvent e ev).1.checked d := by
  unfold State.offerEvent
  dsimp only
  split
  · exact State.checked_updDie (State.checked_pushEvent h e ev) e fun x hh hn => ⟨hh, hn⟩
  · exact State.checked_pushEvent h e ev

theorem State.checked_sysEnter {s : State} {d : DieId} (h : s.checked d) (e : DieId) (pc : Word) (st : Stop) : (s.sysEnter e pc st).checked d :=
  State.checked_updDie h e fun _ hh hn => ⟨hh, hn⟩

/-- A die whose system core has just taken a MACHINE_CHECK. -/
def State.halt (s : State) (d : DieId) : State := s.updDie d fun x => { x with noDispatch := true, sys := { x.sys with halted := true } }

theorem State.halt_checked (s : State) (d : DieId) : (s.halt d).checked d := by
  unfold State.checked State.sysc State.halt
  rw [State.updDie_die]
  exact ⟨rfl, rfl⟩

theorem State.halt_evq (s : State) (d e : DieId) : ((s.halt d).die e).evq = (s.die e).evq := by
  unfold State.halt
  by_cases h : e = d
  · subst h; rw [State.updDie_die]
  · rw [State.updDie_die_ne _ _ h]

theorem State.sysEnter_fenced (s : State) (e d : DieId) (pc : Word) (st : Stop) : ((s.sysEnter e pc st).die d).fenced = (s.die d).fenced := by
  unfold State.sysEnter State.updSys
  by_cases h : d = e
  · subst h; rw [State.updDie_die]
  · rw [State.updDie_die_ne _ _ h]

theorem State.fence_checked {s : State} {d : DieId} (h : s.checked d) : (s.fence d).checked d ∧ ((s.fence d).die d).fenced = true := by
  refine ⟨State.checked_updDie h d (f := fun x => { x with fenced := true }) fun x hh hn => ⟨hh, hn⟩, ?_⟩
  show ((s.updDie d fun x => { x with fenced := true }).die d).fenced = true
  rw [State.updDie_die]

/-- The event of a MACHINE_CHECK, offered to the master's system core. -/
def State.checkOffer (s : State) (d : DieId) : State × Bool :=
  (s.halt d).offerEvent (s.halt d).master (eventRecord 7 true Cause.machineCheck.code 0xFF 0)

/-- The state of a MACHINE_CHECK with its MSI-X message raised. -/
def State.checkRaised (s : State) (d : DieId) : State := { (s.checkOffer d).1 with msix := (s.checkOffer d).1.msix ||| (1#6 <<< d.val) }

theorem State.machineCheck_eq (s : State) (d : DieId) : s.machineCheck d =
    if d = 0 ∨ ((s.checkOffer d).2 = true ∧ (s.checkRaised d).sysInTrap (s.halt d).master = true ∧ (s.halt d).master = 0) then
      (s.checkRaised d).packageReset false
    else if (s.checkOffer d).2 && !((s.checkRaised d).fence d).sysInTrap (s.halt d).master then
      ((s.checkRaised d).fence d).sysEnter (s.halt d).master (((s.checkRaised d).fence d).sysc (s.halt d).master).stream.pc { cause := .eventOver }
    else (s.checkRaised d).fence d := rfl

/-- MACHINE_CHECK on a die other than 0 halts its core and fences it (R212, R404). -/
theorem State.machineCheck_fences {s : State} {d : DieId} (hd : d ≠ 0) (hq : (s.die 0).evq.length < 512) :
    (s.machineCheck d).checked d ∧ ((s.machineCheck d).die d).fenced = true := by
  have hfull : ¬(d = 0 ∨ ((s.checkOffer d).2 = true ∧ (s.checkRaised d).sysInTrap (s.halt d).master = true ∧ (s.halt d).master = 0)) := by
    rintro (h | ⟨hf, -, hm⟩)
    · exact hd h
    · unfold State.checkOffer State.offerEvent at hf
      rw [hm] at hf
      simp only [State.halt_evq, Bool.and_eq_true, decide_eq_true_eq] at hf
      omega
  have hc : (s.checkRaised d).checked d := State.checked_offerEvent (s.halt_checked d) ..
  obtain ⟨hf, hl⟩ := State.fence_checked hc
  rw [State.machineCheck_eq, if_neg hfull]
  split
  · exact ⟨State.checked_sysEnter hf .., (State.sysEnter_fenced ..).trans hl⟩
  · exact ⟨hf, hl⟩

theorem State.offerEvent_incarnation (s : State) (d : DieId) (ev : Word) : (s.offerEvent d ev).1.incarnation = s.incarnation := by
  unfold State.offerEvent State.pushEvent
  dsimp only
  split <;> rfl

/-- MACHINE_CHECK on die 0 resets the package (R212, R409). -/
theorem State.machineCheck_resets (s : State) : ∃ t : State, s.machineCheck 0 = t.packageReset false ∧ t.incarnation = s.incarnation := by
  refine ⟨_, (s.machineCheck_eq 0).trans (if_pos (.inl rfl)), ?_⟩
  exact State.offerEvent_incarnation (s.halt 0) ..

theorem State.packageReset_sysc (s : State) (trip : Bool) (d : DieId) : (s.packageReset trip).sysc d = { stream := freshStream } := by
  unfold State.sysc State.die State.packageReset State.reset
  simp

/-- Settles O57: an engine's stop by what its job's trap registers hold already, the system core's by INTRAP. -/
theorem stopsAreTaken : Obligations.StopsAreTaken := by
  unfold Obligations.StopsAreTaken
  refine ⟨?running, ?lower, ?higher, ?preempt, ?sys, ?check, ?reset, ?seen⟩
  case running =>
    intro s d c k e j st hc hj hp
    exact ⟨_, (State.takeStop_job hc hj st).trans (congrArg some (Job.trap_running hp)), Job.trapped_holds j e .., rfl, rfl, rfl⟩
  case lower =>
    intro s d c k e j st hc hj hp hl
    exact ⟨_, (State.takeStop_job hc hj st).trans (congrArg some (Job.trap_lower hp hl)), Job.trapped_holds j e ..⟩
  case higher =>
    intro s d c k e j st hc hj hp hl
    exact (State.takeStop_job hc hj st).trans (congrArg some (Job.trap_higher hp hl))
  case preempt =>
    intro s d c k e j st hc hj hp
    exact ⟨_, (State.takeStop_job hc hj st).trans (congrArg some (Job.trap_preempt hp)), Job.trapped_holds j e ..,
      State.takeStop_unreserves hc hj hp st⟩
  case sys =>
    intro s d st hc _ ht
    rw [State.takeStop_sys hc, ht]
    simp only [Bool.false_eq_true, if_false, State.sysEnter, State.updSys_sysc, State.countStop_sysc, State.countStop_sysVec]
    refine ⟨trivial, trivial, trivial, fun v hv => ?_, fun v hv => Stop.words_info1 hv _, trivial, trivial, trivial, trivial⟩
    rw [Stop.words_info0 hv]
    exact ⟨rfl, rfl⟩
  case check =>
    intro s d st hc hd ht hq
    rw [State.takeStop_sys hc, ht]
    have hq' : ((s.countStop (.sys d) st).die 0).evq.length < 512 := by rwa [State.countStop_evq]
    obtain ⟨⟨hh, hn⟩, hf⟩ := State.machineCheck_fences hd hq'
    refine ⟨hh, ?_, hn⟩
    exact congrArg (!·) hf
  case reset =>
    intro s st hc ht
    rw [State.takeStop_sys hc, ht]
    obtain ⟨t, hm, hi⟩ := State.machineCheck_resets (s.countStop (.sys 0) st)
    rw [if_pos rfl, hm]
    refine ⟨rfl, ?_, rfl, ?_⟩
    · exact congrArg (· + 1) (hi.trans (s.countStop_incarnation ..))
    · rw [State.packageReset_sysc]
  case seen =>
    intro s d hf
    refine ⟨?_, State.sysSees_unwritten (fun f hm n v hv => (hf f hm n v hv).1) ..⟩
    unfold State.sysInTrap
    rw [State.sysSees_unwritten fun f hm n v hv => (hf f hm n v hv).2]
    cases (s.sysc d).intrap <;> rfl

end Sys2Proof.Machine
end

section
/-! PROOFS. The machine's steps that land results (R32, R117): a TRAP's stop closes its stream's gate, which O33 leaves out. -/

-- In order, so that the one-text compile stays within memory.
set_option Elab.async false

namespace Sys2Proof.Machine
open Sys2Proof Sys2Proof.Tests

/-- A job whose stream of V has a TRAP in flight, its cycles over. -/
def trapping : State := flying (fl (.trap 5 6) (some 0))

/-- The gate of that stream, in what a step gives. -/
def trapGate (o : Host.Outcome State Fault Refusal) : Option Nat :=
  match o with
  | .next t => (t.stream? (w0 .v)).map (·.gate)
  | _ => none

/-- Refutes O33: a TRAP that stops an engine's stream also lets it issue nothing more in that cycle (the model's log 132): the gate of its
stream is the next cycle, where the statement leaves it as it was. -/
theorem not_landingStepsCompleteWords : ¬ Obligations.LandingStepsCompleteWords := by
  unfold Obligations.LandingStepsCompleteWords
  rintro ⟨-, -, htrap⟩
  have hissuing : ∀ j, trapping.jobOf? (w0 .v) = some j → j.issuing (trapping.timeOf (w0 .v)) = true := by
    intro j hj
    have hall : (trapping.jobOf? (w0 .v)).all (fun j => j.issuing (trapping.timeOf (w0 .v))) = true := by decide +kernel
    rwa [hj] at hall
  have hstep := htrap (w0 .v) 7 trapping (fl (.trap 5 6) (some 0)) 5 6 (by decide +kernel) rfl rfl (by decide +kernel) hissuing
  have hgate : trapGate (exec (.resultLanding (w0 .v) 7) trapping) = some 1 := by decide +kernel
  rw [hstep] at hgate
  exact absurd hgate (by decide +kernel)

end Sys2Proof.Machine
end

section
/-! PROOFS. The machine's steps that complete accesses (R242, R249, R254, R269, R274). -/

-- In order, so that the one-text compile stays within memory.
set_option Elab.async false

namespace Sys2Proof.Machine
open Sys2Proof

/-- A word of n bits read as a two's complement number, as LDX extends it (R249). -/
theorem signExtend_ofNat_of_lt {n m : Nat} (hm : m < 2 ^ n) :
    (BitVec.ofNat n m).signExtend 64 = if 2 ^ (n - 1) ≤ m then BitVec.ofInt 64 ((m : Int) - 2 ^ n) else BitVec.ofNat 64 m := by
  have hnat : (BitVec.ofNat n m).toNat = m := by rw [BitVec.toNat_ofNat, Nat.mod_eq_of_lt hm]
  rw [BitVec.signExtend, BitVec.toInt_eq_toNat_cond, hnat]
  have hhalf : 2 * m < 2 ^ n ↔ ¬2 ^ (n - 1) ≤ m := by
    cases n with
    | zero => simp at hm; simp [hm]
    | succ n => rw [Nat.pow_succ, Nat.add_sub_cancel]; omega
  simp only [hhalf]
  by_cases h : 2 ^ (n - 1) ≤ m
  · rw [if_neg (not_not_intro h), if_pos h]; norm_cast
  · rw [if_pos h, if_neg h]; exact BitVec.ofInt_natCast ..

/-- The bytes an LDX delivers, sign-extended or not. -/
theorem ldxValue_eq (size : BitVec 2) (sx : Bool) {m : Nat} (hm : m < 2 ^ (8 * 2 ^ size.toNat)) :
    (if sx && decide (2 ^ (8 * 2 ^ size.toNat - 1) ≤ m) then BitVec.ofInt 64 ((m : Int) - 2 ^ (8 * 2 ^ size.toNat)) else BitVec.ofNat 64 m) =
      if sx then (BitVec.ofNat (8 * 2 ^ size.toNat) m).signExtend 64 else (BitVec.ofNat (8 * 2 ^ size.toNat) m).zeroExtend 64 := by
  cases sx with
  | true => rw [if_pos rfl, signExtend_ofNat_of_lt hm, Bool.true_and]; simp only [decide_eq_true_eq]
  | false =>
    rw [if_neg (by simp), if_neg (by simp)]
    refine BitVec.eq_of_toNat_eq ?_
    have : 2 ^ (8 * 2 ^ size.toNat) ≤ 2 ^ 64 := Nat.pow_le_pow_right (by omega) (by
      have : 2 ^ size.toNat ≤ 2 ^ 3 := Nat.pow_le_pow_right (by omega) (by omega)
      omega)
    simp only [BitVec.truncate_eq_setWidth, BitVec.toNat_setWidth, BitVec.toNat_ofNat, Nat.mod_eq_of_lt hm]

section
variable {w : Who} {id : Nat} {got : List Byte} {s t : State} {f : Flight} (hf : s.flight? w id = some f) (hh : f.halted = false)
include hf hh

/-- Data returns to a word in flight that no ORD access holds: the step is the word's own. -/
theorem dataReturn_ldx {va : Word} {size : BitVec 2} {sx : Bool} {d : BitVec 5} (hw : f.work = .ldx va size sx d)
    (hb : s.ordHeld w (bufOf va.toNat) = false) : exec (.dataReturn w id got) s = .next (s.ldxStep w f va size sx d (some got)) := by
  show execDataReturn w id got s = _
  simp only [execDataReturn, hf, hh, hw, Work.buf?, Option.any_some, hb, Bool.or_self, Bool.false_eq_true, if_false]

theorem dataReturn_register {va : Word} (hw : (∃ n k d, f.work = .probe va n k d) ∨ ∃ up n d, f.work = .lock up va n d)
    (hb : s.ordHeld w (bufOf va.toNat) = false) : exec (.dataReturn w id got) s = .next (s.completeAccess w f) := by
  show execDataReturn w id got s = _
  have hfree : (f.work.buf?.any fun b => s.ordHeld w b) = false := by
    obtain ⟨n, k, d, hw⟩ | ⟨up, n, d, hw⟩ := hw <;> simp only [hw, Work.buf?] <;> split <;> simp only [Option.any_none, Option.any_some, hb]
  obtain ⟨n, k, d, hw⟩ | ⟨up, n, d, hw⟩ := hw <;> rw [hw] at hfree <;>
    simp only [execDataReturn, hf, hh, hw, hfree, Bool.or_self, Bool.false_eq_true, if_false]

theorem writeAcknowledgement_stx {va : Word} {data : List Byte} (hw : f.work = .stx va data) (hb : s.ordHeld w (bufOf va.toNat) = false) :
    exec (.writeAcknowledgement w id) s = .next (s.stxStep w f va data) := by
  show execWriteAcknowledgement w id s = _
  simp only [execWriteAcknowledgement, hf, hh, hw, Work.buf?, Option.any_some, hb, Bool.or_self, Bool.false_eq_true, if_false]

end

/-- The first word of A with an index to do takes its next. -/
theorem indexStep_of_first {d : DieId} {c : CoreId} {k : SlotId} {s : State} {st : Stream} {f : Flight} {op : BitVec 2} {dq iq : BitVec 4}
    {t : BitVec 256} {tn : Nat} {isz : BitVec 2} {n done : Nat} {cur : Option IndexCur} (hm : s.mayStep (.eng d c k .a) = true)
    (hs : s.stream? (.eng d c k .a) = some st)
    (hf : st.flights.find? (fun x => !x.halted && (match x.work with
      | .index _ _ _ t _ _ n done _ => decide (done < n) && !s.ordHeld (.eng d c k .a) (bufOf (tBase t))
      | _ => false)) = some f) (hw : f.work = .index op dq iq t tn isz n done cur) :
    exec (.indexStep d c k) s = .next (s.indexStep (.eng d c k .a) f op dq iq t tn isz n done cur none) := by
  show execIndexStep d c k s = _
  unfold execIndexStep
  simp only [hm, Bool.not_true, Bool.false_eq_true, if_false, hs, Option.bind_some]
  split
  next g hg =>
    obtain rfl : g = f := Option.some.inj (hg.symm.trans hf)
    simp only [hw]
  next hg => exact absurd (hg.symm.trans hf) (by simp)

/-- A GATHER's index that is invalid or beyond its table fills its row with zeros (R254). -/
theorem indexRow_zeros {s : State} {w : Who} {f : Flight} {st : Stream} {dq iq : BitVec 4}
    {t : BitVec 256} {tn : Nat} {isz : BitVec 2} {n done : Nat} {i : IndexCur} (hs : s.stream? w = some st) (hj : (s.jobOf? w).isSome = true)
    (hbad : (indexInval isz i.idx || indexOor isz t i.idx) = true) :
    s.indexRow w f 0 dq iq t tn isz n done i none =
      if done + 1 = n then (s.updJobOf w fun j => j.updDq dq.toNat fun x =>
          x.fill f.id (s.timeOf w) (List.replicate (fmtBytes (tFmt t) (tCols t)) ((0 : Byte), false))).completeAccess w f
      else (s.updJobOf w fun j => j.updDq dq.toNat fun x =>
          x.fill f.id (s.timeOf w) (List.replicate (fmtBytes (tFmt t) (tCols t)) ((0 : Byte), false))).updStream w fun st =>
            st.updFlight f.id fun y => { y with work := .index 0 dq iq t tn isz n (done + 1) none } := by
  obtain ⟨j, hj⟩ := Option.isSome_iff_exists.mp hj
  unfold State.indexRow
  simp only [hj, hs, hbad, if_true, and_true, ne_eq, not_true_eq_false, false_and, if_false]

/-- Settles O34: each step acts on its word once it may, and the word's own step is under its conditions. -/
theorem accessStepsCompleteWords : Obligations.AccessStepsCompleteWords := by
  unfold Obligations.AccessStepsCompleteWords
  intro free
  refine ⟨?ldx, ?poison, ?register, ?stx, ?zeros, ?index, ?rel⟩
  case ldx =>
    intro w id got s f va size sx d l t hf hh hw hb hm hr hp v hl
    rw [dataReturn_ldx hf hh hw hb]
    simp only [State.ldxStep, hm, Bool.not_true, Bool.false_eq_true, if_false, hr, hp, ldxValue_eq size sx hl]
    rfl
  case poison =>
    intro w id got s f va size sx d l t hf hh hw hb hm hr hp
    rw [dataReturn_ldx hf hh hw hb]
    simp only [State.ldxStep, hm, Bool.not_true, Bool.false_eq_true, if_false, hr, hp, if_true]
  case register =>
    intro w id got s f va hf hh hb hw
    exact dataReturn_register hf hh hw hb
  case stx =>
    intro w id s f va data t hf hh hw hb hm ht
    rw [writeAcknowledgement_stx hf hh hw hb]
    simp only [State.stxStep, hm, Bool.not_true, Bool.false_eq_true, if_false, ht]
  case zeros =>
    intro d c k s st f op dq iq t tn isz n done i w hm hs hf hw hj hbad hop zeros u
    subst hop
    rw [indexStep_of_first hm hs hf hw]
    exact congrArg _ (indexRow_zeros hs hj hbad)
  case index =>
    intro d c k s st f op dq iq t tn isz n done cur hm hs hf hw
    exact indexStep_of_first hm hs hf hw
  case rel =>
    intro w id s f sc c hf hw hb hr
    show execReleaseDone w id s = _
    simp only [execReleaseDone, hf, hw, hb, hr, Bool.and_self, if_true]

end Sys2Proof.Machine
end

section
/-! PROOFS. The machine's steps of message queues (R320-R324). -/

-- In order, so that the one-text compile stays within memory.
set_option Elab.async false

namespace Sys2Proof.Machine
open Sys2Proof

/-- A queue set to what a function gives of it is that function applied to it. -/
theorem State.updMq_eq_of_apply {s : State} {d : DieId} {c : CoreId} {q : Fin 4} {f g : Mq → Mq} (h : f (s.mq d c q) = g (s.mq d c q)) :
    s.updMq d c q f = s.updMq d c q g := by
  unfold State.updMq State.updCore State.updDie
  unfold State.mq State.core State.die at h
  simp only [Fin.getElem_fin] at h ⊢
  rw [h]

theorem State.updDie_core (s : State) (e : DieId) {f : Die → Die} (hf : (f (s.die e)).cores = (s.die e).cores) (d : DieId) (c : CoreId) :
    (s.updDie e f).core d c = s.core d c := by
  unfold State.core
  by_cases h : d = e
  · subst h; rw [State.updDie_die, hf]
  · rw [State.updDie_die_ne _ _ h]

theorem State.updCore_core_ne (s : State) {d e : DieId} {c b : CoreId} (f : Core → Core) (h : ¬(d = e ∧ c = b)) :
    (s.updCore e b f).core d c = s.core d c := by
  unfold State.core State.updCore
  by_cases hd : d = e
  · subst hd
    have hc : b.val ≠ c.val := fun hc => h ⟨rfl, (Fin.ext hc).symm⟩
    rw [State.updDie_die]
    simp only [Fin.getElem_fin, Vector.getElem_set, if_neg hc]
  · rw [State.updDie_die_ne _ _ hd]

/-- A queue that was changed is the changed queue; the others are as they were. -/
theorem State.updMq_mq (s : State) (e : DieId) (b : CoreId) (p : Fin 4) (f : Mq → Mq) (d : DieId) (c : CoreId) (q : Fin 4) :
    (s.updMq e b p f).mq d c q = if d = e ∧ c = b ∧ q = p then f (s.mq e b p) else s.mq d c q := by
  unfold State.mq State.updMq
  by_cases h : d = e ∧ c = b
  · obtain ⟨rfl, rfl⟩ := h
    rw [State.updCore_core]
    simp only [Fin.getElem_fin, Vector.getElem_set, true_and, Fin.ext_iff, eq_comm]
  · rw [State.updCore_core_ne _ _ h, if_neg fun h' => h ⟨h'.1, h'.2.1⟩]

/-- What the entries of a queue say: which is the first, whose they are, and which is the next. -/
def Mq.ends (m : Mq) : BitVec 32 × List MqReq × BitVec 32 := (m.head, m.owners, m.tail)

section
variable (d : DieId) (c : CoreId) (q : Fin 4)

theorem State.updDie_mq (s : State) (e : DieId) {f : Die → Die} (hf : (f (s.die e)).cores = (s.die e).cores) : (s.updDie e f).mq d c q = s.mq d c q := by
  unfold State.mq; rw [State.updDie_core s e hf]

theorem State.updMq_ends (s : State) (e : DieId) (b : CoreId) (p : Fin 4) {f : Mq → Mq} (hf : ∀ m, (f m).ends = m.ends) :
    ((s.updMq e b p f).mq d c q).ends = (s.mq d c q).ends := by
  rw [State.updMq_mq]
  split
  next h => obtain ⟨rfl, rfl, rfl⟩ := h; exact hf _
  next => rfl

theorem State.mq_of_dies {s t : State} (h : t.dies = s.dies) : t.mq d c q = s.mq d c q := by
  unfold State.mq State.core State.die; rw [h]

theorem State.leave_mq (s : State) (e : DieId) (p : Fin 16) (k : Nat) (pkg : BitVec 13) (adp : Bool) (x : Packet) :
    (s.leave e p k pkg adp x).mq d c q = s.mq d c q := by
  unfold State.leave
  dsimp only
  split
  · split <;> exact State.mq_of_dies d c q rfl
  · have hbusy (g : DieId) (i t : Nat) :
        (s.updDie g fun y => { y with egressBusy := y.egressBusy.put i t }).mq d c q = s.mq d c q := State.updDie_mq d c q s g rfl
    split <;> exact (State.mq_of_dies d c q rfl).trans (hbusy _ _ _)

theorem State.egress_mq {s t : State} {e : DieId} {pkg : BitVec 13} {pksel : Nat} {adp message : Bool} {incarn : BitVec 16} {body : PacketBody}
    (h : s.egress e pkg pksel adp message incarn body = .ok t) : t.mq d c q = s.mq d c q := by
  unfold State.egress at h
  split at h
  · cases h
  split at h
  · cases h
  dsimp only at h
  split at h
  · cases h
  obtain rfl := Except.ok.inj h
  unfold State.count
  rw [State.updDie_mq d c q _ _ rfl, State.leave_mq]

theorem State.returnCredits_ends (s : State) (e : DieId) (cr : Credit) : ((s.returnCredits e cr).mq d c q).ends = (s.mq d c q).ends := by
  unfold State.returnCredits
  split
  · rfl
  split
  · split
    next h => rw [State.egress_mq d c q h]
    · rfl
  · exact State.updMq_ends d c q s _ _ _ fun m => by split <;> rfl

theorem State.grantCredits_ends (s : State) (e : DieId) (r : Nat) (t : Word) (gen : BitVec 8) (esz n : Nat) (asked : Bool) :
    ((s.grantCredits e r t gen esz n asked).mq d c q).ends = (s.mq d c q).ends := by
  unfold State.grantCredits
  dsimp only
  split
  · exact State.returnCredits_ends ..
  split
  · exact State.returnCredits_ends ..
  · exact congrArg Mq.ends (State.updDie_mq d c q s e rfl)

theorem State.creditBack_ends (s : State) (e : DieId) (b : CoreId) (p : Fin 4) (o : MqReq) :
    ((s.creditBack e b p o).mq d c q).ends = (s.mq d c q).ends := by
  have hold : ((s.updMq e b p fun m => { m with held := m.held + 1 }).mq d c q).ends = (s.mq d c q).ends :=
    State.updMq_ends d c q s e b p fun _ => rfl
  unfold State.creditBack
  dsimp only
  split
  · rw [← hold]
    unfold State.grantAway
    split
    next h => rw [State.egress_mq d c q h]
    · rfl
  split
  · split
    · exact (State.grantCredits_ends ..).trans hold
    · rfl
  · rfl

/-- The credits of freed entries return, one by one. -/
theorem State.creditsBack_ends (s : State) (l : List MqReq) :
    ((l.foldl (fun s o => s.creditBack d c q o) s).mq d c q).ends = (s.mq d c q).ends := by
  induction l generalizing s with
  | nil => rfl
  | cons o os ih => exact (ih _).trans (State.creditBack_ends ..)

end

/-- Settles O36: each step is enabled; the credits of freed entries return without a change of the queue's ends. -/
theorem messageQueueSteps : Obligations.MessageQueueSteps := by
  unfold Obligations.MessageQueueSteps
  refine ⟨?second, ?first, ?refused, ?request, ?append, ?head, ?credit⟩
  case second =>
    intro d c q v s hv
    show execMqBindingWrite d c q true v s = _
    simp only [execMqBindingWrite, Mq.bind, hv, if_true]
    exact congrArg (fun t : State => Host.Outcome.next (t.updSys d _)) (State.updMq_eq_of_apply rfl)
  case first =>
    intro d c q v s hlo hhi
    show execMqBindingWrite d c q false v s = _
    simp only [execMqBindingWrite, Mq.bind, hlo, hhi, and_self, Bool.false_eq_true, if_false, if_true]
    exact congrArg (fun t : State => Host.Outcome.next (t.updSys d _)) (State.updMq_eq_of_apply rfl)
  case refused =>
    intro d c q second v s hv
    show execMqBindingWrite d c q second v s = _
    have hbind : (s.mq d c q).bind second v = none := by
      cases second with
      | true => exact if_neg hv
      | false => exact if_neg fun h : 6 ≤ bits v 59 56 ∧ bits v 59 56 ≤ 12 => Or.elim hv (Nat.not_lt.mpr h.1) (Nat.not_lt.mpr h.2)
    simp only [execMqBindingWrite, hbind]
  case request =>
    intro d c q s r rest hr hv ho hf hp n
    show execMqCreditRequest d c q s = _
    have hesz : (s.mq d c q).esz ≠ 0 := Nat.pos_iff_ne_zero.mp (Nat.two_pow_pos _)
    obtain ⟨owner, ho⟩ := Option.ne_none_iff_exists'.mp ho
    simp only [execMqCreditRequest, hr, hv, ho, hf, Bool.not_true, Option.isNone_some, Bool.false_or, decide_false, Bool.false_eq_true, if_false]
    refine congrArg _ ?_
    rw [if_neg (by rw [hp]; simp [State.updMq]), if_neg hesz]
    rfl
  case append =>
    intro d c q s a rest r j tag ha ho hj ht hb m
    show execMqAppend d c q s = _
    simp only [execMqAppend, ha, ht, ho, hj, hb, Option.map_some, if_true]
    rfl
  case head =>
    intro d c q head s rest hh n
    refine ⟨((s.mq d c q).owners.take n).foldl (fun s o => s.creditBack d c q o)
      (s.updMq d c q fun m => { m with head := head, owners := m.owners.drop n, heads := rest }), ?_, ?_⟩
    · show execMqHeadWrite d c q head s = _
      simp only [execMqHeadWrite, hh, ne_eq, not_true_eq_false, if_false]
      rfl
    have hends := State.creditsBack_ends d c q
      (s.updMq d c q fun m => { m with head := head, owners := m.owners.drop n, heads := rest }) ((s.mq d c q).owners.take n)
    rw [State.updMq_mq, if_pos ⟨rfl, rfl, rfl⟩] at hends
    simpa only [Mq.ends, Prod.mk.injEq] using hends
  case credit =>
    intro d c k s j f q t n cr popped e hj hi hl hm hw hr hc he hn
    show execMsendCredit d c k s = _
    simp only [execMsendCredit, hj, hi, hl, hr, hm, hw, hc, he, Bool.and_self, Bool.not_true, Bool.false_eq_true, if_false, if_true, if_neg (Nat.not_lt.mpr hn)]
    rfl

end Sys2Proof.Machine
end

section
/-! PROOFS. The machine's steps of canopy programming (R290-R299). -/

-- In order, so that the one-text compile stays within memory.
set_option Elab.async false

namespace Sys2Proof.Machine
open Sys2Proof

theorem State.updGrove_eq_of_apply {s : State} {d : DieId} {g : GroveId} {f f' : Grove → Grove} (h : f (s.grove d g) = f' (s.grove d g)) :
    s.updGrove d g f = s.updGrove d g f' := by
  unfold State.updGrove State.updDie
  unfold State.grove State.die at h
  simp only [Fin.getElem_fin] at h ⊢
  rw [h]

theorem State.updColumn_eq_of_apply {s : State} {d : DieId} {c : CoreId} {f f' : Column → Column} (h : f (s.column d c) = f' (s.column d c)) :
    s.updColumn d c f = s.updColumn d c f' := by
  unfold State.updColumn State.updDie
  unfold State.column State.die at h
  simp only [Fin.getElem_fin] at h ⊢
  rw [h]

theorem State.updGrove_column (s : State) (e : DieId) (g : GroveId) (f : Grove → Grove) (d : DieId) (c : CoreId) :
    (s.updGrove e g f).column d c = s.column d c := by
  unfold State.column State.updGrove
  by_cases h : d = e
  · subst h; rw [State.updDie_die]
  · rw [State.updDie_die_ne _ _ h]

/-- A list of steps that each leave a state alone leaves it alone. -/
theorem foldl_fixed {α β : Type} {f : α → β → α} {a : α} (l : List β) (h : ∀ b ∈ l, f a b = a) : l.foldl f a = a := by
  induction l with
  | nil => rfl
  | cons b bs ih =>
    obtain ⟨hb, hbs⟩ := List.forall_mem_cons.mp h
    rw [List.foldl_cons, hb, ih hbs]

/-- Settles O37: each step is enabled, and its outcome is the model's under the statement's conditions. -/
theorem programmingSteps : Obligations.ProgrammingSteps := by
  unfold Obligations.ProgrammingSteps
  refine ⟨?accept, ?start, ?iteration, ?window, ?rate⟩
  case accept =>
    intro d c k s j f r src len ht hf hw hdue ha b kind
    show execPgmAccept d c k s = _
    simp only [execPgmAccept, ht]
    split
    next hn => exact absurd (hn.symm.trans hf) (by simp)
    next g hg =>
      obtain rfl : g = f := Option.some.inj (hg.symm.trans hf)
      simp only [hw]
      have hgo : (decide (s.timeOf (.eng d c k .t) < g.issued + 4 + (if (match r.kind with
          | .tile .. => true
          | _ => false) = true then cdiv len 512 else 0)) || !s.acquired (.eng d c k .t) g) = false := by
        rw [ha, Bool.not_true, Bool.or_false, decide_eq_false_iff_not, Nat.not_lt]
        cases hk : r.kind <;> simpa only [hk, if_true, if_false, Bool.false_eq_true, Nat.add_zero] using hdue
      exact if_neg (ne_true_of_eq_false hgo)
  case start =>
    intro d col s q rest l v hq hr hl hlost hk r t
    show execPgmRequestStart d col s = _
    simp only [execPgmRequestStart, hq, hr, hl, hk, PgmReq.about, Bool.not_true, Bool.false_eq_true, if_false]
    split
    · rfl
    · split <;> rfl
  case iteration =>
    intro d col ok s r p l v rest hr hp hrows hl hlost hdue hue t n
    show execPgmIteration d col ok s = _
    have hover : decide (s.time < r.since + iterUnits) = false := decide_eq_false (Nat.not_lt.mpr hdue)
    simp only [execPgmIteration, hr, hp, hrows, hl, hue, hover, Bool.not_true, Bool.or_self, Bool.false_eq_true, if_false]
    cases ok with
    | true => rfl
    | false =>
      by_cases hn : r.iter + 1 < 8
      · simp only [n, hn, Bool.false_eq_true, if_false, if_true]; rfl
      · by_cases htries : 3 ≤ r.tries
        · simp only [n, hn, htries, Bool.false_eq_true, if_false, if_true]; rfl
        · simp only [n, hn, htries, Bool.false_eq_true, if_false]; rfl
  case window =>
    intro d g s hl hw hr
    show execGovWindow d g s = _
    simp only [execGovWindow, hl, Bool.not_true, Bool.false_eq_true, if_false]
    rw [foldl_fixed, State.updGrove_eq_of_apply]
    · exact if_neg hw
    · intro col _
      simp only [State.updGrove_column]
      split
      · rfl
      next hg =>
        rw [Bool.or_eq_true, not_or] at hg
        obtain ⟨hcol, -⟩ := hg
        rw [hr col (Classical.not_not.mp (mt bne_iff_ne.mpr hcol))]
  case rate =>
    intro d col s r t hr hd hdue hk
    show execPgmRate d col s = _
    simp only [execPgmRate, hr, hd, if_neg (Nat.not_lt.mpr hdue)]
    rw [show s.updRun d col (fun r_1 => { r_1 with req := { r.req with deferred := some (s.grove d (groveOf col)).cyc } }) =
      s.updColumn d col fun x => { x with run := x.run.map fun r => { r with req := { r.req with deferred := some (s.grove d (groveOf col)).cyc } } } from
        State.updColumn_eq_of_apply (by simp only [hr, Option.map_some])]
    cases hkind : r.req.kind with
    | rewrite l => exact absurd hkind (hk l)
    | _ =>
      refine congrArg (fun f => Host.Outcome.next (State.updJob _ d r.req.jrec f)) (funext fun j => ?_)
      by_cases hgen : j.gen = r.req.gen
      · rw [if_pos hgen, hgen, bne_self_eq_false]; rfl
      · rw [if_neg hgen, if_pos (bne_iff_ne.mpr hgen)]

end Sys2Proof.Machine
end

section
/-! PROOFS. The machine's steps of the array, of TEND and of CHAIN (R141, R142, R146, R161, R193, R194, R438). -/

-- In order, so that the one-text compile stays within memory.
set_option Elab.async false

namespace Sys2Proof.Machine
open Sys2Proof

theorem State.jb_of_slotJob? {s : State} {d : DieId} {c : CoreId} {k : SlotId} {e : Engine} {j : Job} (h : s.slotJob? d c k = some j) :
    State.jb { s with cur := .eng d c k e } = j := by
  have hj : State.jobOf? { s with cur := .eng d c k e } (.eng d c k e) = some j := h
  unfold State.jb
  rw [hj]
  rfl

/-- The mismatches that count against a window: those of an armed checksum. -/
theorem mismatches_eq_zero_iff (t : Tile) (tol : BitVec 32) : (if t.armed then t.mismatches tol else 0) = 0 ↔ (t.armed = true → t.mismatches tol = 0) := by
  split <;> simp_all

/-- Settles O38: each step is enabled, and its outcome is the model's under the statement's conditions. -/
theorem arrayAndChainSteps : Obligations.ArrayAndChainSteps := by
  unfold Obligations.ArrayAndChainSteps
  refine ⟨?start, ?kstep, ?held, ?tend, ?chain⟩
  case start =>
    intro d c s e rest f m ha hf hw
    have hmax (x y : Nat) : ((max x y : Nat) : Int) = max (x : Int) y := by omega
    show execMmaStart d c s = _
    simp only [execMmaStart, ha, hf, hw, if_true, hmax, Int.natCast_add]
    rfl
  case kstep =>
    intro d c s e rest f m done a m' effs t ha hf hh hw w now hdue hmay hpad hadd
    show execMmaKstep d c s = _
    have hgo : (decide ((s.timeOf (.eng d c e.slot .m) : Int) < a + m.due done) || !s.mayAdd (.eng d c e.slot .m) (m.begun done a) (a + m.due done) ||
        (m.readsPad && !s.acquired (.eng d c e.slot .m) f)) = false := by
      rw [show s.mayAdd (.eng d c e.slot .m) (m.begun done a) (a + m.due done) = true from hmay, decide_eq_false (Int.not_lt.mpr hdue)]
      cases hp : m.readsPad with
      | false => rfl
      | true => rw [show s.acquired (.eng d c e.slot .m) f = true from hpad hp]; rfl
    have hstep : s.addKStep (.eng d c e.slot .m) m false done f.rm = .added m' effs t := hadd
    simp only [execMmaKstep, ha, hf, hh, hw, hgo, hstep, Bool.false_eq_true, if_false]
    split <;> rfl
  case held =>
    intro m done a t h
    rw [Mma.heldTo, Int.max_eq_left (by omega), Int.add_zero]
  case tend =>
    intro d c k s j f z done x result v hj hf hw hv w seen clean
    have hseen : seen.win = some v := by rw [State.seenTile_win, State.jb_of_slotJob? hj, hv]
    show (_ → execTendCheck d c k s = _) ∧ (_ → _ → execTendCheck d c k s = _) ∧ (_ → _ → _ → _ → execTendCheck d c k s = _)
    simp only [execTendCheck, hj]
    split
    next hn => exact absurd (hn.symm.trans hf) (by simp)
    next g hg =>
      obtain rfl : g = f := Option.some.inj (hg.symm.trans hf)
      have hclean : (!seen.erred && decide ((if seen.armed then seen.mismatches g.tol else 0) = 0)) = true ↔ clean := by
        rw [Bool.and_eq_true, Bool.not_eq_true', decide_eq_true_eq, mismatches_eq_zero_iff]
      simp only [hw]
      refine ⟨fun hc => ?_, fun hc hr => ?_, fun hc hr h2 hk => ?_⟩
      · rw [show (State.seenTile { s with cur := .eng d c k .m } z).win = some v from hseen]
        exact if_pos (hclean.mpr hc)
      · rw [show (State.seenTile { s with cur := .eng d c k .m } z).win = some v from hseen]
        refine (if_neg (mt hclean.mp hc)).trans (if_pos ?_)
        rw [hr]; rfl
      · rw [show (State.seenTile { s with cur := .eng d c k .m } z).win = some v from hseen]
        refine (if_neg (mt hclean.mp hc)).trans ((if_neg ?_).trans ((if_neg h2).trans (if_neg ?_)))
        · rw [hr]; decide
        · intro hall
          obtain ⟨m, hm, hnk⟩ := List.any_eq_true.mp hk
          exact absurd (List.all_eq_true.mp hall m hm) (by simpa using hnk)
  case chain =>
    intro d c k s st hs
    show execChainRow d c k s = _
    simp only [execChainRow, hs] <;> rfl

end Sys2Proof.Machine
end

section
/-! PROOFS. The machine's steps of the distributor (R337-R349): a pre-emption also notes the trap registers it overwrites, which O40 leaves out. -/

-- In order, so that the one-text compile stays within memory.
set_option Elab.async false

namespace Sys2Proof.Machine
open Sys2Proof Sys2Proof.Tests

/-- A running job that was stopped once before: TRAPPC still holds that stop's word. -/
def stoppedOnce : Job := { phase := .running, home := some (0, 0), launch := 1, trapPc := 5 }

/-- A full die whose victim is that job, and a saved job that waits for a place there. -/
def preempting : State := package {
  dispthr := 1, cores := Vector.replicate 64 { slots := #v[some 0, none] }
  recs := ((Vector.replicate 128 {}).set 0 { job := some stoppedOnce }).set 3 preempted }

/-- Its candidates in order, and the first of them. -/
def preemptors : List Cand := (preempting.candidates 2).foldr insertCand []
def preemptor : Cand := preemptors.headD { kind := .saved 0, eff := 0, since := 0, num := 0, key := (0, 0, 0), kernel := {}, dies := [] }

/-- The TRAPPC that job would go back to were its stop undone, in what a step gives. -/
def undoPc (o : Host.Outcome State Fault Refusal) : Option Word :=
  match o with
  | .next t => (t.job? 2 0).map (·.undo.pc)
  | _ => none

theorem preemptors_eq : preemptors = preemptor :: preemptors.tail := by
  have hne : preemptors.isEmpty = false := by decide +kernel
  unfold preemptor
  cases h : preemptors with
  | nil => rw [h] at hne; cases hne
  | cons a l => rfl

/-- Refutes O40: a pre-emption of a running job notes its trap registers beside overwriting them, so that a trap in the same cycle can take the
pre-emption's place; the statement leaves the note as it was. -/
theorem not_launchSteps : ¬ Obligations.LaunchSteps := by
  unfold Obligations.LaunchSteps
  rintro ⟨-, -, -, -, -, -, -, hpreempt, -, -⟩
  have hkind : preemptor.kind = .saved 3 := by decide +kernel
  have hstep := hpreempt 2 preempting preemptor preemptors.tail 2 0 0 0 stoppedOnce (by decide +kernel) (by decide +kernel) (by decide +kernel) preemptors_eq
    (by dsimp only; rw [hkind]; decide +kernel) (by decide +kernel) (by decide +kernel) rfl
  have hundo : undoPc (exec (.preempt 2) preempting) = some 5 := by decide +kernel
  rw [hstep] at hundo
  exact absurd hundo (by decide +kernel)

end Sys2Proof.Machine
end

section
/-! PROOFS. The machine's steps of jobs (R38, R40): a watchdog's stop takes the place of a pre-emption in its slot, which O41 does not ask to be the
stopped job's. -/

-- In order, so that the one-text compile stays within memory.
set_option Elab.async false

namespace Sys2Proof.Machine
open Sys2Proof Sys2Proof.Tests

/-- A job without progress whose home is slot 0 of core 0, where the slot names another record, whose job was pre-empted in this very cycle: its
slot is kept for a candidate. -/
def stalledElsewhere : State :=
  { State.reset with dies := State.reset.dies.set 0 {
      wdog := 1
      recs := ((Vector.replicate 128 {}).set 0 { job := some { phase := .running, home := some (0, 0), stall := 2 } }).set 1
        { job := some { phase := .stopping .preempt 0 } }
      cores := (Vector.replicate 64 {}).set 0 { slots := #v[some 1, none], reserved := #v[some (0, 0, 0), none] } } }

/-- Is that slot still kept, in what a step gives? -/
def slotKept (o : Host.Outcome State Fault Refusal) : Bool :=
  match o with
  | .next t => ((t.core 0 0).reserved[(0 : SlotId)]).isSome
  | _ => false

/-- Refutes O41: JOB_STALL also gives up the place kept in the slot by a pre-emption of the cycle; the statement leaves the slot alone, and asks
of the job's home only that the job names it. -/
theorem not_jobSteps : ¬ Obligations.JobSteps := by
  unfold Obligations.JobSteps
  rintro ⟨-, -, -, -, -, -, hstall, -, -, -⟩
  have hjob : ∃ j, stalledElsewhere.job? 0 (0 : RecId).val = some j ∧ j.home = some (0, 0) ∧ j.phase = .running ∧ j.stall = 2 :=
    ⟨_, rfl, rfl, rfl, rfl⟩
  obtain ⟨j, hj, hhome, hrun, hsince⟩ := hjob
  have hstep := hstall 0 0 stalledElsewhere j 0 0 hj hhome (by decide +kernel) hrun (by decide +kernel) (by rw [hsince]; decide +kernel)
  have hkept : slotKept (exec (.jobStall 0 0) stalledElsewhere) = false := by decide +kernel
  rw [hstep] at hkept
  exact absurd hkept (by decide +kernel)

end Sys2Proof.Machine
end

section
/-! PROOFS. Events, held tables and system registers (SystemSteps). -/

-- In order, so that the one-text compile stays within memory.
set_option Elab.async false

namespace Sys2Proof.Machine
open Sys2Proof

/-- The fabric manager's tables stand as they are where its session is not open. -/
theorem fabricManagerWrite_closed {s : State} (hclosed : ∀ key, s.spdm.fabric ≠ some (key, true)) (table : Fin 4) (i : Nat) (v : Word) :
    execFabricManagerWrite table i v s = .next s := by
  unfold execFabricManagerWrite
  split
  next hopen => exact absurd hopen (hclosed _)
  next => exact if_pos rfl

/-- Settles O42: each clause is its event's definition under the clause's conditions. -/
theorem systemSteps : Obligations.SystemSteps := by
  unfold Obligations.SystemSteps
  refine ⟨?popped, ?empty, ?entered, ?woken, ?segset, ?migrate, ?loud, ?written, ?refused, ?bound, ?fenced, ?routed, fun i v s hclosed table =>
    fabricManagerWrite_closed hclosed table i v⟩
  case popped =>
    intro d s e rest hq
    show execEvtheadRead d s = _
    simp only [execEvtheadRead, State.popEvent, hq]
  case empty =>
    intro d s hq
    show execEvtheadRead d s = _
    simp only [execEvtheadRead, State.popEvent, hq]
  case entered =>
    intro d s e rest hp hroom
    show execEventEnter d s = _
    simp only [execEventEnter, hp, hroom, if_true, SysCore.wake]
  case woken =>
    intro d s hq
    show execSystemCoreWake d s = _
    rw [execSystemCoreWake, if_neg hq]; rfl
  case segset =>
    intro d s b a v hhold hlive hhalt hquiet
    show execSegsetApply d s = _
    simp only [execSegsetApply, hhold, hlive, hhalt, hquiet]; rfl
  case migrate =>
    intro d s b a t hhold hlive hhalt hquiet
    show execMigrateMove d s = _
    simp only [execMigrateMove, hhold, hlive, hhalt, hquiet]; rfl
  case loud =>
    intro d s b a v hhold hloud
    show execSegsetApply d s = _
    simp only [execSegsetApply, hhold, hloud, Bool.not_false, Bool.or_true, if_true]
  case written =>
    intro d a v s x t hlow hal hacts hlive hheld hdone
    show execRegisterWrite d a v s = _
    rw [execRegisterWrite, if_neg (Nat.not_le.mpr hlow), if_neg (by simp [hal, hacts, hlive, hheld]), hdone]
  case refused =>
    intro d a v s hlow hal hacts hlive hheld href
    show execRegisterWrite d a v s = _
    rw [execRegisterWrite, if_neg (Nat.not_le.mpr hlow), if_neg (by simp [hal, hacts, hlive, hheld]), href]
  case bound =>
    intro d g q v s hlive
    show execTqBindingWrite d g q v s = _
    simp only [execTqBindingWrite, hlive, if_true]
  case fenced =>
    intro d v s hlive
    show execFenceWrite d v s = _
    simp only [execFenceWrite, hlive, if_true]
  case routed =>
    intro i v s key hopen hi
    show execFabricManagerWrite 0 i v s = _
    simp only [execFabricManagerWrite, hopen, Nat.not_le.mpr hi, routeMask]; rfl

end Sys2Proof.Machine
end

section
/-! PROOFS. The machine's physical steps (R414, R210, R212): a window's POWER_CAP notice can reset the package, which O43 does not allow for. -/

-- In order, so that the one-text compile stays within memory.
set_option Elab.async false

namespace Sys2Proof.Machine
open Sys2Proof Sys2Proof.Tests

/-- Die 0 one window on, its limit 0 W, its event queue full and its system core in a trap: the event that finds the queue full raises EVENT_OVER
there, a MACHINE_CHECK. -/
def cappedInTrap : State :=
  { State.reset with
    clock := { tick := 170000000000 }
    dies := State.reset.dies.set 0 { pwrlim := 0, evq := List.replicate 512 0, sys := { intrap := true } } }

/-- The average that a step leaves in die 0. -/
def averageAfter (o : Host.Outcome State Fault Refusal) : Option (BitVec 12) :=
  match o with
  | .next t => some (t.die 0).pwravg
  | _ => none

/-- Refutes O43: a window of die 0 above its limit queues POWER_CAP; with the event queue full and the system core in a trap that notice resets the
package, and the average with it. -/
theorem not_physicalSteps : ¬ Obligations.PhysicalSteps := by
  unfold Obligations.PhysicalSteps
  rintro ⟨-, -, -, -, -, -, -, hwindow, -⟩
  obtain ⟨t, hstep, havg, -⟩ := hwindow 0 1 cappedInTrap (by decide +kernel) (by decide +kernel)
  have hreset : averageAfter (exec (.powerWindow 0 1) cappedInTrap) = some 0 := by decide +kernel
  rw [hstep] at hreset
  exact absurd (havg.symm.trans (Option.some.inj hreset)) (by decide)

end Sys2Proof.Machine
end

section
/-! PROOFS. Links, notices of packages that are gone, and packets that arrive (LinkSteps). -/

-- In order, so that the one-text compile stays within memory.
set_option Elab.async false

namespace Sys2Proof.Machine
open Sys2Proof

/-- What a notice leaves, with the tests of R408 and R240 written out. -/
def State.noticeTaken (s : State) (p : Fin 16) (pkg : BitVec 13) (inc : Option (BitVec 16)) : State :=
  if s.noticed.contains (pkg, inc) = true ∨ pkg = s.packageId then s
  else
    let lost (o : RemoteOut) : Bool := o.pkg == pkg && !(o.write && o.app.isNone && inc == some o.incarn)
    let t : State := { s with
      noticed := (pkg, inc) :: s.noticed.filter fun (n : BitVec 13 × Option (BitVec 16)) => !(n.1 == pkg && n.2.isNone)
      outbox := s.outbox ++ ((List.finRange 16).filter fun (o : Fin 16) => o != p && !s.linkDown.getLsbD o.val && s.live (Fin.ofNat 4 (o.val / 4)) &&
        (s.die (Fin.ofNat 4 (o.val / 4))).lftree.getLsbD o.val).map fun (o : Fin 16) => Out.notice o pkg inc
      remoteOut := s.remoteOut.filter fun (o : RemoteOut) => !lost o
      deadPkgs := (pkg, inc) :: s.deadPkgs.filter fun (q : BitVec 13 × Option (BitVec 16)) => q.1 != pkg
      dies := s.dies.map fun (x : Die) => { x with cores := x.cores.map fun (c : Core) => { c with
        tlb := c.tlb.filter fun (e : TlbEntry) => !(segKind (x.segs.getD (4096 * e.asn.toNat + e.buf.toNat) 0) == 2 &&
          segTarget (x.segs.getD (4096 * e.asn.toNat + e.buf.toNat) 0) == pkg)
        l1 := c.l1.filter fun (l : L1Line) => !(l.key % 4 == 1 && l.key / 4 / 2 ^ 56 == pkg.toNat) } } }
    ((s.remoteOut.filter lost).filter (·.write)).foldl (fun (t : State) o => t.goneOf o.die (if o.wid.1 = 5 then none else some o.jrec) pkg o.incarn true) t

/-- The ports a notice leaves by, but for the one it came by, as one test. -/
theorem State.treePorts_ne (s : State) (p : Fin 16) : s.treePorts.filter (· != p) =
    (List.finRange 16).filter fun (o : Fin 16) => o != p && !s.linkDown.getLsbD o.val && s.live (Fin.ofNat 4 (o.val / 4)) &&
      (s.die (Fin.ofNat 4 (o.val / 4))).lftree.getLsbD o.val := by
  simp only [State.treePorts, List.filter_filter, Bool.and_assoc]

theorem State.takeNotice_eq (s : State) (p : Fin 16) (pkg : BitVec 13) (inc : Option (BitVec 16)) : s.takeNotice p pkg inc = s.noticeTaken p pkg inc := by
  unfold State.takeNotice State.noticeTaken
  by_cases h : s.noticed.contains (pkg, inc) = true ∨ pkg = s.packageId
  case pos => rw [if_pos h, if_pos (by rwa [Bool.or_eq_true, beq_iff_eq])]
  case neg =>
    rw [if_neg h, if_neg (by rwa [Bool.or_eq_true, beq_iff_eq]), ← State.treePorts_ne]
    rfl

theorem State.count_job? (s : State) (d e : DieId) (off n r : Nat) : (s.count d off n).job? e r = s.job? e r :=
  State.updDie_cores_job? s d _ rfl e r

/-- Does a packet access memory? -/
def accessesMemory : PacketBody → Bool
  | .load .. | .store .. | .atomic .. => true
  | _ => false

theorem accessesMemory_iff (b : PacketBody) : accessesMemory b = true ↔ (match b with
    | .load .. | .store .. | .atomic .. => True
    | _ => False) := by
  cases b <;> simp [accessesMemory]

/-- A packet that its port takes up: counted, then accepted with a key of the port and, for an access, from a near source, or refused. -/
theorem packetIngress_eq {p : Fin 16} {k : Packet} {s : State} (hlive : s.live (Fin.ofNat 4 (p.val / 4)) = true) (hup : s.linkDown.getLsbD p.val = false)
    (hwaits : (match k.body with
      | .load a n => s.frameWaits a n
      | .store a l _ => s.frameWaits a l.length
      | .atomic _ a size .. => s.frameWaits a (2 ^ size.toNat)
      | _ => false) = false) :
    execPacketIngress p k s =
      let d : DieId := Fin.ofNat 4 (p.val / 4)
      let t := s.count d (0x108 + 0x40 * (p.val % 4)) 1
      .next (if (t.die d).keyAccepts p.val k.key && (!(accessesMemory k.body) || k.src.extractLsb' 10 3 == s.packageId.extractLsb' 10 3) then t.accept k
        else t.count d (0x110 + 0x40 * (p.val % 4)) 1) := by
  have hoff (n : Nat) : 0x100 + 0x40 * (p.val % 4) + n = 0x100 + n + 0x40 * (p.val % 4) := by omega
  unfold execPacketIngress
  refine (if_neg ?_).trans ?_
  · simp only [hlive, hup, Bool.not_true, Bool.false_or]
    exact (Bool.eq_false_iff.mp hwaits)
  · simp only [hoff]
    cases k.body <;> rfl

/-- Settles O44: a notice is taken once, a packet by its port's keys, its domain and its kind. -/
theorem linkSteps : Obligations.LinkSteps := by
  unfold Obligations.LinkSteps
  refine ⟨?gone, ?down, ?again, fun p s => rfl, ?notice, ?deaf, ?packet⟩
  case gone =>
    intro d r pkg inc s j hj hnew
    simp only [State.goneOf, if_true, Option.bind_some, State.count_job?, hj, Option.map_some, hnew]
    rfl
  case down =>
    intro p far s hup hlive
    show execLinkDown p far s = _
    rw [execLinkDown, if_neg (by rw [hup, hlive]; decide), State.takeNotice_eq]; rfl
  case again =>
    intro p far s hdown
    show execLinkDown p far s = _
    rw [execLinkDown, if_pos (by rw [hdown]; rfl)]
  case notice =>
    intro p pkg inc s hlive hup
    show execLinkFailureNotice p pkg inc s = _
    rw [execLinkFailureNotice, if_pos (by rw [hlive, hup]; rfl), State.takeNotice_eq]; rfl
  case deaf =>
    intro p pkg inc s hdeaf
    show execLinkFailureNotice p pkg inc s = _
    rw [execLinkFailureNotice, if_neg]
    rcases hdeaf with h | h <;> rw [h] <;> simp
  case packet =>
    intro p k s hlive hup hwaits d t far
    have hfar : far ↔ accessesMemory k.body = true ∧ k.src.extractLsb' 10 3 ≠ s.packageId.extractLsb' 10 3  :=
      and_congr (accessesMemory_iff k.body).symm Iff.rfl
    have hstep : exec (.packetIngress p k) s = _ := packetIngress_eq hlive hup hwaits
    refine ⟨fun hno => hstep.trans (congrArg _ (if_neg ?_)), fun hnear hkey => ?_⟩
    · rcases hno with h | h
      · obtain ⟨hacc, hsrc⟩ := hfar.mp h
        simp [hacc, hsrc]
      · rw [h]; exact Bool.false_ne_true
    · have htake : exec (.packetIngress p k) s = .next (t.accept k) := by
        refine hstep.trans (congrArg _ (if_pos ?_))
        rw [hfar, Classical.not_and_iff_not_or_not, ne_eq, Classical.not_not, Bool.not_eq_true] at hnear
        rw [hkey, Bool.true_and, Bool.or_eq_true, Bool.not_eq_true', beq_iff_eq]
        exact hnear
      rw [htake]
      refine ⟨rfl, fun a n hb hinc hok => ?_, fun a l bad hb hinc hok => ?_, fun a n hb hinc => ?_, fun a l bad hb hinc => ?_, fun o c n slot hb ho => ?_⟩
      all_goals simp only [State.accept, hb]
      · rw [if_pos ⟨hinc, hok⟩]; rfl
      · rw [if_pos ⟨hinc, hok⟩]
      · rw [if_neg fun h => hinc h.1]
      · rw [if_neg fun h => hinc h.1]
      · rw [if_pos ho]; rfl

end Sys2Proof.Machine
end

section
/-! PROOFS. The host's accesses, its snoops and HSDATA (HostSteps). -/

-- In order, so that the one-text compile stays within memory.
set_option Elab.async false

namespace Sys2Proof.Machine
open Sys2Proof

/-! ## Tables and pieces -/

theorem Map.get?_eq_none {α : Type} {m : Map α} {n : Nat} (h : ∀ e ∈ m, e.1 ≠ n) : m.get? n = none := by
  induction m with
  | nil => rfl
  | cons e r ih =>
    rw [Map.get?, if_neg (h e List.mem_cons_self), ih fun x hx => h x (List.mem_cons_of_mem e hx), ite_self]

/-- The entries that a filter leaves hold none of the keys it takes. -/
theorem Map.get?_filter_contains {α : Type} (m : Map α) {keys : List Nat} {n : Nat} (h : n ∈ keys) :
    Map.get? (m.filter fun e => !keys.contains e.1) n = none := by
  refine Map.get?_eq_none fun e he hen => ?_
  have hout := (List.mem_filter.mp he).2
  rw [hen, List.contains_iff_mem.mpr h] at hout
  exact absurd hout (by decide)

/-- Piece i of n bytes from an address: what of them stands in the i-th line. -/
def pieceAt (va n i : Nat) : Option (Nat × Nat) :=
  let lo := if i = 0 then va else (va / 128 + i) * 128
  let hi := min (va + n) ((va / 128 + i + 1) * 128)
  if lo < hi then some (lo % 2 ^ 64, hi - lo) else none

theorem pieces_eq (va n : Nat) : pieces va n = (List.range (n / 128 + 2)).filterMap (pieceAt va n) := rfl

theorem pieceAt_zero {va n : Nat} (hn : 0 < n) (hin : va % 128 + n ≤ 128) : pieceAt va n 0 = some (va % 2 ^ 64, n) := by
  have hhi : min (va + n) ((va / 128 + 0 + 1) * 128) = va + n := by omega
  simp only [pieceAt, if_true, hhi, if_pos (show va < va + n by omega), Nat.add_sub_cancel_left]

theorem pieceAt_succ {va n : Nat} (hin : va % 128 + n ≤ 128) (i : Nat) : pieceAt va n (i + 1) = none := by
  have hlo : ¬(va / 128 + (i + 1)) * 128 < min (va + n) ((va / 128 + (i + 1) + 1) * 128) := by omega
  simp only [pieceAt, if_neg (Nat.succ_ne_zero i), if_neg hlo]

/-- Bytes that stay within a line are one piece. -/
theorem pieces_within_line {va n : Nat} (hn : 0 < n) (hin : va % 128 + n ≤ 128) : pieces va n = [(va % 2 ^ 64, n)] := by
  rw [pieces_eq, List.range_succ_eq_map, List.filterMap_cons, pieceAt_zero hn hin, List.filterMap_map]
  exact congrArg _ (List.filterMap_eq_nil_iff.mpr fun i _ => pieceAt_succ hin i)

/-! ## CXL.cache (R402) -/

/-- The lines of host memory that a snoop reaches, each once. -/
def snoopKeys (a n : Nat) : List Nat := ((pieces a n).map fun p => hostKey p.1).eraseDups

/-- What a snoop finds before it reads or writes: die 0's copies of the lines written back. -/
def State.snooped (s : State) (keys : List Nat) : State :=
  keys.foldl State.writeBack ((keys.filter fun k => (s.masters.get? k).isSome).foldl (fun s k => s.restamp 0 k) s)

theorem mem_snoopKeys {a n : Nat} {p : Nat × Nat} (h : p ∈ pieces a n) : hostKey p.1 ∈ snoopKeys a n :=
  List.mem_eraseDups.mpr (List.mem_map_of_mem h)

theorem forall_snoopKeys {a n : Nat} {P : Nat → Prop} (h : ∀ p ∈ pieces a n, P (hostKey p.1)) : ∀ k ∈ snoopKeys a n, P k := by
  intro k hk
  obtain ⟨p, hp, rfl⟩ := List.mem_map.mp (List.mem_eraseDups.mp hk)
  exact h p hp

/-- Nothing keeps a snoop waiting whose lines die 0 does not hold, or whose rows are not due. -/
theorem State.snoop_goes {s : State} {keys : List Nat} (hdown : s.cxlDown = false) (h : ∀ k ∈ keys, s.masters.get? k = none ∨ s.rowWaits 0 k = false) :
    ¬((s.cxlDown || (keys.filter fun k => (s.masters.get? k).isSome).any (s.rowWaits 0)) = true) := by
  rw [hdown, Bool.false_or, List.any_eq_true]
  rintro ⟨k, hk, hwaits⟩
  obtain ⟨hin, hsome⟩ := List.mem_filter.mp hk
  rcases h k hin with hnone | hfree
  · rw [hnone] at hsome; exact absurd hsome (by decide)
  · exact absurd (hwaits.symm.trans hfree) (by decide)

theorem hostKey_mod (a : Nat) : hostKey a % 3 = 2 := by unfold hostKey; omega

theorem hostKey_line (a : Nat) : hostKey a / 3 * 128 = a / 128 * 128 := by unfold hostKey; omega

/-- One line snooped: written back where die 0 holds it, and its bytes as they were. -/
theorem State.snooped_one (s : State) (a : Nat) : s.snooped [hostKey a] = (match s.masters.get? (hostKey a) with
    | none => s
    | some l => { (s.restamp 0 (hostKey a)).toBacking (hostKey a) l with masters := s.masters.put (hostKey a) { l with dirty := 0 } }) := by
  unfold State.snooped
  cases h : s.masters.get? (hostKey a) with
  | none => simp [State.writeBack, h]
  | some l =>
    have hrest : (s.restamp 0 (hostKey a)).masters = s.masters := rfl
    simp [State.writeBack, h, hrest, hostKey_mod]

theorem State.homeLine_snooped (s : State) (a : Nat) : (s.snooped [hostKey a]).homeLine (hostKey a) = s.homeLine (hostKey a) := by
  rw [State.snooped_one]
  cases h : s.masters.get? (hostKey a) with
  | none => rfl
  | some l => simp only [State.homeLine, Map.get?_put_same, h]

theorem State.toBacking_hostKey {s : State} {l : Line} (a : Nat) (hdirty : l.dirty ≠ 0) :
    (s.toBacking (hostKey a) l).hostMem = s.hostMem.writes (a / 128 * 128) (bytesOf l.data 0 128) := by
  have hkey : hostKey a % 3 ≠ 0 := by rw [hostKey_mod]; decide
  rw [State.toBacking, if_neg (by rw [decide_eq_false hdirty]; exact Bool.false_ne_true), if_neg hkey, if_pos (hostKey_mod a), hostKey_line]

theorem State.toBacking_hostMem_wf {s : State} (key : Nat) (l : Line) (h : s.hostMem.wf = true) : (s.toBacking key l).hostMem.wf = true := by
  rw [State.toBacking]
  by_cases hclean : (decide (l.dirty = 0) && !l.poison) = true
  · rwa [if_pos hclean]
  rw [if_neg hclean]
  by_cases hphys : key % 3 = 0
  · rw [if_pos hphys]; exact h
  rw [if_neg hphys]
  by_cases hhost : key % 3 = 2
  · rw [if_pos hhost]
    have hw := Memory.writes_wf (key / 3 * 128) (bytesOf l.data 0 128) h
    dsimp only
    exact hw
  · rwa [if_neg hhost]

theorem State.writeBack_hostMem_wf {s : State} (key : Nat) (h : s.hostMem.wf = true) : (s.writeBack key).hostMem.wf = true := by
  unfold State.writeBack
  split
  · split
    · exact h
    · exact State.toBacking_hostMem_wf key _ h
  · exact h

theorem State.snooped_hostMem_wf {s : State} (keys : List Nat) (h : s.hostMem.wf = true) : (s.snooped keys).hostMem.wf = true := by
  unfold State.snooped
  refine List.foldlRecOn (motive := fun t : State => t.hostMem.wf = true) keys State.writeBack ?_ fun t ht k _ => State.writeBack_hostMem_wf k ht
  exact List.foldlRecOn (motive := fun t : State => t.hostMem.wf = true) _ _ h fun t ht k _ => ht

/-! ## The obligation -/

theorem hostSnoop_read {a : Nat} {s : State} (hdown : s.cxlDown = false) (ha : a < 2 ^ 64)
    (hfree : s.masters.get? (hostKey a) = none ∨ s.rowWaits 0 (hostKey a) = false) :
    execHostSnoop a none s = .next { s.snooped [hostKey a] with
      hostRead := (bytesOf (s.homeLine (hostKey a)).1 (a % 128) (128 - a % 128)).map fun b => (b, (s.homeLine (hostKey a)).2) } := by
  have hkeys : snoopKeys a (128 - a % 128) = [hostKey a] := by
    rw [snoopKeys, pieces_within_line (by omega) (by omega), Nat.mod_eq_of_lt ha]; rfl
  have hgo := State.snoop_goes (keys := snoopKeys a (128 - a % 128)) hdown (by rw [hkeys]; exact List.forall_mem_singleton.mpr hfree)
  refine (if_neg hgo).trans ?_
  show Host.Outcome.next { s.snooped (snoopKeys a (128 - a % 128)) with
    hostRead := (bytesOf ((s.snooped (snoopKeys a (128 - a % 128))).homeLine (hostKey a)).1 (a % 128) (128 - a % 128)).map
      fun b => (b, ((s.snooped (snoopKeys a (128 - a % 128))).homeLine (hostKey a)).2) } = _
  rw [hkeys, State.homeLine_snooped]

/-- What a host write leaves: die 0's copies gone, the bytes in host memory. -/
def State.hostWritten (s : State) (a : Nat) (l : List Byte) : State :=
  let whole := (pieces a l.length).filterMap fun p => if p.2 = 128 then some (p.1 / 128) else none
  { s with
    masters := s.masters.filter fun e => !(snoopKeys a l.length).contains e.1
    hostMem := s.hostMem.writes a l
    hostPoison := s.hostPoison.filter fun k => !whole.contains k }

theorem hostSnoop_write {a : Nat} {l : List Byte} {s : State} (hdown : s.cxlDown = false)
    (hfree : ∀ p ∈ pieces a l.length, s.masters.get? (hostKey p.1) = none ∨ s.rowWaits 0 (hostKey p.1) = false) :
    execHostSnoop a (some l) s = .next ((s.snooped (snoopKeys a l.length)).hostWritten a l) :=
  if_neg (State.snoop_goes hdown (forall_snoopKeys (P := fun k => s.masters.get? k = none ∨ s.rowWaits 0 k = false) hfree))

/-- Nothing keeps HSDATA waiting. -/
theorem State.hsdata_goes {s : State} (hopen : s.hostOpen = true) (hwaits : s.sysWaits s.hsDie s.hsPlace = false) :
    ¬((!s.hostOpen || s.sysWaits s.hsDie s.hsPlace) = true) := by
  rw [hopen, hwaits]; decide

/-- Settles O45: an access of memory by what the frames serve, a snoop line by line, HSDATA in the order of its statuses. -/
theorem hostSteps : Obligations.HostSteps := by
  unfold Obligations.HostSteps
  refine ⟨?read, ?write, ?readRefused, ?writeRefused, ?snoop, fun a l s => State.toBacking_hostKey a, ?invalidate, ?locked, ?out, ?hsRead, ?hsWrite⟩
  case read =>
    intro a n s hdown hserves hwaits
    show execHostMemAccess a n none s = _
    simp [execHostMemAccess, hdown, hserves, hwaits]
  case write =>
    intro a n l s hdown hserves hwaits
    show execHostMemAccess a n (some l) s = _
    simp [execHostMemAccess, hdown, hserves, hwaits]
  case readRefused =>
    intro a n s hdown hserves
    show execHostMemAccess a n none s = _
    simp only [execHostMemAccess, Option.map_none, Option.getD_none, hdown, hserves]
    rfl
  case writeRefused =>
    intro a n l s hdown hserves
    show execHostMemAccess a n (some l) s = _
    simp only [execHostMemAccess, Option.map_some, Option.getD_some, hdown, hserves]
    rfl
  case snoop =>
    intro a s ha hdown hfree line u
    rw [show u = s.snooped [hostKey a] from (State.snooped_one s a).symm]
    exact hostSnoop_read hdown ha hfree
  case invalidate =>
    intro a l s hdown hfree
    refine ⟨_, hostSnoop_write hdown hfree, fun p hp => ?_, fun hwf i hi => ?_⟩
    · rw [Option.isNone_iff_eq_none]
      exact Map.get?_filter_contains _ (mem_snoopKeys hp)
    · obtain ⟨-, hhost⟩ := hwf
      exact Memory.read_writes a i l (State.snooped_hostMem_wf _ hhost) hi
  case locked =>
    intro s hopen hwaits hlock
    exact ⟨(if_neg (State.hsdata_goes hopen hwaits)).trans (if_pos hlock), fun v => (if_neg (State.hsdata_goes hopen hwaits)).trans (if_pos hlock)⟩
  case out =>
    intro s hopen hwaits hlock hout
    have hunlocked : ¬(s.die s.hsDie).lockstat.getLsbD 2 = true := by rw [hlock]; decide
    exact ⟨⟨s.hsOpen, (if_neg (State.hsdata_goes hopen hwaits)).trans ((if_neg hunlocked).trans (if_pos hout))⟩,
      fun v => (if_neg (State.hsdata_goes hopen hwaits)).trans ((if_neg hunlocked).trans (if_pos hout))⟩
  case hsRead =>
    intro s v t hopen hwaits hlock hout hread
    show execHsdataRead s = _
    simp only [execHsdataRead, hopen, hwaits, hlock, hout, hread]; rfl
  case hsWrite =>
    intro s v x t hopen hwaits hlock hout hheld hwrite
    show execHsdataWrite v s = _
    simp only [execHsdataWrite, hopen, hwaits, hlock, hout, hheld, hwrite]; rfl

end Sys2Proof.Machine
end

section
/-! PROOFS. Attestation, reset and start-up (AttestationAndBootSteps). -/

-- In order, so that the one-text compile stays within memory.
set_option Elab.async false

namespace Sys2Proof.Machine
open Sys2Proof

/-- A KEY_EXCHANGE that the responder does not refuse begins its session, and leaves the other as it was. -/
theorem keyExchange_begins {fabric : Bool} {req chain : List Byte} {s : State} (halg : s.spdm.algorithms = true)
    (hgood : ¬((fabric = true ∧ digest (Config.rootCertificate chain) ≠ Config.fmRoot) ∨ (fabric = false ∧ s.cxlDown = true))) :
    execKeyExchange fabric req chain s =
      let u := s.answer req (Config.slhSign (s.spdm.transcript ++ req))
      let ses : Option (List Byte × Bool) := some (Config.sessionKey u.spdm.sessions u.spdm.transcript, false)
      .next { u with spdm := { u.spdm with
        sessions := u.spdm.sessions + 1
        mailbox := if fabric then u.spdm.mailbox else ses
        fabric := if fabric then ses else u.spdm.fabric } } := by
  refine if_neg ?_
  rw [halg]
  cases fabric <;> simpa using hgood

theorem keyExchange_refused {fabric : Bool} {req chain : List Byte} {s : State}
    (hbad : (fabric = true ∧ digest (Config.rootCertificate chain) ≠ Config.fmRoot) ∨ (fabric = false ∧ s.cxlDown = true)) :
    execKeyExchange fabric req chain s = .next s.unexpected := by
  refine if_pos ?_
  rcases hbad with ⟨rfl, h⟩ | ⟨rfl, h⟩ <;> simp [h]

/-- A FINISH that proves the session's key opens it; another leaves it as it was. -/
theorem finish_session {fabric b : Bool} {req key : List Byte} {s : State} (hs : (if fabric then s.spdm.fabric else s.spdm.mailbox) = some (key, b)) :
    ∃ t, execFinish fabric req s = .next t ∧
      (if fabric then t.spdm.fabric else t.spdm.mailbox) = some (key, b || Config.finishProves key s.spdm.transcript req) := by
  simp only [execFinish, hs]
  cases hproof : Config.finishProves key s.spdm.transcript req with
  | true =>
    refine ⟨_, if_pos rfl, ?_⟩
    cases fabric <;> simp
  | false =>
    refine ⟨_, if_neg Bool.false_ne_true, ?_⟩
    rw [Bool.or_false]; exact hs

/-- A loss of power leaves each die as a package reset does, or with its dependence counters. -/
theorem powerLoss_die (s : State) : ∃ t, execPowerLoss s = .next t ∧ t = { s.packageReset false with lpddr := [], lpPoison := [], dies := t.dies } ∧
    ∀ d, t.die d = (s.packageReset false).die d ∨ t.die d = { (s.packageReset false).die d with dcs := (s.die d).dcs } := by
  refine ⟨_, rfl, rfl, fun d => ?_⟩
  by_cases hcleared : Config.freeNat s.free (2 ^ 29 + d.val) % 2 = 0
  · left; simp only [State.die, Fin.getElem_fin, Vector.getElem_ofFn, if_pos hcleared]
  · right; simp only [State.die, Fin.getElem_fin, Vector.getElem_ofFn, if_neg hcleared]

/-- Settles O46: each request by the state of its session, a start's two steps by BOOT. -/
theorem attestationAndBootSteps : Obligations.AttestationAndBootSteps := by
  unfold Obligations.AttestationAndBootSteps
  refine ⟨fun req s => ⟨_, rfl, rfl, rfl⟩, fun req s => rfl, ?algorithms, ?agreed, ?measured, ?keys, fun fabric req s key b => finish_session, ?extended,
    fun trip s => rfl, powerLoss_die, ?image, ?firmware, ?recovery⟩
  case algorithms =>
    intro req s hversion
    exact ⟨_, congrArg Host.Outcome.next (if_pos hversion), rfl⟩
  case agreed =>
    intro req s halg
    exact ⟨congrArg Host.Outcome.next (if_pos halg), congrArg Host.Outcome.next (if_pos halg), congrArg Host.Outcome.next (if_pos halg)⟩
  case measured =>
    intro req s halg hfirst
    show execGetMeasurements req s = _
    rw [execGetMeasurements, halg, hfirst]; rfl
  case keys =>
    intro fabric req chain s halg u
    by_cases hbad : (fabric = true ∧ digest (Config.rootCertificate chain) ≠ Config.fmRoot) ∨ (fabric = false ∧ s.cxlDown = true)
    case pos => exact ⟨_, keyExchange_refused hbad, by rw [if_pos hbad]⟩
    case neg =>
      refine ⟨_, keyExchange_begins halg hbad, ?_⟩
      rw [if_neg hbad]
      cases fabric <;> exact ⟨rfl, rfl, rfl, rfl⟩
  case extended =>
    intro d i data s hlive hstarted hopen
    show execMeasurementExtend d i data s = _
    rw [execMeasurementExtend, hlive, hstarted, hopen]; rfl
  case image =>
    intro image sig version s hboot
    refine ⟨Config.freeNat s.free (2 ^ 29 + 4) % 2 = 1, (if_pos hboot).trans ?_⟩
    by_cases hlong : 2 ^ 26 < image.length
    · rw [if_neg (Nat.not_le.mpr hlong)]; exact congrArg _ (if_pos hlong)
    · rw [if_pos (Nat.not_lt.mp hlong)]; exact congrArg _ (if_neg hlong)
  case firmware =>
    intro other sig version s hboot image
    have hzero : s.boot ≠ 0 := by rw [hboot]; decide
    refine (if_neg hzero).trans ((if_pos hboot).trans ?_)
    by_cases hgood : Config.slhVerify Config.firmwareKey image sig = true ∧ Config.minVersion ≤ version
    · rw [if_pos hgood]
      obtain ⟨hsig, hnew⟩ := hgood
      refine if_neg ?_
      rw [not_or]
      exact ⟨fun h => absurd (hsig.symm.trans h) (by decide), Nat.not_lt.mpr hnew⟩
    · rw [if_neg hgood]
      refine if_pos ?_
      rwa [Classical.not_and_iff_not_or_not, Bool.not_eq_true, Nat.not_le] at hgood
  case recovery =>
    intro image s hboot hup hshort
    refine if_neg ?_
    rw [not_or, not_or, Classical.not_not]
    exact ⟨hboot, by rw [hup]; decide, Nat.not_lt.mpr hshort⟩

end Sys2Proof.Machine
end

section
/-! PROOFS. Views of a package: what an operation leaves, and the issue of a word whose whole effect is a result (R33, R79, R110). -/

-- In order, so that the one-text compile stays within memory.
set_option Elab.async false

namespace Sys2Proof.Machine
open Sys2Proof

/-! ## Views of the dies -/

/-- An element of a vector replaced by one of the same view leaves the view. -/
theorem Vector.map_set_eq {α β : Type} {n : Nat} {v : Vector α n} {i : Nat} (hi : i < n) {a : α} {φ : α → β} (h : φ a = φ v[i]) :
    (v.set i a hi).map φ = v.map φ := by
  ext k hk
  simp only [Vector.getElem_map, Vector.getElem_set]
  split
  next hik => subst hik; exact h
  next => rfl

theorem updAt_view {α β : Type} {n : Nat} {v : Vector α n} {i : Nat} {f : α → α} {φ : α → β} (h : ∀ a, v[i]? = some a → φ (f a) = φ a) :
    (updAt v i f).map φ = v.map φ := by
  ext k hk
  rw [Vector.getElem_map, Vector.getElem_map, updAt_getElem v i f k hk]
  split
  next hik => subst hik; exact h _ (Vector.getElem?_eq_getElem hk)
  next => rfl

theorem State.updDie_view {α : Type} {φ : Die → α} {s : State} {d : DieId} {f : Die → Die} (h : φ (f (s.die d)) = φ (s.die d)) :
    (s.updDie d f).dies.map φ = s.dies.map φ :=
  Vector.map_set_eq d.isLt h

/-! ## What an issue leaves -/

theorem State.updDie_rest {s : State} {d : DieId} {f : Die → Die} (h : (f (s.die d)).rest = (s.die d).rest) : (s.updDie d f).rest = s.rest :=
  congrArg (fun v : Vector Die 4 => ({ s with dies := v, free := 0 } : State)) (State.updDie_view h)

theorem State.updJob_rest {s : State} {d : DieId} {r : Nat} {f : Job → Job} (h : ∀ j, s.job? d r = some j → (f j).rest = j.rest) :
    (s.updJob d r f).rest = s.rest := by
  refine State.updDie_rest (congrArg (fun v => { (s.die d).rest with recs := v }) (updAt_view fun y hy => ?_))
  have hjob : s.job? d r = y.job := congrArg (·.bind (·.job)) hy
  cases hj : y.job with
  | none => simp only [Option.map_none]
  | some j => simp only [Option.map_some, h j (hjob.trans hj)]

theorem State.updJobOf_rest {s : State} {w : Who} {f : Job → Job} (h : ∀ j, s.jobOf? w = some j → (f j).rest = j.rest) :
    (s.updJobOf w f).rest = s.rest := by
  cases w with
  | sys d => rfl
  | eng d c k e =>
    show (match s.slotRec? d c k with | some r => s.updJob d r f | none => s).rest = s.rest
    cases hr : s.slotRec? d c k with
    | none => rfl
    | some r =>
      refine State.updJob_rest fun j hj => h j ?_
      rw [State.jobOf?, State.slotJob?, hr]; exact hj

/-- What two streams that rest alike leave of a job is alike. -/
theorem Job.rest_setStream {j : Job} {e : Fin 5} {st : Stream} (h : st.rest = (j.streams[e]).rest) :
    ({ j with streams := j.streams.set e st } : Job).rest = j.rest :=
  congrArg (fun v => { j.rest with streams := v }) (Vector.map_set_eq e.isLt h)

theorem State.updStream_rest {s : State} {w : Who} {f : Stream → Stream} (h : ∀ st, (f st).rest = st.rest) : (s.updStream w f).rest = s.rest := by
  cases w with
  | sys d => exact State.updDie_rest (congrArg (fun st => { (s.die d).rest with sys := { (s.die d).sys with stream := st } }) (h _))
  | eng d c k e =>
    show (match s.slotRec? d c k with | some r => s.updJob d r _ | none => s).rest = s.rest
    cases s.slotRec? d c k with
    | none => rfl
    | some r => exact State.updJob_rest fun j _ => Job.rest_setStream (h _)

/-- A change of a core that shows neither in its L1 nor in the cycles its engines issued in. -/
theorem State.updCore_rest {s : State} {d : DieId} {c : CoreId} {f : Core → Core}
    (h : ∀ x : Core, { f x with arbs := (f x).arbs.map fun (a : Arb) => { a with lastIssue := none }, l1 := [], fills := [] } =
      { x with arbs := x.arbs.map fun (a : Arb) => { a with lastIssue := none }, l1 := [], fills := [] }) :
    (s.updCore d c f).rest = s.rest :=
  State.updDie_rest (congrArg (fun v => { (s.die d).rest with cores := v }) (Vector.map_set_eq c.isLt (h _)))

theorem State.lineByte_of_rest {s t : State} (h : t.rest = s.rest) (key i : Nat) : t.lineByte key i = s.lineByte key i := by
  show t.rest.lineByte key i = s.rest.lineByte key i
  rw [h]

theorem Stream.loopEnd_rest (st : Stream) : st.loopEnd.rest = st.rest := by
  unfold Stream.loopEnd
  split
  · rfl
  · dsimp only; split <;> rfl

theorem State.acquireTokens_rest (s : State) : s.acquireTokens.rest = s.rest := by
  unfold State.acquireTokens
  split
  next heng => rw [heng]; exact State.updCore_rest fun _ => rfl
  next => rfl

theorem State.acquireTokens_or_rest (s : State) (none : Prop) {_ : Decidable none} : (if none then s else s.acquireTokens).rest = s.rest := by
  split
  · rfl
  · exact s.acquireTokens_rest

theorem State.updStr_rest {s : State} {f : Stream → Stream} (h : ∀ st, (f st).rest = st.rest) : (s.updStr f).rest = s.rest := State.updStream_rest h

/-- One pop of tokens, with what the stream acquires by it. -/
theorem State.popToks_rest (s : State) (x y : Engine) (n : Nat) :
    ((s.updJb fun _ => (s.jb.popToks x y n).1).updStr fun st => { st with cov := st.cov ++ (s.jb.popToks x y n).2 }).rest = s.rest := by
  refine (State.updStr_rest (s := s.updJb _) (f := fun st => { st with cov := st.cov ++ (s.jb.popToks x y n).2 }) fun _ => rfl).trans
    (State.updJobOf_rest fun j hj => ?_)
  rw [show s.jb = j from congrArg (·.getD {}) hj]
  rfl

theorem State.popMask_rest (s : State) (e : Engine) (m : BitVec 4) (extra : Option (Engine × Nat)) : (s.popMask e m extra).rest = s.rest := by
  unfold State.popMask
  exact List.foldlRecOn (motive := fun t : State => t.rest = s.rest) _ _ (s.acquireTokens_or_rest _) fun t ht p _ => (State.popToks_rest t _ _ _).trans ht

theorem State.popped_rest (s : State) (h : Hdr) (extra : Option (Engine × Nat)) : (s.popped h extra).rest = s.rest := by
  unfold State.popped
  split
  · exact s.popMask_rest _ _ _
  · rfl

theorem State.launchWord_rest (s : State) (tks : BitVec 4) (land : Option Nat) (effs : List Eff) (work : Work) :
    (s.launchWord tks land effs work).rest = s.rest :=
  State.updStr_rest fun _ => rfl

/-- The engine of an issue is taken, its job has made progress. -/
theorem State.engineTaken_rest (s : State) (d : DieId) (c : CoreId) (e : Engine) (now : Nat) :
    ((s.updCore d c fun x => { x with arbs := updAt x.arbs e.idx.val fun a => { a with lastIssue := some now } }).updJb fun j => { j with stall := 0 }).rest =
      s.rest := by
  refine (State.updJobOf_rest (f := fun j => { j with stall := 0 }) fun _ _ => rfl).trans (State.updCore_rest fun x => ?_)
  exact congrArg (fun v => ({ x with arbs := v, l1 := [], fills := [] } : Core)) (updAt_view fun _ _ => rfl)

/-- Where a stream goes after a word. -/
def Stream.goes (now : Nat) (flow : Flow) (st : Stream) : Stream :=
  let st := { st with last := max st.last now }
  match flow with
  | .fall => st.loopEnd
  | .jump pc => { st with pc := pc }
  | .stay => st

theorem Stream.goes_rest (now : Nat) (flow : Flow) (st : Stream) : (st.goes now flow).rest = st.rest := by
  cases flow with
  | fall => exact Stream.loopEnd_rest _
  | jump pc => rfl
  | stay => rfl

theorem State.finish_rest (s : State) (flow : Flow) : (s.finish flow).rest = s.rest := by
  have hstr : (s.updStr (Stream.goes s.now flow)).rest = s.rest := State.updStr_rest (Stream.goes_rest _ _)
  have hfree (u : State) : ({ u with free := u.free + 1 } : State).rest = u.rest := rfl
  unfold State.finish
  refine (hfree _).trans ?_
  split
  · exact (State.engineTaken_rest _ _ _ _ s.now).trans hstr
  · exact hstr

/-! ## Words whose whole effect is a result (R33, R110) -/

/-- Does the word's outcome leave, of every state, what an issue leaves? -/
def leavesRest (f : State → Host.Outcome State Fault Refusal) : Prop := ∀ s t, f s = .next t → t.rest = s.rest

theorem runWord_leavesRest {i : Instr} {h : Hdr} {ready : State → Bool} {body : Body} (hb : ∀ u, ∃ r, body u = .ok r ∧ r.1.rest = u.rest) :
    leavesRest (runWord i h ready body) := by
  intro s t ht
  unfold runWord at ht
  split at ht
  next => cases ht
  next =>
    split at ht
    case isFalse => exact (Host.Outcome.next.inj ht) ▸ rfl
    case isTrue =>
      obtain ⟨r, hr, hrest⟩ := hb (s.popped h (extraPop i))
      rw [hr] at ht
      obtain rfl := Host.Outcome.next.inj ht
      exact (State.finish_rest _ _).trans (hrest.trans (s.popped_rest _ _))

theorem results_rest (h : Hdr) (lat : Nat) (effs : List Eff) (s : State) : ∃ r, results h lat effs s = .ok r ∧ r.1.rest = s.rest :=
  ⟨_, rfl, s.launchWord_rest _ _ _ _⟩

theorem asNop_rest (h : Hdr) (s : State) : ∃ r, asNop h s = .ok r ∧ r.1.rest = s.rest := ⟨_, rfl, s.launchWord_rest _ _ _ _⟩

theorem runGuarded_leavesRest {i : Instr} {h : Hdr} {g : Guard} {ready : State → Bool} {body : Body}
    (hb : ∀ u, ∃ r, body u = .ok r ∧ r.1.rest = u.rest) : leavesRest (runGuarded i h g ready body) := by
  refine runWord_leavesRest fun u => ?_
  split
  · exact hb u
  · exact asNop_rest h u

/-- A conversion between formats of its own does not stop. -/
theorem execFcvt_leavesRest {h : Hdr} {g : Guard} {d s1 src dst : BitVec 5} {rnd : BitVec 3} {sat fin : Bool} (hown : src.toNat ≤ 8 ∧ dst.toNat ≤ 8) :
    leavesRest (execFcvt h g d s1 src dst rnd sat fin) := by
  refine runGuarded_leavesRest fun u => ?_
  rw [if_neg (by omega)]
  exact results_rest _ _ _ u

section
variable {i : Instr} {h : Hdr} {g : Guard}

theorem intRR_leavesRest {op lat : Nat} {d s1 s2 : BitVec 5} : leavesRest (intRR i op lat h g d s1 s2) :=
  runGuarded_leavesRest fun u => results_rest _ _ _ u

theorem intRI_leavesRest {op lat : Nat} {d s1 : BitVec 5} {b : Word} : leavesRest (intRI i op lat h g d s1 b) :=
  runGuarded_leavesRest fun u => results_rest _ _ _ u

theorem cmpTo_leavesRest {cond : Word → Word → Bool} {pd : BitVec 3} {s1 : BitVec 5} {b : State → Word} : leavesRest (cmpTo i cond h g pd s1 b) :=
  runGuarded_leavesRest fun u => results_rest _ _ _ u

theorem predOp_leavesRest {f : Bool → Bool → Bool} {pd ps1 ps2 : BitVec 3} : leavesRest (predOp i f h g pd ps1 ps2) :=
  runGuarded_leavesRest fun u => results_rest _ _ _ u

theorem fpOp_leavesRest {d : BitVec 5} {f : State → Nat × FlagSet} : leavesRest (fpOp i h g d f) :=
  runGuarded_leavesRest fun u => results_rest _ _ _ u

theorem fpCmp_leavesRest {cond : Nat} {pd : BitVec 3} {s1 s2 : BitVec 5} {fmt2 : BitVec 2} : leavesRest (fpCmp i cond h g pd s1 s2 fmt2) :=
  runGuarded_leavesRest fun u => results_rest _ _ _ u

end

theorem registerWord_leavesRest {i : Instr} (hi : registerWord i = true) : leavesRest (exec i) := by
  cases i
  case fcvt =>
    delta exec
    dsimp only
    exact execFcvt_leavesRest (of_decide_eq_true hi)
  case nop =>
    delta exec
    dsimp only
    delta execNop
    exact runWord_leavesRest fun u => asNop_rest _ u
  case prep | prepr | movi | movhi =>
    delta exec
    dsimp only
    delta execPrep execPrepr execMovi execMovhi
    exact runWord_leavesRest fun u => results_rest _ _ _ u
  case sel | clz | ctz | popc | pset | pget | tsread =>
    delta exec
    dsimp only
    delta execSel execClz execCtz execPopc execPset execPget execTsread
    exact runGuarded_leavesRest fun u => results_rest _ _ _ u
  case add | sub | mul | mulh | mulhu | div | divu | rem | remu | and | or | xor | shl | shr | sar | min | minu | max | maxu =>
    delta exec
    dsimp only
    delta execAdd execSub execMul execMulh execMulhu execDiv execDivu execRem execRemu execAnd execOr execXor execShl execShr execSar
      execMin execMinu execMax execMaxu
    exact intRR_leavesRest
  case addi | andi | ori | xori | muli | shli | shri | sari =>
    delta exec
    dsimp only
    delta execAddi execAndi execOri execXori execMuli execShli execShri execSari
    exact intRI_leavesRest
  case ceq | cne | clt | cltu | cle | cleu | ceqi | cnei | clti | cgei =>
    delta exec
    dsimp only
    delta execCeq execCne execClt execCltu execCle execCleu execCeqi execCnei execClti execCgei
    exact cmpTo_leavesRest
  case pand | por | pxor | pandn =>
    delta exec
    dsimp only
    delta execPand execPor execPxor execPandn
    exact predOp_leavesRest
  case fadd | fsub | fmul | ffma | fmin | fmax =>
    delta exec
    dsimp only
    delta execFadd execFsub execFmul execFfma execFmin execFmax
    exact fpOp_leavesRest
  case fceq | fclt | fcle =>
    delta exec
    dsimp only
    delta execFceq execFclt execFcle
    exact fpCmp_leavesRest
  all_goals exact absurd hi Bool.false_ne_true

end Sys2Proof.Machine
end

section
/-! PROOFS. The frame of a landing result (R30-R33, R110, R112). -/

-- In order, so that the one-text compile stays within memory.
set_option Elab.async false

namespace Sys2Proof.Machine
open Sys2Proof

/-- An effect on a stream's registers does not see what an issue may change of it. -/
theorem Stream.applyEff_rest (now : Nat) (st : Stream) (e : Eff) : (st.applyEff now e).rest = st.rest.applyEff now e := by
  cases e
  case x | p => simp only [Stream.applyEff]; split <;> rfl
  case csr => simp only [Stream.applyEff]; split; · rfl
              split <;> rfl
  all_goals rfl

theorem Stream.foldl_applyEff_rest (now : Nat) (effs : List Eff) (st : Stream) :
    (effs.foldl (Stream.applyEff now) st).rest = effs.foldl (Stream.applyEff now) st.rest := by
  induction effs generalizing st with
  | nil => rfl
  | cons e r ih => rw [List.foldl_cons, List.foldl_cons, ih, Stream.applyEff_rest]

/-! ## Changes of one place that follow each other, or that rest alike -/

theorem State.updDie_updDie (s : State) (d : DieId) (f g : Die → Die) : (s.updDie d f).updDie d g = s.updDie d (g ∘ f) := by
  simp only [State.updDie, Fin.getElem_fin, Vector.getElem_set_self, Vector.set_set, Function.comp_apply]

theorem updAt_updAt {α : Type} {n : Nat} (v : Vector α n) (i : Nat) (f g : α → α) : updAt (updAt v i f) i g = updAt v i (g ∘ f) := by
  ext k hk
  simp only [updAt_getElem _ _ _ _ hk]
  split <;> rfl

theorem State.updJob_updJob (s : State) (d : DieId) (r : Nat) (f g : Job → Job) : (s.updJob d r f).updJob d r g = s.updJob d r (g ∘ f) := by
  refine (State.updDie_updDie s d _ _).trans ?_
  simp only [State.updJob, Function.comp_def, updAt_updAt, Option.map_map]

theorem Job.setStream_setStream (j : Job) (e : Fin 5) (f g : Stream → Stream) :
    (let y : Job := { j with streams := j.streams.set e (f (j.streams[e])) }; { y with streams := y.streams.set e (g (y.streams[e])) } : Job) =
      { j with streams := j.streams.set e (g (f (j.streams[e]))) } := by
  simp only [Fin.getElem_fin, Vector.getElem_set_self, Vector.set_set]

theorem State.updStream_updStream (s : State) (w : Who) (f g : Stream → Stream) : (s.updStream w f).updStream w g = s.updStream w (g ∘ f) := by
  cases w with
  | sys d =>
    exact State.updDie_updDie s d (fun x => { x with sys := { x.sys with stream := f x.sys.stream } })
      (fun x => { x with sys := { x.sys with stream := g x.sys.stream } })
  | eng d c k e =>
    cases hr : s.slotRec? d c k with
    | none => simp only [State.updStream, hr]
    | some r =>
      simp only [State.updStream, hr, State.updJob_slotRec?, State.updJob_updJob]
      exact congrArg (s.updJob d r) (funext fun j => Job.setStream_setStream j e.idx f g)

theorem State.updDie_rest_congr {s : State} {d : DieId} {f g : Die → Die} (h : (f (s.die d)).rest = (g (s.die d)).rest) :
    (s.updDie d f).rest = (s.updDie d g).rest := by
  refine congrArg (fun v : Vector Die 4 => ({ s with dies := v, free := 0 } : State)) ?_
  simp only [State.updDie, Vector.map_set]
  exact congrArg (fun x => (Vector.map Die.rest s.dies).set d.val x) h

theorem State.updJob_rest_congr {s : State} {d : DieId} {r : Nat} {f g : Job → Job} (h : ∀ j, (f j).rest = (g j).rest) :
    (s.updJob d r f).rest = (s.updJob d r g).rest := by
  refine State.updDie_rest_congr (congrArg (fun v => { (s.die d).rest with recs := v }) ?_)
  ext k hk
  simp only [Vector.getElem_map, updAt_getElem _ _ _ _ hk]
  split <;> simp [Function.comp_def, h]

theorem State.updStream_rest_congr {s : State} {w : Who} {f g : Stream → Stream} (h : ∀ st, (f st).rest = (g st).rest) :
    (s.updStream w f).rest = (s.updStream w g).rest := by
  cases w with
  | sys d => exact State.updDie_rest_congr (congrArg (fun st => { (s.die d).rest with sys := { (s.die d).sys with stream := st } }) (h _))
  | eng d c k e =>
    cases hr : s.slotRec? d c k with
    | none => simp only [State.updStream, hr]
    | some r =>
      simp only [State.updStream, hr]
      refine State.updJob_rest_congr fun j => congrArg (fun v => { j.rest with streams := v }) ?_
      simp only [Vector.map_set, h]

/-! ## A result lands -/

/-- Effects on a stream's registers leave its job alone, and its die. -/
theorem Job.applyEff_streamEff {effs : List Eff} (h : effs.all streamEff = true) (j : Job) : effs.foldl Job.applyEff j = j := by
  refine List.foldlRecOn (motive := fun y => y = j) effs Job.applyEff rfl fun y hy e he => ?_
  have heff := List.all_eq_true.mp h e he
  cases e
  case x | p | b | flags => exact hy
  all_goals exact absurd heff Bool.false_ne_true

theorem Die.putCsr_streamEff {effs : List Eff} (h : effs.all streamEff = true) (x : Die) :
    effs.foldl (fun x e => match e with
      | .csr n v => x.putCsr n v
      | _ => x) x = x := by
  refine List.foldlRecOn (motive := fun y => y = x) effs _ rfl fun y hy e he => ?_
  have heff := List.all_eq_true.mp h e he
  cases e
  case csr => exact absurd heff Bool.false_ne_true
  all_goals exact hy

/-- The effects of a result are written: its stream's registers, and nothing else that rests. -/
theorem State.landEffs_rest {s : State} {w : Who} {id : Nat} {effs : List Eff} (h : effs.all streamEff = true) :
    (s.landEffs w id effs).rest = (s.updStream w fun st => effs.foldl (Stream.applyEff (s.timeOf w)) st).rest := by
  have hstream : (((s.updStream w fun st => { st with flights := silence id effs st.flights }).updStream w fun st =>
      effs.foldl (Stream.applyEff (s.timeOf w)) st)).rest = (s.updStream w fun st => effs.foldl (Stream.applyEff (s.timeOf w)) st).rest := by
    rw [State.updStream_updStream]
    refine State.updStream_rest_congr fun st => ?_
    rw [Function.comp_apply, Stream.foldl_applyEff_rest, Stream.foldl_applyEff_rest]; rfl
  refine Eq.trans ?_ hstream
  unfold State.landEffs State.applyEffs
  rw [State.updStream_timeOf]
  cases w with
  | eng d c k e => exact State.updJobOf_rest fun j _ => congrArg Job.rest (Job.applyEff_streamEff h j)
  | sys d => exact State.updDie_rest (congrArg Die.rest (Die.putCsr_streamEff h _))

theorem State.updStream_slotJob? (s : State) (d : DieId) (c : CoreId) (k : SlotId) (e : Engine) (f : Stream → Stream) :
    (s.updStream (.eng d c k e) f).slotJob? d c k = (s.slotJob? d c k).map fun j => { j with streams := j.streams.set e.idx (f (j.streams[e.idx])) } :=
  State.updJobOf_slotJob? s d c k e _

/-- Landing leaves the tokens of the job. -/
theorem State.landEffs_tokens {s : State} {d : DieId} {c : CoreId} {k : SlotId} {e : Engine} {id : Nat} {effs : List Eff} (h : effs.all streamEff = true)
    {j : Job} (hj : (s.landEffs (.eng d c k e) id effs).slotJob? d c k = some j) : ∃ y, s.slotJob? d c k = some y ∧ y.tokens = j.tokens := by
  unfold State.landEffs State.applyEffs at hj
  rw [State.updJobOf_slotJob?, State.updStream_slotJob?, State.updStream_slotJob?, Option.map_map, Option.map_map, Option.map_eq_some_iff] at hj
  obtain ⟨y, hy, rfl⟩ := hj
  refine ⟨y, hy, ?_⟩
  simp only [Function.comp_apply, Job.applyEff_streamEff h]

/-- No token queue the word sends into overflows. -/
def State.sendsFit (s : State) (w : Who) (f : Flight) : Prop :=
  ∀ d c k e j, w = .eng d c k e → s.slotJob? d c k = some j → ∀ p ∈ f.sends e, (j.toks e p.1).length + p.2 ≤ 15

/-- Tokens sent, and the cycle noted, rest. -/
theorem Job.sendToks_rest (j : Job) (e : Engine) (sends : List (Engine × Nat)) (now : Nat) (tok : Tok) :
    (sends.foldl (fun (j : Job) p => { j with tokens := updAt j.tokens (tokIdx e p.1) fun l => l ++ List.replicate p.2 tok })
      { j with ended := now }).rest = j.rest :=
  List.foldlRecOn (motive := fun y : Job => y.rest = j.rest) sends _ rfl fun _ hy _ _ => hy

/-- A word whose tokens fit completes: but for its results nothing that rests changes. -/
theorem State.complete_rest {s : State} {w : Who} {f : Flight} (h : f.effs.all streamEff = true) (hfit : s.sendsFit w f) :
    (s.complete w f).rest = (s.updStream w fun st => f.effs.foldl (Stream.applyEff (s.timeOf w)) st).rest := by
  refine Eq.trans ?_ (State.landEffs_rest (id := f.id) h)
  unfold State.complete
  cases w with
  | sys d => exact State.updStream_rest (f := fun st => st.drop f.id) fun _ => rfl
  | eng d c k e =>
    dsimp only
    split
    next => rfl
    next j hj =>
      have hroom : ¬((f.sends e).any fun p => decide (15 < (j.toks e p.1).length + p.2)) = true := by
        obtain ⟨y, hy, htok⟩ := State.landEffs_tokens h hj
        rw [List.any_eq_true]
        rintro ⟨p, hp, hover⟩
        have hle := hfit d c k e y rfl hy p hp
        rw [Job.toks, htok] at hle
        exact absurd (of_decide_eq_true hover) (Nat.not_lt.mpr hle)
      rw [if_neg hroom]
      exact (State.updStream_rest (f := fun st => st.drop f.id) fun _ => rfl).trans (State.updJobOf_rest fun y _ => Job.sendToks_rest y e _ _ _)

/-! ## The obligation -/

section
variable {w : Who} {id : Nat} {s : State} {f : Flight} (hf : s.flight? w id = some f) (hh : f.halted = false) (hw : f.work = .fixed)
  (hl : f.landed (s.timeOf w) = true)
include hf hh hw hl

theorem resultLanding_fixed : execResultLanding w id s = .next (s.complete w f) := by
  simp only [execResultLanding, hf, hh, hw, hl, Bool.not_true, Bool.false_eq_true, if_false]

end

/-- A write of a register leaves the others. -/
theorem Stream.applyEff_x_ne (now : Nat) (st : Stream) {d r : BitVec 5} (v : Word) (h : r ≠ d) :
    (st.applyEff now (.x d v)).x[r.toNat]? = st.x[r.toNat]? := by
  simp only [Stream.applyEff]
  split
  · rfl
  · exact Vector.getElem?_setIfInBounds_ne fun he => h (BitVec.eq_of_toNat_eq he.symm)

/-- Settles O58: the word completes, and of an effect on its stream only the register it names changes. -/
theorem landingWritesItsRegistersOnly : Obligations.LandingWritesItsRegistersOnly := by
  unfold Obligations.LandingWritesItsRegistersOnly
  refine ⟨?landing, fun now st d v r hr => Stream.applyEff_x_ne now st v hr, ?x, ?p, fun now st fl => ⟨rfl, rfl, rfl, rfl, rfl, rfl, rfl⟩⟩
  case landing =>
    intro w id s f t hf hh hw hl hreg hfit hstep
    obtain rfl : s.complete w f = t := Host.Outcome.next.inj ((resultLanding_fixed hf hh hw hl).symm.trans hstep)
    have hrest := State.complete_rest hreg hfit
    refine ⟨hrest, fun key i => (State.lineByte_of_rest hrest key i).trans ?_⟩
    simp only [State.lineByte, State.homeLine, State.backing, State.updStream_masters, State.updStream_lpddr, State.updStream_hostMem,
      State.updStream_lpPoison, State.updStream_hostPoison]
  case x =>
    intro now st d v
    simp only [Stream.applyEff]
    split <;> exact ⟨rfl, rfl, rfl, rfl, rfl, rfl⟩
  case p =>
    intro now st d v
    simp only [Stream.applyEff]
    split <;> exact ⟨rfl, rfl, rfl, rfl, rfl, rfl⟩

end Sys2Proof.Machine
end

section
/-! PROOFS. The frame of an access: what no read or write of memory changes but in memory itself (R33, R110, R228). -/

-- In order, so that the one-text compile stays within memory.
set_option Elab.async false

namespace Sys2Proof.Machine
open Sys2Proof

/-- A stream's registers. -/
def Stream.regs (st : Stream) : Vector Word 32 × Vector Bool 8 × Vector Word 4 × BitVec 5 × BitVec 3 := (st.x, st.p, st.b, st.fstat, st.rmode)

/-- What of a job an access leaves: its stores, its streams' registers, its copy channels. -/
structure JobFrame where
  stores : Job
  regs : Vector (Vector Word 32 × Vector Bool 8 × Vector Word 4 × BitVec 5 × BitVec 3) 5
  chans : Vector Channel 4

def Job.frame (j : Job) : JobFrame := { stores := j.stores, regs := j.streams.map Stream.regs, chans := j.chans }

/-- What of a die an access leaves: its jobs' frames, its groves' stores, the records in its slots, its system core's registers. -/
structure DieFrame where
  jobs : Vector (Option JobFrame) 128
  groves : Vector (Memory × List Nat × Vector TileQ 16) 8
  slots : Vector (Vector (Option Nat) 2) 64
  started : Bool
  sys : Vector Word 32 × Vector Bool 8 × Vector Word 4 × BitVec 5 × BitVec 3

def Die.frame (x : Die) : DieFrame :=
  { jobs := x.recs.map fun r => r.job.map Job.frame, groves := x.groves.map fun g => (g.sram, g.sramPoison, g.tqs)
    slots := x.cores.map (·.slots), started := x.sys.started, sys := x.sys.stream.regs }

def State.frame (s : State) : Vector DieFrame 4 := s.dies.map Die.frame

/-! ## What the frame holds -/

theorem State.frame_die {s t : State} (h : t.frame = s.frame) (d : DieId) : (t.die d).frame = (s.die d).frame := by
  have hd : t.frame[d] = s.frame[d] := by rw [h]
  simpa [State.frame, State.die] using hd

theorem State.stores_of_frame {s t : State} (h : t.frame = s.frame) : t.stores = s.stores := by
  have hstores (u : State) : u.stores = u.frame.map fun x => (x.jobs.map (·.map JobFrame.stores), x.groves) := by
    simp only [State.stores, State.frame, Vector.map_map]
    refine congrArg (u.dies.map ·) (funext fun x => ?_)
    simp only [Function.comp_apply, Die.frame, Vector.map_map, Option.map_map, Function.comp_def, Job.frame]
  rw [hstores, hstores, h]

theorem State.slotRec?_of_frame {s t : State} (h : t.frame = s.frame) (d : DieId) (c : CoreId) (k : SlotId) : t.slotRec? d c k = s.slotRec? d c k := by
  have hslots := congrArg (fun x : DieFrame => (x.slots[c])[k]) (State.frame_die h d)
  simpa [Die.frame, State.slotRec?, State.core] using hslots

theorem State.job?_of_frame {s t : State} (h : t.frame = s.frame) (d : DieId) (r : Nat) : (t.job? d r).map Job.frame = (s.job? d r).map Job.frame := by
  have hjobs := congrArg (fun x : DieFrame => (x.jobs[r]?).bind id) (State.frame_die h d)
  simpa [Die.frame, State.job?, Option.bind_map, Function.comp_def, Option.map_bind] using hjobs

theorem State.slotJob?_of_frame {s t : State} (h : t.frame = s.frame) (d : DieId) (c : CoreId) (k : SlotId) :
    (t.slotJob? d c k).map Job.frame = (s.slotJob? d c k).map Job.frame := by
  unfold State.slotJob?
  rw [State.slotRec?_of_frame h]
  cases s.slotRec? d c k with
  | none => rfl
  | some r => exact State.job?_of_frame h d r

theorem State.regsOf_of_frame {s t : State} (h : t.frame = s.frame) (w : Who) : t.regsOf w = s.regsOf w := by
  cases w with
  | eng d c k e =>
    have hjob := congrArg (Option.map fun x : JobFrame => x.regs[e.idx]) (State.slotJob?_of_frame h d c k)
    simpa [State.regsOf, State.stream?, Option.map_map, Function.comp_def, Job.frame, Stream.regs] using hjob
  | sys d =>
    have hdie := State.frame_die h d
    have hstarted : (t.sysc d).started = (s.sysc d).started := congrArg DieFrame.started hdie
    have hregs : (t.sysc d).stream.regs = (s.sysc d).stream.regs := congrArg DieFrame.sys hdie
    simp only [State.regsOf, State.stream?, hstarted]
    split
    · exact congrArg some hregs
    · rfl

theorem Job.rest_frame (j : Job) : j.rest.frame = j.frame := by
  simp only [Job.frame, Job.rest, Job.stores, Vector.map_map]
  rfl

theorem Die.rest_frame (x : Die) : x.rest.frame = x.frame := by
  simp only [Die.frame, Die.rest, Vector.map_map, Function.comp_def, Option.map_map, Job.rest_frame]
  rfl

/-- What an issue leaves holds the frame. -/
theorem State.frame_of_rest {s t : State} (h : t.rest = s.rest) : t.frame = s.frame := by
  have hrest (u : State) : u.rest.frame = u.frame := by
    simp only [State.frame, State.rest, Vector.map_map, Function.comp_def, Die.rest_frame]
  exact (hrest t).symm.trans ((congrArg State.frame h).trans (hrest s))

/-! ## What leaves the frame -/

theorem State.updDie_frame {s : State} {d : DieId} {f : Die → Die} (h : (f (s.die d)).frame = (s.die d).frame) : (s.updDie d f).frame = s.frame :=
  State.updDie_view h

theorem State.updCore_frame {s : State} {d : DieId} {c : CoreId} {f : Core → Core} (h : ∀ x, (f x).slots = x.slots) : (s.updCore d c f).frame = s.frame :=
  State.updDie_frame (congrArg (fun v => { (s.die d).frame with slots := v }) (Vector.map_set_eq c.isLt (h _)))

theorem State.updJob_frame {s : State} {d : DieId} {r : Nat} {f : Job → Job} (h : ∀ j, (f j).frame = j.frame) : (s.updJob d r f).frame = s.frame := by
  refine State.updDie_frame (congrArg (fun v => { (s.die d).frame with jobs := v }) (updAt_view fun y _ => ?_))
  cases y.job with
  | none => rfl
  | some j => exact congrArg some (h j)

theorem State.updJobOf_frame {s : State} {w : Who} {f : Job → Job} (h : ∀ j, (f j).frame = j.frame) : (s.updJobOf w f).frame = s.frame := by
  unfold State.updJobOf
  split
  · split
    · exact State.updJob_frame h
    · rfl
  · rfl

theorem State.updStream_frame {s : State} {w : Who} {f : Stream → Stream} (h : ∀ st, (f st).regs = st.regs) : (s.updStream w f).frame = s.frame := by
  cases w with
  | sys d => exact State.updDie_frame (congrArg (fun v => { (s.die d).frame with sys := v }) (h _))
  | eng d c k e =>
    exact State.updJobOf_frame (w := .eng d c k e) (f := fun j => { j with streams := j.streams.set e.idx (f (j.streams[e.idx])) }) fun j =>
      congrArg (fun v => { j.frame with regs := v }) (Vector.map_set_eq e.idx.isLt (h _))

/-- A fold keeps the frame when each of its steps does. -/
theorem State.foldl_frame {α : Type} {l : List α} {f : State → α → State} (h : ∀ s a, (f s a).frame = s.frame) (s : State) : (l.foldl f s).frame = s.frame :=
  List.foldlRecOn (motive := fun t : State => t.frame = s.frame) l f rfl fun t ht a _ => (h t a).trans ht

end Sys2Proof.Machine
end

section
/-! PROOFS. The operations of memory leave the frame (R222-R231, R244, R261-R263). -/

-- In order, so that the one-text compile stays within memory.
set_option Elab.async false

namespace Sys2Proof.Machine
open Sys2Proof

/-! ## Lines at their homes change no die -/

theorem State.toBacking_dies (s : State) (key : Nat) (l : Line) : (s.toBacking key l).dies = s.dies := by
  unfold State.toBacking
  dsimp only
  split; · rfl
  split; · rfl
  split <;> rfl

theorem State.evictMaster_dies (s : State) (key : Nat) : (s.evictMaster key).dies = s.dies := by
  unfold State.evictMaster
  split
  · split
    · rfl
    · exact s.toBacking_dies key _
  · rfl

theorem State.evictFor_dies (s : State) (d : DieId) : (s.evictFor d).dies = s.dies := by
  unfold State.evictFor
  split
  · rfl
  · dsimp only; split
    · exact s.evictMaster_dies _
    · rfl

theorem State.enter_dies (s : State) (key : Nat) (l : Line) : (s.enter key l).dies = s.dies := by
  unfold State.enter
  split
  · rfl
  · dsimp only; split
    · exact (State.toBacking_dies _ key l).trans (s.evictFor_dies _)
    · exact s.evictFor_dies _

theorem State.masterWrite_dies (s : State) (key off : Nat) (home : DieId) (data : List Byte) (poison : Bool) :
    (s.masterWrite key off home data poison).dies = s.dies :=
  s.enter_dies key _

theorem State.frame_of_dies {s t : State} (h : t.dies = s.dies) : t.frame = s.frame := congrArg (Vector.map Die.frame) h

/-! ## A die's cache, rows and translations -/

theorem State.restamp_frame (s : State) (d : DieId) (key : Nat) : (s.restamp d key).frame = s.frame := State.updDie_frame rfl

theorem State.restampTable_frame (s : State) (key : Nat) : (s.restampTable key).frame = s.frame := by
  unfold State.restampTable
  split
  · split
    · exact s.restamp_frame _ _
    · rfl
  · rfl

theorem State.tlbFill_frame (s : State) (d : DieId) (c : CoreId) (asn : BitVec 8) (b : BitVec 12) (o : Nat) (l : Leaf) (incarn : BitVec 16) :
    (s.tlbFill d c asn b o l incarn).frame = s.frame :=
  State.updCore_frame fun _ => rfl

theorem State.mergeCopy_frame (s : State) (d : DieId) (key : Nat) (drop : Bool) : (s.mergeCopy d key drop).frame = s.frame := by
  unfold State.mergeCopy
  split
  next => rfl
  next c _ =>
    refine (State.updDie_frame rfl).trans ?_
    split
    · exact State.frame_of_dies (s.masterWrite_dies key _ _ _ _)
    · refine State.foldl_frame (fun t i => ?_) s
      split
      · exact State.frame_of_dies (t.masterWrite_dies key _ _ _ _)
      · rfl

theorem State.makeRoom_frame (s : State) (d : DieId) : (s.makeRoom d).frame = s.frame := by
  have hevict : (s.evictFor d).frame = s.frame := State.frame_of_dies (s.evictFor_dies d)
  unfold State.makeRoom
  dsimp only
  split
  · exact hevict
  · split
    · exact (State.mergeCopy_frame _ d _ true).trans hevict
    · exact hevict

theorem State.count_frame (s : State) (d : DieId) (off n : Nat) : (s.count d off n).frame = s.frame := State.updDie_frame rfl

theorem State.sample_frame (s : State) (d : DieId) (kind unit x : Nat) : (s.sample d kind unit x).frame = s.frame := State.updDie_frame rfl

theorem State.sampleMiss_frame (s : State) (w : Who) (p : Place) : (s.sampleMiss w p).frame = s.frame := by
  unfold State.sampleMiss
  split
  · split
    · rfl
    · exact s.sample_frame _ _ _ _
  · rfl

theorem State.sampleLoad_frame (s : State) (w : Who) (va : Nat) : (s.sampleLoad w va).frame = s.frame := by
  unfold State.sampleLoad
  split
  · split
    · exact s.sample_frame _ _ _ _
    · rfl
  · rfl

theorem State.touchRow_frame (s : State) (d : DieId) (p : Place) : (s.touchRow d p).frame = s.frame := by
  unfold State.touchRow
  split
  · exact s.restamp_frame _ _
  · rfl

theorem State.touchCopy_frame (s : State) (d : DieId) (asn : BitVec 8) (p : Place) : (s.touchCopy d asn p).frame = s.frame := by
  unfold State.touchCopy
  split
  next =>
    split; · rfl
    split; · rfl
    split; · rfl
    exact (State.updDie_frame rfl).trans (s.makeRoom_frame d)
  next => rfl

theorem State.writePlace_frame (s : State) (d : DieId) (asn : BitVec 8) (p : Place) (data : List Byte) (poison : Bool) :
    (s.writePlace d asn p data poison).frame = s.frame := by
  unfold State.writePlace
  split
  next =>
    split
    · refine (State.updDie_frame rfl).trans ?_
      split
      · rfl
      · exact s.makeRoom_frame d
    · exact State.frame_of_dies (s.masterWrite_dies _ _ _ _ _)
  next => rfl

theorem State.l1Fill_frame (s : State) (d : DieId) (c : CoreId) (key : Nat) (v : BitVec 1024) (poison : Bool) : (s.l1Fill d c key v poison).frame = s.frame :=
  State.updCore_frame fun _ => rfl

theorem State.storeL1_frame (s : State) (d : DieId) (c : CoreId) (p : Place) (data : List Byte) (poison : Bool) :
    (s.storeL1 d c p data poison).frame = s.frame := by
  unfold State.storeL1
  split
  · rfl
  · exact State.updCore_frame fun _ => rfl

theorem State.loadL1_frame (s : State) (d : DieId) (c : CoreId) (asn : BitVec 8) (p : Place) (n : Nat) (fill : Bool) :
    (s.loadL1 d c asn p n fill).2.2.frame = s.frame := by
  unfold State.loadL1
  split; · rfl
  split; · rfl
  dsimp only
  split
  · exact (State.l1Fill_frame _ _ _ _ _ _).trans (s.touchCopy_frame _ _ _)
  · exact s.touchCopy_frame _ _ _

end Sys2Proof.Machine
end

section
/-! PROOFS. Operations that leave every line of memory and every die's copies (R223, R244, R363), and the completion of a word (R30-R33, R202). -/

-- In order, so that the one-text compile stays within memory.
set_option Elab.async false

namespace Sys2Proof.Machine
open Sys2Proof

/-- Every line at its home, the memory behind them, and every die's copies. -/
structure Lines where
  masters : Map Line
  lpddr : Memory
  lpPoison : List Nat
  hostMem : Memory
  hostPoison : List Nat
  copies : Vector (Map Copy) 4

def State.lines (s : State) : Lines :=
  { masters := s.masters, lpddr := s.lpddr, lpPoison := s.lpPoison, hostMem := s.hostMem, hostPoison := s.hostPoison, copies := s.dies.map (·.copies) }

/-! ## What the lines hold -/

section
variable {s t : State} (h : t.lines = s.lines)
include h

theorem State.masters_of_lines : t.masters = s.masters := congrArg Lines.masters h

theorem State.copies_of_lines (d : DieId) : (t.die d).copies = (s.die d).copies := by
  have hd := congrArg (fun x : Lines => x.copies[d]) h
  simpa [State.lines, State.die] using hd

theorem State.backing_of_lines (key : Nat) : t.backing key = s.backing key := by
  have hlp : t.lpddr = s.lpddr := congrArg Lines.lpddr h
  have hlpp : t.lpPoison = s.lpPoison := congrArg Lines.lpPoison h
  have hhost : t.hostMem = s.hostMem := congrArg Lines.hostMem h
  have hhostp : t.hostPoison = s.hostPoison := congrArg Lines.hostPoison h
  simp only [State.backing, hlp, hlpp, hhost, hhostp]

theorem State.homeLine_of_lines (key : Nat) : t.homeLine key = s.homeLine key := by
  simp only [State.homeLine, State.masters_of_lines h, State.backing_of_lines h]

theorem State.lineByte_of_lines (key i : Nat) : t.lineByte key i = s.lineByte key i := by
  simp only [State.lineByte, State.homeLine_of_lines h]

theorem State.readPlace_of_lines (d : DieId) (p : Place) (n : Nat) : t.readPlace d p n = s.readPlace d p n := by
  cases p <;> simp only [State.readPlace, State.homeLine_of_lines h, State.copies_of_lines h]

theorem State.cacheFull_of_lines (d : DieId) : t.cacheFull d = s.cacheFull d := by
  simp only [State.cacheFull, State.masters_of_lines h, State.copies_of_lines h]

end

theorem State.lines_of_rest {s t : State} (h : t.rest = s.rest) : t.lines = s.lines := by
  have hrest (u : State) : u.rest.lines = u.lines := by
    simp only [State.lines, State.rest, Vector.map_map]
    rfl
  exact (hrest t).symm.trans ((congrArg State.lines h).trans (hrest s))

/-! ## What leaves the lines -/

theorem State.updDie_lines {s : State} {d : DieId} {f : Die → Die} (h : (f (s.die d)).copies = (s.die d).copies) : (s.updDie d f).lines = s.lines :=
  congrArg (fun v => { s.lines with copies := v }) (State.updDie_view (φ := Die.copies) h)

theorem State.updJobOf_lines (s : State) (w : Who) (f : Job → Job) : (s.updJobOf w f).lines = s.lines := by
  unfold State.updJobOf
  split
  · split
    · exact State.updDie_lines rfl
    · rfl
  · rfl

theorem State.updStream_lines (s : State) (w : Who) (f : Stream → Stream) : (s.updStream w f).lines = s.lines := by
  cases w with
  | sys d => exact State.updDie_lines rfl
  | eng d c k e => exact s.updJobOf_lines (.eng d c k e) _

theorem State.restampTable_lines (s : State) (key : Nat) : (s.restampTable key).lines = s.lines := by
  unfold State.restampTable
  split
  · split
    · exact State.updDie_lines rfl
    · rfl
  · rfl

theorem State.sampleMiss_lines (s : State) (w : Who) (p : Place) : (s.sampleMiss w p).lines = s.lines := by
  unfold State.sampleMiss
  split
  · split
    · rfl
    · exact State.updDie_lines rfl
  · rfl

theorem State.sampleLoad_lines (s : State) (w : Who) (va : Nat) : (s.sampleLoad w va).lines = s.lines := by
  unfold State.sampleLoad
  split
  · split
    · exact State.updDie_lines rfl
    · rfl
  · rfl

theorem State.touchRow_lines (s : State) (d : DieId) (p : Place) : (s.touchRow d p).lines = s.lines := by
  unfold State.touchRow
  split
  · exact State.updDie_lines rfl
  · rfl

theorem State.storeL1_lines (s : State) (d : DieId) (c : CoreId) (p : Place) (data : List Byte) (poison : Bool) :
    (s.storeL1 d c p data poison).lines = s.lines := by
  unfold State.storeL1
  split
  · rfl
  · exact State.updDie_lines rfl

/-! ## Both -/

/-- Nothing of the frame and nothing of memory changes. -/
def State.sameBut (s t : State) : Prop := t.frame = s.frame ∧ t.lines = s.lines

theorem State.sameBut.refl (s : State) : s.sameBut s := ⟨rfl, rfl⟩

theorem State.sameBut.trans {s t u : State} (h : s.sameBut t) (h' : t.sameBut u) : s.sameBut u := ⟨h'.1.trans h.1, h'.2.trans h.2⟩

theorem State.sameBut_of_rest {s t : State} (h : t.rest = s.rest) : s.sameBut t := ⟨State.frame_of_rest h, State.lines_of_rest h⟩

theorem State.walk_sameBut (s : State) (l : List Nat) : s.sameBut (l.foldl State.restampTable s) :=
  List.foldlRecOn (motive := fun t : State => s.sameBut t) l _ (.refl s) fun t ht key _ =>
    ht.trans ⟨t.restampTable_frame key, t.restampTable_lines key⟩

/-! ## Translation in its parts (R223) -/

/-- The segment entry, the buffer and the offset of an address. -/
def State.segOf (s : State) (d : DieId) (asn : BitVec 8) (va : Nat) : BitVec 256 := s.seg d asn (BitVec.ofNat 12 (va / 2 ^ 52))

/-- The leaf that an earlier translation of the access or the TLB gives. -/
def State.xHit (s : State) (d : DieId) (c : Option CoreId) (asn : BitVec 8) (va : Nat) (pre : Option TlbEntry) : Option Leaf :=
  match pre.filter fun t => t.covers asn (BitVec.ofNat 12 (va / 2 ^ 52)) (va % 2 ^ 52), c with
  | some t, _ => some t.leaf
  | none, some c => s.tlbHit d c asn (BitVec.ofNat 12 (va / 2 ^ 52)) (va % 2 ^ 52)
  | none, none => none

/-- The leaf of an address, and whether its code belongs to its level. -/
def State.xFound (s : State) (d : DieId) (c : Option CoreId) (asn : BitVec 8) (va : Nat) (pre : Option TlbEntry) : Option (Leaf × Bool) :=
  match s.xHit d c asn va pre with
  | some l => some (l, true)
  | none => s.walk (va % 2 ^ 52) (segKind (s.segOf d asn va) == 0 || segKind (s.segOf d asn va) == 3) 5 (segRoot (s.segOf d asn va))

/-- The rows a walk touched renewed, its leaf in the TLB. -/
def State.xWalked (s : State) (d : DieId) (c : Option CoreId) (asn : BitVec 8) (va : Nat) (pre : Option TlbEntry) (l : Leaf) : State :=
  let t := if (s.xHit d c asn va pre).isNone then (s.walkLines (va % 2 ^ 52) 5 (segRoot (s.segOf d asn va))).foldl State.restampTable s else s
  match s.xHit d c asn va pre, c with
  | none, some c => t.tlbFill d c asn (BitVec.ofNat 12 (va / 2 ^ 52)) (va % 2 ^ 52) l (if segKind (s.segOf d asn va) = 2 then segIncarn (s.segOf d asn va) else 0)
  | _, _ => t

/-- The place of an unbacked line, and of a leaf's. -/
def State.xUnbacked (s : State) (d : DieId) (asn : BitVec 8) (va : Nat) : Place :=
  if s.live (segHome (s.segOf d asn va)) then
    .line (ubKey asn (BitVec.ofNat 12 (va / 2 ^ 52)) (va % 2 ^ 52 / 128)) (va % 2 ^ 52 % 128) (segHome (s.segOf d asn va)) (segSwm (s.segOf d asn va)) false true
  else .dead
def State.xPlace (s : State) (e : BitVec 256) (va : Nat) (l : Leaf) : Place :=
  let a := l.frame * 4096 + va % 2 ^ 52 % (4096 * 4 ^ l.size)
  if segKind e = 1 then (if s.live 0 then .line (hostKey a) (a % 128) 0 false l.poison false else .dead)
  else if segKind e = 2 then .remote (segTarget e) (segIncarn e) (l.die.val * 2 ^ 37 + a) (segPksel e) (segAdp e) l.poison
  else if s.live (segHome e) && s.live l.die then .line (physKey (l.die.val * 2 ^ 37 + a)) (a % 128) (segHome e) (segSwm e) l.poison false
  else .dead

theorem State.translate_eq (s : State) (d : DieId) (c : Option CoreId) (asn : BitVec 8) (va n : Nat) (write : Bool) (pre : Option TlbEntry) :
    s.translate d c asn va n write pre =
      if BitVec.ofNat 12 (va / 2 ^ 52) = 0 ∨ BitVec.ofNat 12 (va / 2 ^ 52) = 4095 ∨ segLen (s.segOf d asn va) = 0 ∨
          segLen (s.segOf d asn va) < va % 2 ^ 52 + n then .error .seg
      else if write && !segW (s.segOf d asn va) then .error .prot
      else if segKind (s.segOf d asn va) = 3 ∧ ¬segHasRoot (s.segOf d asn va) then .ok (s.xUnbacked d asn va, s)
      else match s.xFound d c asn va pre with
        | none => if segKind (s.segOf d asn va) = 3 then .ok (s.xUnbacked d asn va, s) else .error .xlate
        | some (l, ok) =>
          if !ok || l.frame % 4 ^ l.size != 0 then .error .xlate
          else if !write && !l.r then .error .prot
          else if write && (!l.w || l.poison) then .error .prot
          else .ok ((s.xWalked d c asn va pre l).xPlace (s.segOf d asn va) va l, s.xWalked d c asn va pre l) := rfl

theorem State.xWalked_sameBut (s : State) (d : DieId) (c : Option CoreId) (asn : BitVec 8) (va : Nat) (pre : Option TlbEntry) (l : Leaf) :
    s.sameBut (s.xWalked d c asn va pre l) := by
  have hrows (none : Prop) {_ : Decidable none} (ls : List Nat) : s.sameBut (if none then ls.foldl State.restampTable s else s) := by
    split
    · exact s.walk_sameBut ls
    · exact .refl s
  unfold State.xWalked
  dsimp only
  split
  · exact (hrows _ _).trans ⟨State.tlbFill_frame _ _ _ _ _ _ _ _, State.updDie_lines rfl⟩
  · exact hrows _ _

/-- A translation renews the rows it walks and fills the TLB; of the rest it changes nothing. -/
theorem State.translate_sameBut {s s1 : State} {d : DieId} {c : Option CoreId} {asn : BitVec 8} {va n : Nat} {write : Bool} {pre : Option TlbEntry}
    {p : Place} (h : s.translate d c asn va n write pre = .ok (p, s1)) : s.sameBut s1 := by
  rw [State.translate_eq] at h
  split at h; · cases h
  split at h; · cases h
  split at h
  · cases h; exact .refl s
  split at h
  · split at h
    · cases h; exact .refl s
    · cases h
  · split at h; · cases h
    split at h; · cases h
    split at h; · cases h
    cases h
    exact s.xWalked_sameBut _ _ _ _ _ _

end Sys2Proof.Machine
end

section
/-! PROOFS. The frame of an issue: words of results, LDX and STX, and their stops (R33, R79, R80, R110, R247). -/

-- In order, so that the one-text compile stays within memory.
set_option Elab.async false

namespace Sys2Proof.Machine
open Sys2Proof

/-! ## Stops of an engine's stream -/

theorem Job.trap_frame (j : Job) (e : Nat) (pc : Word) (st : Stop) (bare : Word × Word) (now id : Nat) : (j.trap e pc st bare now id).frame = j.frame := by
  unfold Job.trap
  dsimp only
  split
  · rfl
  · split <;> rfl
  · split <;> rfl
  · rfl

theorem State.updJobOf_sameBut {s : State} {w : Who} {f : Job → Job} (h : ∀ j, (f j).frame = j.frame) : s.sameBut (s.updJobOf w f) :=
  ⟨State.updJobOf_frame h, s.updJobOf_lines w f⟩

theorem State.updStream_sameBut {s : State} {w : Who} {f : Stream → Stream} (h : ∀ st, (f st).regs = st.regs) : s.sameBut (s.updStream w f) :=
  ⟨State.updStream_frame h, s.updStream_lines w f⟩

theorem State.dropPreempt_sameBut (s : State) (w : Who) (now : Nat) : s.sameBut (s.dropPreempt w now) := by
  unfold State.dropPreempt
  split
  · split
    · exact ⟨State.updCore_frame fun _ => rfl, State.updDie_lines rfl⟩
    · exact .refl s
  · exact .refl s

theorem State.countStop_sameBut (s : State) (w : Who) (st : Stop) : s.sameBut (s.countStop w st) := by
  unfold State.countStop
  split
  · exact ⟨s.count_frame _ _ _, State.updDie_lines rfl⟩
  · exact .refl s

theorem State.stopAt_eng (s : State) (d : DieId) (c : CoreId) (k : SlotId) (e : Engine) (pc : Word) (st : Stop) (id : Option Nat) :
    let u := s.countStop (.eng d c k e) st
    s.stopAt (.eng d c k e) pc st id = (u.dropPreempt (.eng d c k e) (u.timeOf (.eng d c k e))).updJobOf (.eng d c k e) fun j =>
      j.trap e.idx.val pc st (u.bare (whoSite (.eng d c k e))) (u.timeOf (.eng d c k e)) (id.getD (j.streams[e.idx]).nextId) := rfl

/-- A stop of an engine's stream writes its job's trap registers and phase. -/
theorem State.stopAt_sameBut (s : State) (d : DieId) (c : CoreId) (k : SlotId) (e : Engine) (pc : Word) (st : Stop) (id : Option Nat) :
    s.sameBut (s.stopAt (.eng d c k e) pc st id) := by
  rw [State.stopAt_eng]
  exact ((s.countStop_sameBut _ st).trans (State.dropPreempt_sameBut _ _ _)).trans (State.updJobOf_sameBut fun j => Job.trap_frame j _ _ _ _ _ _)

theorem State.stopFlight_sameBut (s : State) (d : DieId) (c : CoreId) (k : SlotId) (e : Engine) (f : Flight) (st : Stop) :
    s.sameBut (s.stopFlight (.eng d c k e) f st) := by
  unfold State.stopFlight
  refine State.sameBut.trans ?_ (State.stopAt_sameBut _ d c k e f.pc st f.id)
  exact State.updStream_sameBut fun _ => rfl

theorem State.stopIssue_sameBut {s : State} {d : DieId} {c : CoreId} {k : SlotId} {e : Engine} (hcur : s.cur = .eng d c k e) (st : Stop) :
    s.sameBut (s.stopIssue st) := by
  have hstop := s.stopAt_sameBut d c k e s.str.pc st none
  rw [← hcur] at hstop
  exact hstop

/-! ## Words whose body changes nothing but their stream's place -/

theorem runWord_sameBut {i : Instr} {h : Hdr} {ready : State → Bool} {body : Body} {s t : State} {d : DieId} {c : CoreId} {k : SlotId} {e : Engine}
    (hb : ∀ u r, body u = .ok r → u.sameBut r.1) (hcur : s.cur = .eng d c k e) (ht : runWord i h ready body s = .next t) : s.sameBut t := by
  unfold runWord at ht
  split at ht; · cases ht
  split at ht
  case isFalse => cases ht; exact .refl s
  case isTrue =>
    split at ht
    next st _ => cases ht; exact State.stopIssue_sameBut hcur st
    next r hr =>
      cases ht
      exact ((State.sameBut_of_rest (s.popped_rest _ _)).trans (hb _ r hr)).trans (State.sameBut_of_rest (State.finish_rest _ _))

theorem asNop_sameBut {h : Hdr} {s : State} {r : State × Flow} (hr : asNop h s = .ok r) : s.sameBut r.1 := by
  cases hr
  exact State.sameBut_of_rest (s.launchWord_rest _ _ _ _)

theorem runGuarded_sameBut {i : Instr} {h : Hdr} {g : Guard} {ready : State → Bool} {body : Body} {s t : State} {d : DieId} {c : CoreId} {k : SlotId}
    {e : Engine} (hb : ∀ u r, body u = .ok r → u.sameBut r.1) (hcur : s.cur = .eng d c k e) (ht : runGuarded i h g ready body s = .next t) : s.sameBut t := by
  refine runWord_sameBut (fun u r hr => ?_) hcur ht
  split at hr
  · exact hb u r hr
  · exact asNop_sameBut hr

/-! ## LDX and STX -/

theorem State.firstPage_sameBut {s u : State} {va n : Nat} {write : Bool} (h : s.firstPage va n write = .ok u) : s.sameBut u := by
  unfold State.firstPage at h
  split at h
  next => cases h
  next htr => cases h; exact State.translate_sameBut htr

theorem Job.touchBuf_frame (j : Job) (b : BitVec 12) (f : BufCount → BufCount) : (j.touchBuf b f).frame = j.frame := by
  unfold Job.touchBuf
  split; · rfl
  split; · rfl
  split <;> rfl

theorem State.updStr_sameBut {s : State} {f : Stream → Stream} (h : ∀ st, (f st).regs = st.regs) : s.sameBut (s.updStr f) := State.updStream_sameBut h

theorem State.touched_sameBut (s : State) (wk : Work) : s.sameBut (s.touched wk) := by
  unfold State.touched
  split
  · exact State.updJobOf_sameBut fun j => j.touchBuf_frame _ _
  · exact .refl s

/-- What an access notes at its issue (R226, R251). -/
def noteAccess (id : Nat) (page : Option TlbEntry) (held : Bool) (st : Stream) : Stream := st.updFlight id fun f => { f with page := page, waited := held }

theorem State.launchAccess_eq (s : State) (tks : BitVec 4) (wk : Work) : ∃ page held,
    s.launchAccess tks wk = .ok (((s.touched wk).launchWord tks none [] wk).updStr (noteAccess (s.touched wk).str.nextId page held), .fall) :=
  ⟨_, _, rfl⟩

theorem State.launchAccess_sameBut {s : State} {tks : BitVec 4} {wk : Work} {r : State × Flow} (h : s.launchAccess tks wk = .ok r) : s.sameBut r.1 := by
  obtain ⟨page, held, heq⟩ := s.launchAccess_eq tks wk
  rw [heq] at h
  obtain rfl := Except.ok.inj h
  exact ((s.touched_sameBut wk).trans (State.sameBut_of_rest (State.launchWord_rest _ tks none [] wk))).trans
    (State.updStr_sameBut (f := noteAccess _ page held) fun _ => rfl)

section
variable {s t : State} {d : DieId} {c : CoreId} {k : SlotId} {e : Engine} {h : Hdr} {g : Guard} {r base : BitVec 5} {size : BitVec 2} {off : BitVec 19}
  (hcur : s.cur = .eng d c k e)
include hcur

theorem ldx_sameBut {sx : Bool} (ht : exec (.ldx h g r base size sx off) s = .next t) : s.sameBut t := by
  change execLdx h g r base size sx off s = .next t at ht
  unfold execLdx at ht
  refine runGuarded_sameBut (fun u x hx => ?_) hcur ht
  dsimp only at hx
  split at hx; · cases hx
  split at hx
  next => cases hx
  next hpage => exact (State.firstPage_sameBut hpage).trans (State.launchAccess_sameBut hx)

theorem stx_sameBut (ht : exec (.stx h g r base size off) s = .next t) : s.sameBut t := by
  change execStx h g r base size off s = .next t at ht
  unfold execStx at ht
  refine runGuarded_sameBut (fun u x hx => ?_) hcur ht
  dsimp only at hx
  split at hx; · cases hx
  split at hx
  next => cases hx
  next hpage => exact (State.firstPage_sameBut hpage).trans (State.launchAccess_sameBut hx)

end

/-- What two states that share frame and memory agree on. -/
theorem State.sameBut.views {s t : State} (h : s.sameBut t) : (∀ key b, t.lineByte key b = s.lineByte key b) ∧ (∀ x, (t.die x).copies = (s.die x).copies) ∧
    t.stores = s.stores ∧ ∀ w, t.regsOf w = s.regsOf w := by
  obtain ⟨hframe, hlines⟩ := h
  exact ⟨State.lineByte_of_lines hlines, State.copies_of_lines hlines, State.stores_of_frame hframe, State.regsOf_of_frame hframe⟩

/-- Settles O59: an issue changes its stream's place, what it pops and counts, and an access its buffer's count and its translation. -/
theorem issueLeavesRegistersAndMemory : Obligations.IssueLeavesRegistersAndMemory := by
  unfold Obligations.IssueLeavesRegistersAndMemory
  refine ⟨fun i s t hi ht => ?_, fun h g d base size sx off s t die c k e hcur ht => (ldx_sameBut hcur ht).views,
    fun h g r base size off s t die c k e hcur ht => (stx_sameBut hcur ht).views⟩
  have hrest := registerWord_leavesRest hi s t ht
  exact ⟨hrest, State.lineByte_of_rest hrest⟩

end Sys2Proof.Machine
end

section
/-! PROOFS. The bytes of a line and a table's other entries under a write (R228, R245, R261). -/

-- In order, so that the one-text compile stays within memory.
set_option Elab.async false

namespace Sys2Proof.Machine
open Sys2Proof

/-! ## Bytes of a line -/

/-- Byte j of a run of bytes, as a number, gives its bits from 8 j on. -/
theorem testBit_leNat (l : List Byte) {j : Nat} (hj : j < l.length) {b : Nat} (hb : b < 8) : (leNat l).testBit (8 * j + b) = l[j].getLsbD b := by
  induction l generalizing j with
  | nil => simp at hj
  | cons x r ih =>
    have hsplit : leNat (x :: r) = 2 ^ 8 * leNat r + x.toNat := by rw [leNat]; omega
    rw [hsplit, Nat.testBit_two_pow_mul_add _ x.isLt]
    cases j with
    | zero => rw [if_pos (by omega), Nat.mul_zero, Nat.zero_add]; rfl
    | succ j =>
      rw [if_neg (by omega), show 8 * (j + 1) + b - 8 = 8 * j + b by omega, ih (Nat.lt_of_succ_lt_succ hj)]
      rfl

/-- Bits lo to lo + n - 1 replaced. -/
theorem getLsbD_setBits {w : Nat} (v : BitVec w) (lo n x i : Nat) (hi : i < w) :
    (setBits v lo n x).getLsbD i = if lo ≤ i ∧ i < lo + n then x.testBit (i - lo) else v.getLsbD i := by
  have hmask : (2 ^ n - 1).testBit (i - lo) = decide (i - lo < n) := Nat.testBit_two_pow_sub_one n (i - lo)
  have hval : (x % 2 ^ n).testBit (i - lo) = (decide (i - lo < n) && x.testBit (i - lo)) := Nat.testBit_mod_two_pow x n (i - lo)
  simp only [setBits, BitVec.getLsbD_or, BitVec.getLsbD_and, BitVec.getLsbD_not, BitVec.getLsbD_shiftLeft, BitVec.getLsbD_ofNat, hi, decide_true,
    Bool.true_and, hmask, hval]
  by_cases hlo : i < lo
  · simp [hlo, show ¬lo ≤ i by omega]
  · by_cases hn : i - lo < n
    · simp [hlo, hn, show lo ≤ i ∧ i < lo + n by omega, show i - lo < w by omega]
    · simp [hlo, hn, show ¬i < lo + n by omega]

theorem bytesOf_length (v : BitVec 1024) (off n : Nat) : (bytesOf v off n).length = n := by simp [bytesOf]

theorem bytesOf_one (v : BitVec 1024) (i : Nat) : bytesOf v i 1 = [v.extractLsb' (8 * i) 8] := rfl

/-- A byte outside what is written stands. -/
theorem bytesOf_putBytes_ne (v : BitVec 1024) {off i : Nat} (l : List Byte) (hi : i < 128) (hout : i < off ∨ off + l.length ≤ i) :
    bytesOf (putBytes v off l) i 1 = bytesOf v i 1 := by
  rw [bytesOf_one, bytesOf_one]
  refine congrArg (fun b => [b]) (BitVec.eq_of_getLsbD_eq fun b hb => ?_)
  rw [BitVec.getLsbD_extractLsb', BitVec.getLsbD_extractLsb', putBytes, getLsbD_setBits _ _ _ _ _ (by omega), if_neg (by omega)]

/-- What is written is read back. -/
theorem bytesOf_putBytes (v : BitVec 1024) {off : Nat} (l : List Byte) (hin : off + l.length ≤ 128) : bytesOf (putBytes v off l) off l.length = l := by
  refine List.ext_getElem (bytesOf_length _ _ _) fun j hj hjl => ?_
  rw [show (bytesOf (putBytes v off l) off l.length)[j] = (putBytes v off l).extractLsb' (8 * (off + j)) 8 by simp [bytesOf]]
  refine BitVec.eq_of_getLsbD_eq fun b hb => ?_
  rw [BitVec.getLsbD_extractLsb', putBytes, getLsbD_setBits _ _ _ _ _ (by omega), if_pos (by omega), decide_eq_true hb, Bool.true_and,
    show 8 * (off + j) + b - 8 * off = 8 * j + b by omega, testBit_leNat l hjl hb]

/-! ## A table's other entries -/

theorem Map.get?_put_ne {α : Type} (m : Map α) {n n' : Nat} (a : α) (h : n' ≠ n) : (Map.put m n a).get? n' = m.get? n' := by
  induction m with
  | nil =>
    simp only [Map.put, Map.get?, if_neg h.symm]
    split <;> rfl
  | cons e r ih =>
    obtain ⟨k, v⟩ := e
    rw [Map.put]
    split
    case isTrue hlt =>
      rw [Map.get?, if_neg h.symm]
      split
      case isTrue hbelow => rw [Map.get?, if_neg (by omega), if_pos (by omega)]
      case isFalse => rfl
    case isFalse =>
      split
      case isTrue heq => subst heq; rw [Map.get?, Map.get?, if_neg h.symm, if_neg h.symm]
      case isFalse => rw [Map.get?, Map.get?, ih]

end Sys2Proof.Machine
end

section
/-! PROOFS. A translation finds the same place whatever the state holds beside segments, fences, cores and memory (R222, R223). -/

-- In order, so that the one-text compile stays within memory.
set_option Elab.async false

namespace Sys2Proof.Machine
open Sys2Proof

/-! ## A translation finds the same place whatever the rest of the state is -/

/-- The segments, the fences and the cores of every die are the same. -/
def State.sameMaps (s t : State) : Prop := ∀ d, (t.die d).segs = (s.die d).segs ∧ (t.die d).fenced = (s.die d).fenced ∧ (t.die d).cores = (s.die d).cores

theorem State.updDie_sameMaps (s : State) (d : DieId) {f : Die → Die} (hsegs : (f (s.die d)).segs = (s.die d).segs)
    (hfenced : (f (s.die d)).fenced = (s.die d).fenced) (hcores : (f (s.die d)).cores = (s.die d).cores) : s.sameMaps (s.updDie d f) := by
  intro x
  by_cases hx : x = d
  · subst hx; rw [State.updDie_die]; exact ⟨hsegs, hfenced, hcores⟩
  · rw [State.updDie_die_ne _ _ hx]; exact ⟨rfl, rfl, rfl⟩

theorem State.sampleMiss_sameMaps (s : State) (w : Who) (p : Place) : s.sameMaps (s.sampleMiss w p) := by
  unfold State.sampleMiss
  split
  · split
    · exact fun _ => ⟨rfl, rfl, rfl⟩
    · exact s.updDie_sameMaps _ rfl rfl rfl
  · exact fun _ => ⟨rfl, rfl, rfl⟩

section
variable {s t : State} (hm : s.sameMaps t)

section
include hm

theorem State.live_of_maps (d : DieId) : t.live d = s.live d := by
  obtain ⟨-, hfenced, -⟩ := hm d
  rw [State.live, hfenced, State.live]

theorem State.segOf_of_maps (d : DieId) (asn : BitVec 8) (va : Nat) : t.segOf d asn va = s.segOf d asn va := by
  obtain ⟨hsegs, -, -⟩ := hm d
  simp only [State.segOf, State.seg, hsegs]

theorem State.core_of_maps (d : DieId) (c : CoreId) : t.core d c = s.core d c := by
  obtain ⟨-, -, hcores⟩ := hm d
  simp only [State.core, hcores]

theorem State.xHit_of_maps (d : DieId) (c : Option CoreId) (asn : BitVec 8) (va : Nat) (pre : Option TlbEntry) :
    t.xHit d c asn va pre = s.xHit d c asn va pre := by
  simp only [State.xHit, State.tlbHit, State.core_of_maps hm]

theorem State.xUnbacked_of_maps (d : DieId) (asn : BitVec 8) (va : Nat) : t.xUnbacked d asn va = s.xUnbacked d asn va := by
  simp only [State.xUnbacked, State.segOf_of_maps hm, State.live_of_maps hm]

end

theorem State.pte_of_lines (hl : t.lines = s.lines) (a : Nat) : t.pte a = s.pte a := by
  simp only [State.pte, State.frameLine, State.masters_of_lines hl, State.backing_of_lines hl]

theorem State.walk_of_lines (hl : t.lines = s.lines) (o : Nat) (lp : Bool) (k table : Nat) : t.walk o lp k table = s.walk o lp k table := by
  induction k generalizing table with
  | zero => rfl
  | succ k ih => simp only [State.walk, State.pte_of_lines hl, ih]

theorem State.xFound_of_maps (hm : s.sameMaps t) (hl : t.lines = s.lines) (d : DieId) (c : Option CoreId) (asn : BitVec 8) (va : Nat)
    (pre : Option TlbEntry) : t.xFound d c asn va pre = s.xFound d c asn va pre := by
  simp only [State.xFound, State.xHit_of_maps hm, State.segOf_of_maps hm, State.walk_of_lines hl]

end

/-- A walk and a TLB entry fence no die. -/
theorem State.xWalked_live (s : State) (d : DieId) (c : Option CoreId) (asn : BitVec 8) (va : Nat) (pre : Option TlbEntry) (l : Leaf) (x : DieId) :
    (s.xWalked d c asn va pre l).live x = s.live x := by
  have hupd (t : State) (e : DieId) (f : Die → Die) (h : (f (t.die e)).fenced = (t.die e).fenced) : (t.updDie e f).live x = t.live x := by
    unfold State.live
    by_cases hx : x = e
    · subst hx; rw [State.updDie_die, h]
    · rw [State.updDie_die_ne _ _ hx]
  have hrow (t : State) (key : Nat) : (t.restampTable key).live x = t.live x := by
    unfold State.restampTable
    split
    · split
      · exact hupd _ _ _ rfl
      · rfl
    · rfl
  have hrows (none : Prop) {_ : Decidable none} (ls : List Nat) : (if none then ls.foldl State.restampTable s else s).live x = s.live x := by
    split
    · exact List.foldlRecOn (motive := fun t : State => t.live x = s.live x) ls _ rfl fun t ht key _ => (hrow t key).trans ht
    · rfl
  unfold State.xWalked
  dsimp only
  split
  · exact (hupd _ _ _ rfl).trans (hrows _ _)
  · exact hrows _ _

theorem State.xPlace_of_live {s t : State} (h : ∀ d, t.live d = s.live d) (e : BitVec 256) (va : Nat) (l : Leaf) : t.xPlace e va l = s.xPlace e va l := by
  simp only [State.xPlace, h]

theorem State.translate_of_maps {s t s1 : State} (hm : s.sameMaps t) (hl : t.lines = s.lines) {d : DieId} {c : Option CoreId} {asn : BitVec 8}
    {va n : Nat} {write : Bool} {pre : Option TlbEntry} {p : Place} (h : s.translate d c asn va n write pre = .ok (p, s1)) :
    ∃ t1, t.translate d c asn va n write pre = .ok (p, t1) := by
  have hplace (l : Leaf) : (t.xWalked d c asn va pre l).xPlace (s.segOf d asn va) va l = (s.xWalked d c asn va pre l).xPlace (s.segOf d asn va) va l :=
    State.xPlace_of_live (fun x => by rw [State.xWalked_live, State.xWalked_live, State.live_of_maps hm]) _ _ _
  rw [State.translate_eq] at h ⊢
  rw [State.segOf_of_maps hm, State.xUnbacked_of_maps hm, State.xFound_of_maps hm hl]
  split at h; · cases h
  next hseg =>
  rw [if_neg hseg]
  split at h; · cases h
  next hprot =>
  rw [if_neg hprot]
  split at h
  next hub => cases h; exact ⟨_, if_pos hub⟩
  next hub =>
  rw [if_neg hub]
  split at h
  next =>
    split at h
    next hk => cases h; exact ⟨_, if_pos hk⟩
    next => cases h
  next l ok _ =>
    split at h; · cases h
    next hcode =>
    rw [if_neg hcode]
    split at h; · cases h
    next hr =>
    rw [if_neg hr]
    split at h; · cases h
    next hw =>
    rw [if_neg hw, hplace]
    cases h
    exact ⟨_, rfl⟩

end Sys2Proof.Machine
end

section
/-! PROOFS. A store's piece in its line, and the completion of an access (R30-R33, R228, R232, R261). -/

-- In order, so that the one-text compile stays within memory.
set_option Elab.async false

namespace Sys2Proof.Machine
open Sys2Proof

/-! ## A write within a line -/

/-- The bytes of a line as die d sees them: its own copy of a SWM = 1 line, or the home. -/
def State.lineSeen (s : State) (d : DieId) (key : Nat) (home : DieId) (swm : Bool) : BitVec 1024 :=
  match (if swm && decide (d ≠ home) then (s.die d).copies.get? key else none) with
  | some c => c.data
  | none => (s.homeLine key).1

theorem State.readPlace_line (s : State) (d : DieId) (key off : Nat) (home : DieId) (swm p ub : Bool) (n : Nat) :
    (s.readPlace d (.line key off home swm p ub) n).1 = bytesOf (s.lineSeen d key home swm) off n := by
  simp only [State.readPlace, State.lineSeen]
  generalize (if (swm && decide (d ≠ home)) = true then (s.die d).copies.get? key else none) = c
  cases c <;> rfl

theorem State.evictFor_room {s : State} {d : DieId} (h : s.cacheFull d = false) : s.evictFor d = s := by
  rw [State.evictFor, h]; rfl

theorem State.makeRoom_room {s : State} {d : DieId} (h : s.cacheFull d = false) : s.makeRoom d = s := by
  unfold State.makeRoom
  rw [State.evictFor_room h]
  exact if_pos (by rw [h]; rfl)

theorem State.homeLine_getD (s : State) (key : Nat) (home : DieId) : ((s.masters.get? key).getD (s.newLine key home)).data = (s.homeLine key).1 := by
  unfold State.homeLine
  cases s.masters.get? key <;> rfl

/-- A line with bytes written at its home. -/
def State.lineWritten (s : State) (key off : Nat) (home : DieId) (data : List Byte) (poison : Bool) : Line :=
  let l := (s.masters.get? key).getD (s.newLine key home)
  { l with
    data := putBytes l.data off data, dirty := l.dirty ||| maskBytes off data.length
    poison := poison || (l.poison && decide (data.length < 128)) }

/-- A write at a line's home, which has room for it. -/
theorem State.masterWrite_room {s : State} {home : DieId} (h : s.cacheFull home = false) (key off : Nat) (data : List Byte) (poison : Bool) :
    s.masterWrite key off home data poison = { s with masters := s.masters.put key (s.lineWritten key off home data poison) } := by
  show s.enter key (s.lineWritten key off home data poison) = _
  unfold State.enter
  cases hm : s.masters.get? key with
  | some l => rfl
  | none =>
    have hhome : (s.lineWritten key off home data poison).home = home := by rw [State.lineWritten, hm]; rfl
    refine (if_neg (by simp)).trans ?_
    simp only [hhome, State.evictFor_room h, h, Bool.and_false, Bool.false_eq_true, if_false]

theorem State.lineWritten_data (s : State) (key off : Nat) (home : DieId) (data : List Byte) (poison : Bool) :
    (s.lineWritten key off home data poison).data = putBytes (s.homeLine key).1 off data :=
  congrArg (putBytes · off data) (s.homeLine_getD key home)

/-- A write of a SWM = 1 line from another die than its home, whose cache has room for a copy. -/
theorem State.copyWrite_room {s : State} {d home : DieId} (h : s.cacheFull d = false) (hd : d ≠ home) (asn : BitVec 8) (key off : Nat) (p ub : Bool)
    (data : List Byte) (poison : Bool) :
    ∃ n : Copy, s.writePlace d asn (.line key off home true p ub) data poison = s.updDie d (fun x => { x with copies := x.copies.put key n }) ∧
      n.data = putBytes (s.lineSeen d key home true) off data := by
  have hroom : (if ((s.die d).copies.get? key).isSome = true then s else s.makeRoom d) = s := by
    rw [State.makeRoom_room h, ite_self]
  unfold State.writePlace
  refine ⟨_, (if_pos (by simp [hd])).trans (by rw [hroom]), congrArg (putBytes · off data) ?_⟩
  simp only [State.lineSeen, hd, ne_eq, not_false_eq_true, decide_true, Bool.and_true, if_true]
  cases (s.die d).copies.get? key <;> rfl

theorem State.lineSeen_home {s : State} {d home : DieId} {swm : Bool} (h : ¬(swm = true ∧ d ≠ home)) (key : Nat) :
    s.lineSeen d key home swm = (s.homeLine key).1 := by
  unfold State.lineSeen
  rw [if_neg (by simpa using h)]

/-- A write changes no byte of another line, or outside the bytes written, and at home none where it goes to a copy. -/
def State.writesOnly (s t : State) (d : DieId) (key off n : Nat) (home : DieId) (swm : Bool) : Prop :=
  (∀ key' i, i < 128 → (key' ≠ key ∨ i < off ∨ off + n ≤ i ∨ (swm = true ∧ d ≠ home)) → t.lineByte key' i = s.lineByte key' i) ∧
    ∀ x key', x ≠ d ∨ key' ≠ key ∨ swm = false ∨ d = home → (t.die x).copies.get? key' = (s.die x).copies.get? key'

section
variable {s : State} {d home : DieId} {key off : Nat} {data : List Byte} (asn : BitVec 8) (p ub poison : Bool)

theorem State.writePlace_home {swm : Bool} (hat : ¬(swm = true ∧ d ≠ home)) (hfull : s.cacheFull home = false) :
    (s.writePlace d asn (.line key off home swm p ub) data poison).lineSeen d key home swm = putBytes (s.lineSeen d key home swm) off data ∧
      s.writesOnly (s.writePlace d asn (.line key off home swm p ub) data poison) d key off data.length home swm := by
  have hz : s.writePlace d asn (.line key off home swm p ub) data poison =
      { s with masters := s.masters.put key (s.lineWritten key off home data poison) } :=
    (if_neg (by simpa using hat)).trans (State.masterWrite_room hfull key off data poison)
  have hline : ({ s with masters := s.masters.put key (s.lineWritten key off home data poison) } : State).homeLine key =
      ((s.lineWritten key off home data poison).data, (s.lineWritten key off home data poison).poison) := by
    simp only [State.homeLine, Map.get?_put_same]
  rw [hz, State.lineSeen_home hat, State.lineSeen_home hat, hline, State.lineWritten_data]
  refine ⟨rfl, fun key' i hi hout => ?_, fun x key' _ => rfl⟩
  by_cases hkey : key' = key
  · subst hkey
    rw [State.lineByte, hline, State.lineWritten_data, State.lineByte, bytesOf_putBytes_ne _ _ hi]
    rcases hout with hne | hlo | hhi | hcopy
    · exact absurd rfl hne
    · exact .inl hlo
    · exact .inr hhi
    · exact absurd hcopy hat
  · simp only [State.lineByte, State.homeLine, Map.get?_put_ne _ _ hkey, State.backing]

theorem State.writePlace_copy (hd : d ≠ home) (hfull : s.cacheFull d = false) :
    (s.writePlace d asn (.line key off home true p ub) data poison).lineSeen d key home true = putBytes (s.lineSeen d key home true) off data ∧
      s.writesOnly (s.writePlace d asn (.line key off home true p ub) data poison) d key off data.length home true := by
  obtain ⟨n, hz, hn⟩ := State.copyWrite_room (s := s) hfull hd asn key off p ub data poison
  rw [hz]
  refine ⟨?_, fun key' i _ _ => rfl, fun x key' hx => ?_⟩
  · rw [← hn, State.lineSeen, if_pos (by simp [hd]), State.updDie_die]
    simp only [Map.get?_put_same]
  · by_cases hxd : x = d
    · subst hxd
      rw [State.updDie_die]
      rcases hx with hne | hkey | hswm | hhome
      · exact absurd rfl hne
      · exact Map.get?_put_ne _ _ hkey
      · exact absurd hswm (by decide)
      · exact absurd hhome hd
    · rw [State.updDie_die_ne _ _ hxd]

/-- A write within a line that finds room, at its home or in a copy. -/
theorem State.writePlace_room (swm : Bool) (hhome : s.cacheFull home = false) (hdie : s.cacheFull d = false) :
    (s.writePlace d asn (.line key off home swm p ub) data poison).lineSeen d key home swm = putBytes (s.lineSeen d key home swm) off data ∧
      s.writesOnly (s.writePlace d asn (.line key off home swm p ub) data poison) d key off data.length home swm := by
  by_cases hat : swm = true ∧ d ≠ home
  · obtain ⟨rfl, hd⟩ := hat
    exact State.writePlace_copy asn p ub poison hd hdie
  · exact State.writePlace_home asn p ub poison hat hhome

end

theorem State.lineSeen_of_lines {s t : State} (h : t.lines = s.lines) (d : DieId) (key : Nat) (home : DieId) (swm : Bool) :
    t.lineSeen d key home swm = s.lineSeen d key home swm := by
  simp only [State.lineSeen, State.homeLine_of_lines h, State.copies_of_lines h]

/-! ## Completion -/

theorem State.landEffs_lines (s : State) (w : Who) (id : Nat) (effs : List Eff) (h : effs.all streamEff = true) : (s.landEffs w id effs).lines = s.lines :=
  (State.lines_of_rest (State.landEffs_rest h)).trans (s.updStream_lines w _)

theorem Job.frame_of_rest {j y : Job} (h : y.rest = j.rest) : y.frame = j.frame := (Job.rest_frame y).symm.trans ((congrArg Job.frame h).trans (Job.rest_frame j))

/-- What follows the landing of a completing word's results is tokens sent, or TOKEN_OVER. -/
theorem State.complete_sameBut (s : State) (w : Who) (f : Flight) : (s.landEffs w f.id f.effs).sameBut (s.complete w f) := by
  unfold State.complete
  cases w with
  | sys d => exact State.updStream_sameBut (f := fun st => st.drop f.id) fun _ => rfl
  | eng d c k e =>
    dsimp only
    split
    next => exact .refl _
    next j _ =>
      split
      · exact (State.updStream_sameBut (f := fun st => st.updFlight f.id fun y => { y with effs := [] }) fun _ => rfl).trans
          (State.stopFlight_sameBut _ d c k e f _)
      · refine State.sameBut.trans ?_ (State.updStream_sameBut (f := fun st => st.drop f.id) fun _ => rfl)
        exact State.updJobOf_sameBut fun y => Job.frame_of_rest (Job.sendToks_rest y e _ _ _)

/-- A word without results that completes. -/
theorem State.complete_nothing_sameBut (s : State) (w : Who) {f : Flight} (h : f.effs = []) : s.sameBut (s.complete w f) := by
  refine State.sameBut.trans ?_ (s.complete_sameBut w f)
  rw [h]
  exact (State.updStream_sameBut (f := fun st => ([] : List Eff).foldl (Stream.applyEff (s.timeOf w)) st) fun _ => rfl).trans
    (State.sameBut_of_rest (State.landEffs_rest rfl))

theorem State.completeAccess_nothing_sameBut (s : State) (w : Who) {f : Flight} (h : f.effs = []) : s.sameBut (s.completeAccess w f) := by
  unfold State.completeAccess
  split
  · exact (State.updJobOf_sameBut fun j => j.touchBuf_frame _ _).trans (State.complete_nothing_sameBut _ w h)
  · exact s.complete_nothing_sameBut w h

end Sys2Proof.Machine
end

section
/-! PROOFS. The frame of STX and LDX (R228, R245, R249, R261, R269). -/

-- In order, so that the one-text compile stays within memory.
set_option Elab.async false

namespace Sys2Proof.Machine
open Sys2Proof

/-! ## STX -/

/-- A store's piece in a line with frames of its own: written there after what its translation leaves. -/
theorem State.storePiece_line {s s1 : State} {d : DieId} {c : Option CoreId} {who : Option (Nat × Nat)} {asn : BitVec 8} {va : Nat} {data : List Byte}
    {poison : Bool} {pre : Option TlbEntry} {key off : Nat} {home : DieId} {swm p : Bool}
    (h : s.translate d c asn va data.length true pre = .ok (.line key off home swm p false, s1)) :
    s.storePiece d c who asn va data poison pre =
      .ok (s1.writePlace d asn (.line key off home swm p false) data poison, .line key off home swm p false) := by
  simp only [State.storePiece, h]

/-- The bytes of a store, without marks. -/
def unmarked (data : List Byte) : List (Byte × Bool) := data.map fun b => (b, false)

theorem unmarked_bytes (data : List Byte) : (unmarked data).map (·.1) = data := by simp [unmarked, Function.comp_def]

theorem unmarked_clean (data : List Byte) : (unmarked data).any (·.2) = false := by simp [unmarked]

theorem unmarked_length (data : List Byte) : (unmarked data).length = data.length := List.length_map ..

/-- A write of one piece of a line with frames of its own: what its translation leaves, then the write, then the L1's line and the row. -/
theorem State.writePiece_line {s s1 : State} {w : Who} {va : Nat} {data : List Byte} {pre : Option TlbEntry} {key off : Nat} {home : DieId} {swm p : Bool}
    (id : Nat) (h : s.translate (whoDie w) (whoCore w) (s.asnOf w) va data.length true pre = .ok (.line key off home swm p false, s1)) :
    ∃ u t, s.sameBut u ∧ (u.writePlace (whoDie w) (s.asnOf w) (.line key off home swm p false) data false).sameBut t ∧
      s.writePiece w id va (unmarked data) pre = .ok t := by
  obtain ⟨u, hu⟩ := State.translate_of_maps (s.sampleMiss_sameMaps w (.line key off home swm p false)) (s.sampleMiss_lines w _) h
  have hmiss : s.sameBut (s.sampleMiss w (.line key off home swm p false)) := ⟨s.sampleMiss_frame w _, s.sampleMiss_lines w _⟩
  have hl1 (v : State) : v.sameBut (match whoL1 w with
      | some c => v.storeL1 (whoDie w) c (.line key off home swm p false) data false
      | none => v) := by
    split
    · exact ⟨State.storeL1_frame _ _ _ _ _ _, State.storeL1_lines _ _ _ _ _ _⟩
    · exact .refl v
  refine ⟨u, _, hmiss.trans (State.translate_sameBut hu), (hl1 _).trans ⟨State.touchRow_frame _ (whoDie w) (.line key off home swm p false), State.touchRow_lines _ _ _⟩, ?_⟩
  simp only [State.writePiece, unmarked_length, unmarked_bytes, unmarked_clean, h, State.storePiece_line hu] <;> rfl

/-- A store that stays within a line is one piece. -/
theorem State.writeVa_within_line {s t : State} {w : Who} {id va : Nat} {data : List Byte} {pre : Option TlbEntry} (hva : va < 2 ^ 64)
    (hn : 0 < data.length) (hin : va % 128 + data.length ≤ 128) (h : s.writePiece w id va (unmarked data) pre = .ok t) :
    s.writeVa w id va (unmarked data) pre = .ok t := by
  have hone : pieces va (unmarked data).length = [(va, data.length)] := by
    rw [unmarked_length, pieces_within_line hn hin, Nat.mod_eq_of_lt hva]
  have htake : (unmarked data).take data.length = unmarked data := List.take_of_length_le (Nat.le_of_eq (unmarked_length data))
  simp only [State.writeVa, hone, List.foldl_cons, List.foldl_nil, htake, h]
  rfl

/-- An aligned store of 1, 2, 4 or 8 bytes stays within its line. -/
theorem aligned_within_line {va n : Nat} (hn : n = 1 ∨ n = 2 ∨ n = 4 ∨ n = 8) (hal : va % n = 0) : va % 128 + n ≤ 128 := by
  rcases hn with rfl | rfl | rfl | rfl <;> omega

/-- A store that is performed completes: its line is written after what its translation leaves. -/
theorem stxStep_line {s s1 : State} {w : Who} {f : Flight} {va : Word} {data : List Byte} {key off : Nat} {home : DieId} {swm p : Bool}
    (hm : s.mayAccess w f [(va.toNat, data.length)] false = true) (heffs : f.effs = [])
    (hn : data.length = 1 ∨ data.length = 2 ∨ data.length = 4 ∨ data.length = 8) (hal : va.toNat % data.length = 0)
    (h : s.translate (whoDie w) (whoCore w) (s.asnOf w) va.toNat data.length true f.page = .ok (.line key off home swm p false, s1)) :
    ∃ u, s.sameBut u ∧ (u.writePlace (whoDie w) (s.asnOf w) (.line key off home swm p false) data false).sameBut (s.stxStep w f va data) := by
  obtain ⟨u, t, hu, ht, hpiece⟩ := State.writePiece_line f.id h
  have hva : s.writeVa w f.id va.toNat (data.map fun b => (b, false)) f.page = .ok t :=
    State.writeVa_within_line va.isLt (by omega) (aligned_within_line hn hal) hpiece
  refine ⟨u, hu, ht.trans ?_⟩
  have hstep : s.stxStep w f va data = ((t.progress w).updJobOf w fun j => j.moved (bufOf va.toNat) data.length).completeAccess w f := by
    simp only [State.stxStep, hm, Bool.not_true, Bool.false_eq_true, if_false, hva]
  rw [hstep]
  refine State.sameBut.trans ?_ (State.completeAccess_nothing_sameBut _ w heffs)
  exact (State.updJobOf_sameBut (f := fun j => { j with stall := 0 }) fun _ => rfl).trans (State.updJobOf_sameBut fun j => j.touchBuf_frame _ _)

/-- What a store's write leaves, where only what no access changes comes before and after it. -/
theorem State.store_views {s u t : State} {d home : DieId} {asn : BitVec 8} {key off : Nat} {data : List Byte} {swm p : Bool} (hu : s.sameBut u)
    (ht : (u.writePlace d asn (.line key off home swm p false) data false).sameBut t) (hin : off + data.length ≤ 128) (hhome : s.cacheFull home = false)
    (hdie : s.cacheFull d = false) :
    (t.readPlace d (.line key off home swm p false) data.length).1 = data ∧
      (∀ key' i, i < 128 → (key' ≠ key ∨ i < off ∨ off + data.length ≤ i ∨ (swm = true ∧ d ≠ home)) → t.lineByte key' i = s.lineByte key' i) ∧
      (∀ x key', x ≠ d ∨ key' ≠ key ∨ swm = false ∨ d = home → (t.die x).copies.get? key' = (s.die x).copies.get? key') ∧
      (∀ i, i < 128 → (i < off ∨ off + data.length ≤ i) →
        (t.readPlace d (.line key i home swm p false) 1).1 = (s.readPlace d (.line key i home swm p false) 1).1) ∧
      t.stores = s.stores ∧ ∀ w', t.regsOf w' = s.regsOf w' := by
  obtain ⟨huframe, hulines⟩ := hu
  obtain ⟨htframe, htlines⟩ := ht
  obtain ⟨hseen, hbytes, hcopies⟩ := State.writePlace_room (s := u) (off := off) (data := data) (key := key) asn p false false swm
    ((State.cacheFull_of_lines hulines home).trans hhome) ((State.cacheFull_of_lines hulines d).trans hdie)
  have htseen : t.lineSeen d key home swm = putBytes (s.lineSeen d key home swm) off data := by
    rw [State.lineSeen_of_lines htlines, hseen, State.lineSeen_of_lines hulines]
  have hframe : t.frame = s.frame := htframe.trans ((State.writePlace_frame _ _ _ _ _ _).trans huframe)
  refine ⟨?_, fun key' i hi hout => ?_, fun x key' hout => ?_, fun i hi hout => ?_, State.stores_of_frame hframe, State.regsOf_of_frame hframe⟩
  · rw [State.readPlace_line, htseen, bytesOf_putBytes _ _ hin]
  · rw [State.lineByte_of_lines htlines, hbytes key' i hi hout, State.lineByte_of_lines hulines]
  · rw [State.copies_of_lines htlines, hcopies x key' hout, State.copies_of_lines hulines]
  · rw [State.readPlace_line, State.readPlace_line, htseen, bytesOf_putBytes_ne _ _ hi hout]

/-- An offset in a page of a line's multiple of bytes keeps its place in the line. -/
theorem page_offset_mod (frame va m : Nat) : (frame * 4096 + va % 2 ^ 52 % (4096 * m)) % 128 = va % 128 := by
  have hpage : va % 2 ^ 52 % (4096 * m) % 128 = va % 2 ^ 52 % 128 := Nat.mod_mod_of_dvd _ ⟨32 * m, by omega⟩
  omega

theorem State.xPlace_offset {s : State} {e : BitVec 256} {va : Nat} {l : Leaf} {key off : Nat} {home : DieId} {swm p ub : Bool}
    (h : s.xPlace e va l = .line key off home swm p ub) : off = va % 128 := by
  unfold State.xPlace at h
  dsimp only at h
  rw [page_offset_mod] at h
  split at h
  · split at h <;> cases h; rfl
  split at h; · cases h
  split at h <;> cases h; rfl

/-- A translation's place of frames of its own keeps the address's place in its line. -/
theorem State.translate_offset {s s1 : State} {d : DieId} {c : Option CoreId} {asn : BitVec 8} {va n : Nat} {write : Bool} {pre : Option TlbEntry}
    {key off : Nat} {home : DieId} {swm p : Bool} (h : s.translate d c asn va n write pre = .ok (.line key off home swm p false, s1)) :
    off = va % 128 := by
  have hub : s.xUnbacked d asn va ≠ .line key off home swm p false := by
    unfold State.xUnbacked
    split <;> simp
  rw [State.translate_eq] at h
  split at h; · cases h
  split at h; · cases h
  split at h
  · exact absurd (congrArg Prod.fst (Except.ok.inj h)) hub
  split at h
  · split at h
    · exact absurd (congrArg Prod.fst (Except.ok.inj h)) hub
    · cases h
  · split at h; · cases h
    split at h; · cases h
    split at h; · cases h
    exact State.xPlace_offset (congrArg Prod.fst (Except.ok.inj h))

/-! ## LDX -/

/-- A read changes no byte, takes no copy away and leaves the frame. -/
def State.readsOnly (s t : State) : Prop :=
  (∀ key i, t.lineByte key i = s.lineByte key i) ∧
    (∀ x key v, (s.die x).copies.get? key = some v → (t.die x).copies.get? key = some v) ∧ t.frame = s.frame

theorem State.sameBut.readsOnly {s t : State} (h : s.sameBut t) : s.readsOnly t := by
  obtain ⟨hframe, hlines⟩ := h
  exact ⟨State.lineByte_of_lines hlines, fun x key v hv => by rw [State.copies_of_lines hlines, hv], hframe⟩

theorem State.readsOnly.trans {s t u : State} (h : s.readsOnly t) (h' : t.readsOnly u) : s.readsOnly u := by
  obtain ⟨hbyte, hcopy, hframe⟩ := h
  obtain ⟨hbyte', hcopy', hframe'⟩ := h'
  exact ⟨fun key i => (hbyte' key i).trans (hbyte key i), fun x key v hv => hcopy' x key v (hcopy x key v hv), hframe'.trans hframe⟩

/-- A read leaves a copy of its line behind, in a cache that has room for it. -/
theorem State.touchCopy_readsOnly {s : State} {d : DieId} (h : s.cacheFull d = false) (asn : BitVec 8) (p : Place) : s.readsOnly (s.touchCopy d asn p) := by
  refine ⟨fun key i => ?_, fun x key' v hv => ?_, s.touchCopy_frame d asn p⟩ <;> unfold State.touchCopy <;> rw [State.makeRoom_room h]
  · split
    · split; · rfl
      split; · rfl
      split <;> rfl
    · rfl
  · split
    next key _ home _ _ =>
      split; · exact hv
      split
      next => exact hv
      next hnone =>
        split; · exact hv
        dsimp only
        by_cases hx : x = d
        · subst hx
          rw [State.updDie_die]
          have hkey : key' ≠ key := by
            rintro rfl
            exact absurd (hv.symm.trans hnone) (by simp)
          exact (Map.get?_put_ne _ _ hkey).trans hv
        · rw [State.updDie_die_ne _ _ hx, hv]
    next => exact hv

theorem State.loadL1_readsOnly {s : State} {d : DieId} (h : s.cacheFull d = false) (c : CoreId) (asn : BitVec 8) (p : Place) (n : Nat) (fill : Bool) :
    s.readsOnly (s.loadL1 d c asn p n fill).2.2 := by
  unfold State.loadL1
  split; · exact (State.sameBut.refl s).readsOnly
  split; · exact (State.sameBut.refl s).readsOnly
  dsimp only
  split
  · exact (State.touchCopy_readsOnly h asn _).trans (State.sameBut.readsOnly ⟨State.l1Fill_frame _ _ _ _ _ _, State.updDie_lines rfl⟩)
  · exact State.touchCopy_readsOnly h asn _

/-- What a read of a piece leaves, whether it ends in bytes or in a stop. -/
def Moved.leaves {α : Type} (P : State → Prop) : Moved α → Prop
  | .ok _ t => P t
  | .wait => True
  | .stop _ t => P t

theorem State.sampleMiss_sameBut (s : State) (w : Who) (p : Place) : s.sameBut (s.sampleMiss w p) := ⟨s.sampleMiss_frame w p, s.sampleMiss_lines w p⟩

theorem State.touchRow_sameBut (s : State) (d : DieId) (p : Place) : s.sameBut (s.touchRow d p) := ⟨s.touchRow_frame d p, s.touchRow_lines d p⟩

/-- What A's load through its L1 leaves: a miss is sampled, and touches the line's row. -/
def State.loadedL1 (s : State) (w : Who) (c : CoreId) (asn : BitVec 8) (p : Place) (n : Nat) (fill hit : Bool) : State :=
  let r := (if hit then s else s.sampleMiss w p).loadL1 (whoDie w) c asn p n fill
  if hit then r.2.2 else r.2.2.touchRow (whoDie w) p

theorem State.loadedL1_readsOnly {s : State} (w : Who) (c : CoreId) (asn : BitVec 8) (p : Place) (n : Nat) (fill hit : Bool)
    (h : s.cacheFull (whoDie w) = false) : s.readsOnly (s.loadedL1 w c asn p n fill hit) := by
  cases hit with
  | true => exact State.loadL1_readsOnly h c asn p n fill
  | false =>
    have hmiss := s.sampleMiss_sameBut w p
    have hroom : (s.sampleMiss w p).cacheFull (whoDie w) = false := (State.cacheFull_of_lines (s.sampleMiss_lines w p) _).trans h
    exact (hmiss.readsOnly.trans (State.loadL1_readsOnly hroom c asn p n fill)).trans (State.touchRow_sameBut _ _ _).readsOnly

theorem State.readPiece_line_readsOnly {s s1 : State} {w : Who} {va n : Nat} {pre : Option TlbEntry} {key off : Nat} {home : DieId} {swm p ub : Bool}
    (h : s.translate (whoDie w) (whoCore w) (s.asnOf w) va n false pre = .ok (.line key off home swm p ub, s1)) (hfull : s.cacheFull (whoDie w) = false)
    (fill : Bool) (got : Option (List Byte)) : (s.readPiece w va n fill got pre).leaves s.readsOnly := by
  have hx := State.translate_sameBut h
  have hroom (t : State) (ht : s1.sameBut t) : t.cacheFull (whoDie w) = false := (State.cacheFull_of_lines (hx.trans ht).2 _).trans hfull
  simp only [State.readPiece, h]
  split
  · exact hx.readsOnly
  cases whoL1 w with
  | none =>
    have hmiss := s1.sampleMiss_sameBut w (.line key off home swm p ub)
    exact ((hx.trans hmiss).readsOnly.trans (State.touchCopy_readsOnly (hroom _ hmiss) _ _)).trans (State.touchRow_sameBut _ _ _).readsOnly
  | some c =>
    exact (hx.readsOnly.trans (State.loadedL1_readsOnly w c _ _ n fill _ (hroom s1 (.refl s1))))

/-- An access whose word ends with register results: its buffer idle, its results written. -/
theorem State.completeAccess_results {s : State} {d : DieId} {c : CoreId} {k : SlotId} {e : Engine} {f : Flight} (h : f.effs.all streamEff = true) :
    ∃ u, s.sameBut u ∧ (u.updStream (.eng d c k e) fun st => f.effs.foldl (Stream.applyEff (u.timeOf (.eng d c k e))) st).sameBut
      (s.completeAccess (.eng d c k e) f) := by
  have hdone (u : State) : (u.updStream (.eng d c k e) fun st => f.effs.foldl (Stream.applyEff (u.timeOf (.eng d c k e))) st).sameBut
      (u.complete (.eng d c k e) f) := (State.sameBut_of_rest (State.landEffs_rest h)).trans (u.complete_sameBut _ f)
  unfold State.completeAccess
  split
  next b _ => exact ⟨_, State.updJobOf_sameBut (f := fun j => j.idle b) fun j => j.touchBuf_frame _ _, hdone _⟩
  next => exact ⟨s, .refl s, hdone s⟩

/-- An LDX of a line leaves what a read leaves, but for its register when it ends. -/
theorem ldxStep_line {s s1 : State} {d : DieId} {c : CoreId} {k : SlotId} {e : Engine} {f : Flight} {va : Word} {size : BitVec 2} {sx : Bool} {r : BitVec 5}
    {key off : Nat} {home : DieId} {swm p ub : Bool} (got : Option (List Byte))
    (h : s.translate d (some c) (s.asnOf (.eng d c k e)) va.toNat (2 ^ size.toNat) false f.page = .ok (.line key off home swm p ub, s1))
    (hfull : s.cacheFull d = false) :
    s.readsOnly (s.ldxStep (.eng d c k e) f va size sx r got) ∨ ∃ u now v, s.readsOnly u ∧
      (u.updStream (.eng d c k e) fun st => st.applyEff now (.x r v)).sameBut (s.ldxStep (.eng d c k e) f va size sx r got) := by
  have hread := State.readPiece_line_readsOnly (w := .eng d c k e) h hfull (!f.waited) got
  have hstop (t : State) (st : Stop) (ht : s.readsOnly t) : s.readsOnly (t.stopFlight (.eng d c k e) f st) :=
    ht.trans (t.stopFlight_sameBut d c k e f st).readsOnly
  unfold State.ldxStep
  dsimp only
  split
  · exact .inl (State.sameBut.refl s).readsOnly
  split
  next => exact .inl (State.sameBut.refl s).readsOnly
  next st t heq => rw [heq] at hread; exact .inl (hstop t st hread)
  next l t heq =>
    rw [heq] at hread
    split
    · exact .inl (hstop t _ hread)
    · have hmoved : s.readsOnly ((t.sampleLoad (.eng d c k e) va.toNat).updJobOf (.eng d c k e) fun j => j.moved (bufOf va.toNat) (2 ^ size.toNat)) :=
        hread.trans (State.sameBut.readsOnly (State.sameBut.trans ⟨t.sampleLoad_frame _ _, t.sampleLoad_lines _ _⟩
          (State.updJobOf_sameBut fun j => j.touchBuf_frame _ _)))
      obtain ⟨u, hu, hdone⟩ := State.completeAccess_results (s := (t.sampleLoad (.eng d c k e) va.toNat).updJobOf (.eng d c k e) fun j =>
        j.moved (bufOf va.toNat) (2 ^ size.toNat)) (d := d) (c := c) (k := k) (e := e) (f := { f with effs := [.x r _] }) rfl
      exact .inr ⟨u, u.timeOf (.eng d c k e), _, hmoved.trans hu.readsOnly, hdone⟩

/-! ## The registers of another stream -/

theorem State.updStream_stores (s : State) (w : Who) (f : Stream → Stream) : (s.updStream w f).stores = s.stores := by
  cases w with
  | sys d => exact State.updDie_view rfl
  | eng d c k e =>
    unfold State.updStream
    dsimp only
    split
    · refine State.updDie_view (congrArg (fun v => (v, (s.die d).groves.map fun g => (g.sram, g.sramPoison, g.tqs))) (updAt_view fun y _ => ?_))
      cases y.job <;> rfl
    · rfl

theorem updAt_getElem?_ne {α : Type} {n : Nat} (v : Vector α n) {i k : Nat} (f : α → α) (h : k ≠ i) : (updAt v i f)[k]? = v[k]? := by
  by_cases hk : k < n
  · rw [Vector.getElem?_eq_getElem hk, Vector.getElem?_eq_getElem hk, updAt_getElem v i f k hk, if_neg (Ne.symm h)]
  · rw [Vector.getElem?_eq_none (by omega), Vector.getElem?_eq_none (by omega)]

theorem State.updJob_job?_ne (s : State) {d d' : DieId} {r r' : Nat} (f : Job → Job) (h : d' ≠ d ∨ r' ≠ r) :
    (s.updJob d r f).job? d' r' = s.job? d' r' := by
  unfold State.job? State.updJob
  by_cases hd : d' = d
  · subst hd
    rw [State.updDie_die]
    exact congrArg (fun y : Option Rec => y.bind fun x => x.job) (updAt_getElem?_ne _ _ (h.resolve_left (· rfl)))
  · rw [State.updDie_die_ne _ _ hd]

theorem Engine.idx_injective {e e' : Engine} (h : e.idx = e'.idx) : e = e' := by
  revert h
  cases e <;> cases e' <;> decide

/-- A change of one stream's registers is no other's. -/
theorem State.updStream_regsOf_apart {s : State} {d : DieId} {c : CoreId} {k : SlotId} {e : Engine} {w' : Who} (h : s.apart (.eng d c k e) w')
    (f : Stream → Stream) : (s.updStream (.eng d c k e) f).regsOf w' = s.regsOf w' := by
  cases hr : s.slotRec? d c k with
  | none => simp only [State.updStream, hr]
  | some r =>
    simp only [State.updStream, hr]
    cases w' with
    | sys x =>
      have hsys (g : Job → Job) : (s.updJob d r g).sysc x = s.sysc x := s.updDie_sysc d rfl x
      simp only [State.regsOf, State.stream?, hsys]
    | eng d' c' k' e' =>
      simp only [State.regsOf, State.stream?, State.slotJob?, State.updJob_slotRec?]
      cases hr' : s.slotRec? d' c' k' with
      | none => rfl
      | some r' =>
        simp only [Option.bind_some]
        by_cases hjob : d' = d ∧ r' = r
        · obtain ⟨rfl, rfl⟩ := hjob
          have he : e.idx ≠ e'.idx := by
            intro heq
            rcases h with hd | hslot | hne
            · exact hd rfl
            · exact hslot (hr.trans hr'.symm)
            · exact hne (Engine.idx_injective heq)
          rw [State.updJob_job?]
          cases s.job? d' r' with
          | none => rfl
          | some j =>
            have hidx : e.idx.val ≠ e'.idx.val := fun hv => he (Fin.ext hv)
            simp [hidx]
        · rw [State.updJob_job?_ne s _ (by rwa [Classical.not_and_iff_not_or_not] at hjob)]

theorem Stream.applyEff_x_regs (now : Nat) (st : Stream) (r : BitVec 5) (v : Word) : let u := st.applyEff now (.x r v)
    u.p = st.p ∧ u.b = st.b ∧ u.fstat = st.fstat ∧ u.rmode = st.rmode ∧ ∀ q : BitVec 5, q ≠ r → u.x[q.toNat]? = st.x[q.toNat]? := by
  refine ⟨?_, ?_, ?_, ?_, fun q hq => Stream.applyEff_x_ne now st v hq⟩ <;> (simp only [Stream.applyEff]; split <;> rfl)

/-! ## The obligation -/

theorem Stream.regs_eq_iff {st st' : Stream} : st'.regs = st.regs ↔
    st'.x = st.x ∧ st'.p = st.p ∧ st'.b = st.b ∧ st'.fstat = st.fstat ∧ st'.rmode = st.rmode := by
  simp only [Stream.regs, Prod.mk.injEq]

theorem State.apart_of_frame {s u : State} (h : u.frame = s.frame) {w w' : Who} (ha : s.apart w w') : u.apart w w' := by
  cases w <;> cases w' <;> simp only [State.apart, State.slotRec?_of_frame h] at ha ⊢ <;> exact ha

/-- An LDX's DATA_RETURN of an engine's stream: nothing, or its step. -/
theorem dataReturn_ldx_cases {s t : State} {w : Who} {id : Nat} {got : List Byte} {f : Flight} {va : Word} {size : BitVec 2} {sx : Bool} {r : BitVec 5}
    (hf : s.flight? w id = some f) (hw : f.work = .ldx va size sx r) (ht : exec (.dataReturn w id got) s = .next t) :
    t = s ∨ t = s.ldxStep w f va size sx r (some got) := by
  change execDataReturn w id got s = .next t at ht
  simp only [execDataReturn, hf, hw] at ht
  split at ht
  · exact .inl (Host.Outcome.next.inj ht).symm
  · exact .inr (Host.Outcome.next.inj ht).symm

/-- What a read leaves of every stream's registers, and with its register written. -/
theorem State.readsOnly.regs {s u t : State} {d : DieId} {c : CoreId} {k : SlotId} {e : Engine} {now : Nat} {r : BitVec 5} {v : Word} (hu : s.readsOnly u)
    (ht : (u.updStream (.eng d c k e) fun st => st.applyEff now (.x r v)).sameBut t) :
    (∀ key i, t.lineByte key i = s.lineByte key i) ∧
      (∀ x key v, (s.die x).copies.get? key = some v → (t.die x).copies.get? key = some v) ∧ t.stores = s.stores ∧
      (∀ w', s.apart (.eng d c k e) w' → t.regsOf w' = s.regsOf w') ∧
      ∀ st st', s.stream? (.eng d c k e) = some st → t.stream? (.eng d c k e) = some st' → st'.p = st.p ∧ st'.b = st.b ∧ st'.fstat = st.fstat ∧
        st'.rmode = st.rmode ∧ ∀ q : BitVec 5, q ≠ r → st'.x[q.toNat]? = st.x[q.toNat]? := by
  obtain ⟨hbyte, hcopy, hframe⟩ := hu
  obtain ⟨htframe, htlines⟩ := ht
  have hlines := htlines.trans (u.updStream_lines _ _)
  refine ⟨fun key i => (State.lineByte_of_lines hlines key i).trans (hbyte key i), fun x key y hy => ?_, ?_, fun w' ha => ?_, fun st st' hst hst' => ?_⟩
  · rw [State.copies_of_lines hlines]; exact hcopy x key y hy
  · exact (State.stores_of_frame htframe).trans ((u.updStream_stores _ _).trans (State.stores_of_frame hframe))
  · exact (State.regsOf_of_frame htframe w').trans ((State.updStream_regsOf_apart (State.apart_of_frame hframe ha) _).trans (State.regsOf_of_frame hframe w'))
  · have hregs : (u.stream? (.eng d c k e)).map Stream.regs = some st.regs := by
      have := State.regsOf_of_frame hframe (.eng d c k e)
      rw [State.regsOf, State.regsOf, hst] at this
      exact this
    obtain ⟨y, hy, hyst⟩ := Option.map_eq_some_iff.mp hregs
    have hwritten : (some st' : Option Stream).map Stream.regs = some (y.applyEff now (.x r v)).regs := by
      have := State.regsOf_of_frame htframe (.eng d c k e)
      rw [State.regsOf, State.regsOf, State.updStream_stream?, hst', hy] at this
      exact this
    obtain ⟨hx, hp, hb, hf, hm⟩ := Stream.regs_eq_iff.mp hyst
    obtain ⟨hx', hp', hb', hf', hm'⟩ := Stream.regs_eq_iff.mp (Option.some.inj hwritten)
    obtain ⟨hkp, hkb, hkf, hkm, hkx⟩ := Stream.applyEff_x_regs now y r v
    exact ⟨hp'.trans (hkp.trans hp), hb'.trans (hkb.trans hb), hf'.trans (hkf.trans hf), hm'.trans (hkm.trans hm), fun q hq => by rw [hx', hkx q hq, hx]⟩

/-- The same of a read that writes no register. -/
theorem State.readsOnly.regs_kept {s t : State} (h : s.readsOnly t) (w : Who) (r : BitVec 5) :
    (∀ key i, t.lineByte key i = s.lineByte key i) ∧
      (∀ x key v, (s.die x).copies.get? key = some v → (t.die x).copies.get? key = some v) ∧ t.stores = s.stores ∧
      (∀ w', s.apart w w' → t.regsOf w' = s.regsOf w') ∧
      ∀ st st', s.stream? w = some st → t.stream? w = some st' → st'.p = st.p ∧ st'.b = st.b ∧ st'.fstat = st.fstat ∧
        st'.rmode = st.rmode ∧ ∀ q : BitVec 5, q ≠ r → st'.x[q.toNat]? = st.x[q.toNat]? := by
  obtain ⟨hbyte, hcopy, hframe⟩ := h
  refine ⟨hbyte, hcopy, State.stores_of_frame hframe, fun w' _ => State.regsOf_of_frame hframe w', fun st st' hst hst' => ?_⟩
  have hregs := State.regsOf_of_frame hframe w
  rw [State.regsOf, State.regsOf, hst, hst'] at hregs
  obtain ⟨hx, hp, hb, hf, hm⟩ := Stream.regs_eq_iff.mp (Option.some.inj hregs)
  exact ⟨hp, hb, hf, hm, fun q _ => by rw [hx]⟩

/-- Settles O60: a store within a line of frames writes that line's bytes between steps that change neither memory nor the frame; a load reads, and
writes its register. -/
theorem storesAndLoadsTouchTheirBytesOnly : Obligations.StoresAndLoadsTouchTheirBytesOnly := by
  unfold Obligations.StoresAndLoadsTouchTheirBytesOnly
  refine ⟨?store, ?load⟩
  case store =>
    intro w id s f va data key off home swm p s1 hf hh hw heffs hord hmay hn hal htr hhome hdie
    obtain ⟨u, hu, ht⟩ := stxStep_line hmay heffs hn hal htr
    have hin : off + data.length ≤ 128 := by
      rw [State.translate_offset htr]; exact aligned_within_line hn hal
    exact ⟨_, writeAcknowledgement_stx hf hh hw hord, State.store_views hu ht hin hhome hdie⟩
  case load =>
    intro d c k e id got s f va size sx r key off home swm p ub s1 t w hf hw htr hfull ht
    obtain rfl | rfl := dataReturn_ldx_cases hf hw ht
    · exact (State.sameBut.refl t).readsOnly.regs_kept w r
    · rcases ldxStep_line (f := f) (sx := sx) (r := r) (some got) htr hfull with hread | ⟨u, now, v, hread, hdone⟩
      · exact hread.regs_kept w r
      · exact hread.regs hdone

end Sys2Proof.Machine
end

section
/-! PROOFS. A stream's writes leave the frame, or the package is reset by an event they raise (R210, R212, R223, R232-R240). -/

-- In order, so that the one-text compile stays within memory.
set_option Elab.async false

namespace Sys2Proof.Machine
open Sys2Proof

/-- The frame is left, or it is that of a package just reset. -/
def State.keepsFrame (s t : State) : Prop := t.frame = s.frame ∨ t.frame = State.reset.frame

theorem State.keepsFrame.of_eq {s t : State} (h : t.frame = s.frame) : s.keepsFrame t := .inl h

theorem State.keepsFrame.trans {s t u : State} (h : s.keepsFrame t) (h' : t.keepsFrame u) : s.keepsFrame u := by
  rcases h' with h' | h'
  · rcases h with h | h
    · exact .inl (h'.trans h)
    · exact .inr (h'.trans h)
  · exact .inr h'

/-! ## Events (R210, R212) -/

theorem State.packageReset_frame (s : State) (trip : Bool) : (s.packageReset trip).frame = State.reset.frame := by
  refine Vector.ext fun i hi => ?_
  simp only [State.frame, State.packageReset, State.reset, Die.frame, Vector.getElem_map, Vector.getElem_ofFn, Vector.getElem_replicate, Vector.map_ofFn,
    Function.comp_def, Fin.getElem_fin]
  congr 1
  exact Vector.ext fun g hg => by simp

theorem State.pushEvent_frame (s : State) (d : DieId) (ev : Word) : (s.pushEvent d ev).frame = s.frame := by
  refine State.updDie_frame ?_
  split <;> rfl

theorem State.offerEvent_frame (s : State) (d : DieId) (ev : Word) : (s.offerEvent d ev).1.frame = s.frame := by
  unfold State.offerEvent
  dsimp only
  split
  · exact (State.updDie_frame rfl).trans (s.pushEvent_frame d ev)
  · exact s.pushEvent_frame d ev

theorem State.sysEnter_frame (s : State) (d : DieId) (pc : Word) (st : Stop) : (s.sysEnter d pc st).frame = s.frame := State.updDie_frame rfl

theorem State.fence_frame (s : State) (d : DieId) : (s.fence d).frame = s.frame := by
  unfold State.fence
  exact State.updDie_frame (s := s) (f := fun x => { x with fenced := true }) rfl

/-- The master's event of a MACHINE_CHECK. -/
theorem State.machineCheck_keepsFrame (s : State) (d : DieId) : s.keepsFrame (s.machineCheck d) := by
  have hoffer (u : State) (ev : Word) : (u.offerEvent u.master ev).1.frame = u.frame := u.offerEvent_frame _ _
  have hhalt : (s.updDie d fun x => { x with noDispatch := true, sys := { x.sys with halted := true } }).frame = s.frame := State.updDie_frame rfl
  have hfence (u : State) (m : BitVec 6) (h : u.frame = s.frame) : (({ u with msix := m } : State).fence d).frame = s.frame := (State.fence_frame _ d).trans h
  unfold State.machineCheck
  dsimp only
  split
  · exact .inr (State.packageReset_frame _ _)
  · split
    · exact .of_eq ((State.sysEnter_frame _ _ _ _).trans (hfence _ _ ((hoffer _ _).trans hhalt)))
    · exact .of_eq (hfence _ _ ((hoffer _ _).trans hhalt))

theorem State.sysTrap_keepsFrame (s : State) (d : DieId) (pc : Word) (st : Stop) : s.keepsFrame (s.sysTrap d pc st) := by
  unfold State.sysTrap
  split
  · exact s.machineCheck_keepsFrame d
  · exact .of_eq (s.sysEnter_frame d pc st)

theorem State.queueEvent_keepsFrame (s : State) (d : DieId) (ev : Word) : s.keepsFrame (s.queueEvent d ev) := by
  have hoffer := State.keepsFrame.of_eq (s.offerEvent_frame d ev)
  unfold State.queueEvent
  dsimp only
  split
  · exact hoffer.trans (State.sysTrap_keepsFrame _ _ _ _)
  · exact hoffer

theorem State.notice_keepsFrame (s : State) (d : DieId) (c : Cause) (core : Nat) (handle : BitVec 32) : s.keepsFrame (s.notice d c core handle) :=
  s.queueEvent_keepsFrame d _

theorem State.goneOf_keepsFrame (s : State) (d : DieId) (r : Option Nat) (pkg : BitVec 13) (incarn : BitVec 16) (drop : Bool) :
    s.keepsFrame (s.goneOf d r pkg incarn drop) := by
  have hcount : (if drop then s.count d 0x040 1 else s).frame = s.frame := by
    split
    · exact s.count_frame _ _ _
    · rfl
  unfold State.goneOf
  dsimp only
  split
  · split
    · exact .of_eq hcount
    · exact (State.keepsFrame.of_eq ((State.updJob_frame (f := fun j => { j with gone := (pkg, incarn, drop) :: j.gone }) fun _ => rfl).trans hcount)).trans
        (State.notice_keepsFrame _ _ _ _ _)
  · exact (State.keepsFrame.of_eq hcount).trans (State.notice_keepsFrame _ _ _ _ _)

theorem State.gone_keepsFrame (s : State) (w : Who) (pkg : BitVec 13) (incarn : BitVec 16) (drop : Bool) : s.keepsFrame (s.gone w pkg incarn drop) :=
  s.goneOf_keepsFrame _ _ _ _ _

/-! ## Frames of memory (R232-R235) -/

theorem State.frameWrite_dies (s : State) (key off : Nat) (data : List Byte) (poison : Bool) : (s.frameWrite key off data poison).dies = s.dies := by
  unfold State.frameWrite
  dsimp only
  split
  · split
    · exact s.masterWrite_dies _ _ _ _ _
    · exact (State.masterWrite_dies _ _ _ _ _ _).trans (s.toBacking_dies _ _)
  · exact s.masterWrite_dies _ _ _ _ _

theorem State.physWrite_frame (s : State) (a : Nat) (data : List Byte) (poison : Bool) : (s.physWrite a data poison).frame = s.frame := by
  have hmoved (old t : State) (d : DieId) : (State.tailMoved old t d).frame = t.frame := by
    unfold State.tailMoved
    dsimp only
    split
    · exact State.updDie_frame rfl
    · rfl
  refine (hmoved _ _ _).trans ?_
  exact List.foldlRecOn (motive := fun m : State × List Byte => m.1.frame = s.frame) _ _ rfl fun m hm p _ =>
    (State.frame_of_dies (State.frameWrite_dies _ _ _ _ _)).trans hm

theorem State.uncharge_frame (s : State) (key : Nat) (l : Line) : (s.uncharge key l).frame = s.frame := by
  unfold State.uncharge
  split
  · exact State.updJob_frame fun _ => rfl
  · split
    · exact State.updDie_frame rfl
    · rfl

theorem State.frameLines_frame (s : State) (asn : BitVec 8) (b : BitVec 12) (o bytes phys : Nat) (home : DieId) :
    (s.frameLines asn b o bytes phys home).frame = s.frame := by
  unfold State.frameLines
  refine State.foldl_frame (fun t i => ?_) s
  dsimp only
  split
  next l _ =>
    refine Eq.trans ?_ (t.uncharge_frame (ubKey asn b ((o + 128 * i) / 128)) l)
    simp only [State.frame, Vector.map_map]
    rfl
  next => exact State.frame_of_dies (t.enter_dies _ _)

theorem State.keepsFrame.ite {s t u : State} {p : Prop} [Decidable p] (ht : s.keepsFrame t) (hu : s.keepsFrame u) : s.keepsFrame (if p then t else u) := by
  split
  · exact ht
  · exact hu

theorem State.lateNoted_frame (s : State) (d : DieId) : (s.updDie d fun x => { x with lateNoted := true }).frame = s.frame := State.updDie_frame rfl

/-- A frame's pool after one is taken: its head and count, with the notice of a low pool. -/
theorem State.taken_keepsFrame (s : State) (a b : Nat) (l m : List Byte) (p : State → Prop) [DecidablePred p] (d g : DieId) (cause : Cause) (core : Nat)
    (handle : BitVec 32) : s.keepsFrame (if p ((s.physWrite a l).physWrite b m) then
      (((s.physWrite a l).physWrite b m).updDie d fun x => { x with lateNoted := true }).notice g cause core handle else (s.physWrite a l).physWrite b m) := by
  have hwrites : s.keepsFrame ((s.physWrite a l).physWrite b m) := .of_eq ((State.physWrite_frame _ _ _ _).trans (State.physWrite_frame _ _ _ _))
  refine .ite (State.keepsFrame.trans ?_ (State.notice_keepsFrame _ _ _ _ _)) hwrites
  exact hwrites.trans (.of_eq (State.lateNoted_frame _ _))

theorem State.takeFrame_keepsFrame {s t : State} {d : DieId} {f : Nat} (h : s.takeFrame d = some (f, t)) : s.keepsFrame t := by
  unfold State.takeFrame at h
  extract_lets base ring size head tail low cnt at h
  split at h; · cases h
  next f2 h2 s1 left s2 hne =>
  have ht : s2 = t := congrArg Prod.snd (Option.some.inj h)
  rw [← ht]
  exact State.taken_keepsFrame s _ _ _ _ (fun u => left ≤ low ∧ (u.die d).lateNoted = false) _ _ _ _ _
/-- A page framed late, and its notice. -/
theorem State.framed_keepsFrame (s : State) (a : Nat) (leaf : List Byte) (asn : BitVec 8) (b : BitVec 12) (o n phys : Nat) (home g : DieId) (cause : Cause)
    (core : Nat) (handle : BitVec 32) : s.keepsFrame (((s.physWrite a leaf).frameLines asn b o n phys home).notice g cause core handle) :=
  (State.keepsFrame.of_eq ((State.frameLines_frame _ _ _ _ _ _ _).trans (State.physWrite_frame _ _ _ _))).trans (State.notice_keepsFrame _ _ _ _ _)

theorem State.lateFrame_keepsFrame {s t : State} {d : DieId} {asn : BitVec 8} {va : Nat} (h : s.lateFrame d asn va = .ok t) : s.keepsFrame t := by
  unfold State.lateFrame at h
  extract_lets b o e home at h
  generalize (if segHasRoot e then s.level4 o 5 (segRoot e) else none) = root at h
  generalize htake : s.takeFrame home = taken at h
  cases root with
  | none => cases h
  | some pa =>
    cases taken with
    | none => cases h
    | some q =>
      rw [← Except.ok.inj h]
      exact (State.takeFrame_keepsFrame htake).trans (State.framed_keepsFrame _ _ _ _ _ _ _ _ _ _ _ _ _)

end Sys2Proof.Machine
end

section
/-! PROOFS. A stream's write of memory leaves the frame, or an event it raises resets the package (R223, R232, R239, R240, R243, R331). -/

-- In order, so that the one-text compile stays within memory.
set_option Elab.async false

namespace Sys2Proof.Machine
open Sys2Proof

/-! ## A write of one line (R223, R232, R233) -/

theorem State.charge_frame (s : State) (d : DieId) (r : Nat) : (s.updJob d r fun j => { j with ubused := j.ubused + 1 }).frame = s.frame :=
  State.updJob_frame (f := fun j => { j with ubused := j.ubused + 1 }) fun _ => rfl

theorem State.standing_frame (s : State) (d : DieId) (asn : Nat) :
    (s.updDie d fun x => { x with standing := x.standing.put asn (x.standing.getD asn 0 + 1) }).frame = s.frame := State.updDie_frame rfl

theorem State.sharedFirst_frame (s : State) (who : Option (Nat × Nat)) (key : Nat) (l : Line) : (s.sharedFirst who key l).frame = s.frame := by
  unfold State.sharedFirst
  split
  · split
    · exact (State.charge_frame _ _ _).trans
        (State.updJob_frame (f := fun j => { j with ubused := j.ubused - 1 }) fun _ => rfl)
    · rfl
  · rfl

theorem State.ubForWrite_keepsFrame {s t : State} {d : DieId} {who : Option (Nat × Nat)} {asn : BitVec 8} {va key : Nat} {home : DieId}
    (h : s.ubForWrite d who asn va key home = .ok t) : s.keepsFrame t := by
  unfold State.ubForWrite at h
  split at h
  · split at h; · cases h
    rw [← Except.ok.inj h]
    exact .of_eq (State.sharedFirst_frame _ _ _ _)
  · extract_lets e s1 born s2 at h
    split at h
    · rw [← Except.ok.inj h]
      have hroom : s2.frame = s.frame := s.makeRoom_frame home
      refine .of_eq (Eq.trans ?_ hroom)
      cases who with
      | none => exact State.standing_frame _ _ _
      | some o => exact State.charge_frame _ _ _
    · split at h
      · exact State.lateFrame_keepsFrame h
      · cases h

theorem State.storePiece_keepsFrame {s t : State} {d : DieId} {c : Option CoreId} {who : Option (Nat × Nat)} {asn : BitVec 8} {va : Nat}
    {data : List Byte} {poison : Bool} {pre : Option TlbEntry} {p : Place} (h : s.storePiece d c who asn va data poison pre = .ok (t, p)) : s.keepsFrame t := by
  have hwrite {u : State} (q : Place) (hu : s.keepsFrame u) : s.keepsFrame (u.writePlace d asn q data poison) := hu.trans (.of_eq (State.writePlace_frame _ _ _ _ _ _))
  unfold State.storePiece at h
  split at h; · cases h
  next htrans =>
  have hfirst : s.keepsFrame _ := .of_eq (State.translate_sameBut htrans).1
  split at h
  · split at h; · cases h
    next hub =>
    split at h; · cases h
    next hagain =>
    obtain ⟨rfl, rfl⟩ := Prod.mk.inj (Except.ok.inj h)
    exact hwrite _ ((hfirst.trans (State.ubForWrite_keepsFrame hub)).trans (.of_eq (State.translate_sameBut hagain).1))
  · obtain ⟨rfl, rfl⟩ := Prod.mk.inj (Except.ok.inj h)
    exact hwrite _ hfirst

/-! ## A packet out (R364, R365, R406) -/

theorem State.leave_frame (s : State) (d : DieId) (p : Fin 16) (k : Nat) (pkg : BitVec 13) (adp : Bool) (q : Packet) : (s.leave d p k pkg adp q).frame = s.frame := by
  unfold State.leave
  extract_lets g i rate behind start cost s1
  have hbusy : s1.frame = s.frame := by
    unfold s1
    split
    · rfl
    · exact State.updDie_frame (s := s) (f := fun x => { x with egressBusy := x.egressBusy.put i (max start s.time + cost) }) rfl
  split
  · exact hbusy
  · exact hbusy

theorem State.egress_frame {s t : State} {d : DieId} {pkg : BitVec 13} {pksel : Nat} {adp message : Bool} {incarn : BitVec 16} {body : PacketBody}
    (h : s.egress d pkg pksel adp message incarn body = .ok t) : t.frame = s.frame := by
  unfold State.egress at h
  split at h; · cases h
  split at h; · cases h
  extract_lets k q at h
  split at h; · cases h
  rw [← Except.ok.inj h]
  exact (State.count_frame _ _ _ _).trans (State.leave_frame _ _ _ _ _ _ _)

theorem State.sendOut_frame (s : State) (d : DieId) (r : Nat) (wid : WriteId) (pkg : BitVec 13) (incarn : BitVec 16) (ord write : Bool) (app : Option Appended) :
    (s.sendOut d r wid pkg incarn ord write app).frame = s.frame := rfl

/-! ## A stream's write (R239, R240, R243) -/

theorem State.writePiece_keepsFrame {s t : State} {w : Who} {id va : Nat} {l : List (Byte × Bool)} {pre : Option TlbEntry}
    (h : s.writePiece w id va l pre = .ok t) : s.keepsFrame t := by
  unfold State.writePiece at h
  extract_lets d asn data poison r at h
  have hl1 {u : State} (q : Place) (hu : s.keepsFrame u) : s.keepsFrame (match whoL1 w with
      | some c => u.storeL1 d c q data poison
      | none => u) := by
    split
    · exact hu.trans (.of_eq (State.storeL1_frame _ _ _ _ _ _))
    · exact hu
  split at h
  · cases h
  next htrans =>
    rw [← Except.ok.inj h]
    exact (State.keepsFrame.of_eq (State.translate_sameBut htrans).1).trans (State.gone_keepsFrame _ _ _ _ _)
  next htrans =>
    have hfirst : s.keepsFrame _ := .of_eq (State.translate_sameBut htrans).1
    split at h
    · rw [← Except.ok.inj h]
      exact hfirst.trans (State.gone_keepsFrame _ _ _ _ _)
    · split at h
      · cases h
      · rw [← Except.ok.inj h]
        exact hfirst.trans (State.gone_keepsFrame _ _ _ _ _)
      next hout =>
        rw [← Except.ok.inj h]
        exact hl1 _ (hfirst.trans (.of_eq ((State.sendOut_frame _ _ _ _ _ _ _ _ _).trans (State.egress_frame hout))))
  next =>
    split at h
    · cases h
    next hstore =>
      rw [← Except.ok.inj h]
      exact (hl1 _ ((State.keepsFrame.of_eq (State.sampleMiss_frame _ _ _)).trans (State.storePiece_keepsFrame hstore))).trans (.of_eq (State.touchRow_frame _ _ _))

theorem State.writeVa_keepsFrame {s t : State} {w : Who} {id va : Nat} {l : List (Byte × Bool)} {pre : Option TlbEntry}
    (h : s.writeVa w id va l pre = .ok t) : s.keepsFrame t := by
  unfold State.writeVa at h
  generalize hfold : List.foldl _ _ _ = moved at h
  cases moved with
  | error e => cases h
  | ok q =>
  obtain rfl := Except.ok.inj h
  refine List.foldlRecOn (motive := fun m : Except (Stop × State) (State × List (Byte × Bool)) => ∀ q, m = .ok q → s.keepsFrame q.1) _ _ ?_ ?_ _ hfold
  · rintro q ⟨⟩
    exact .inl rfl
  · intro m hm p _ q hq
    split at hq
    · split at hq
      next hpiece =>
        obtain rfl := Except.ok.inj hq
        exact (hm _ rfl).trans (State.writePiece_keepsFrame hpiece)
      · cases hq
    · cases hq

theorem State.writeCtl_keepsFrame {s t : State} {w : Who} {k : Nat} {va ctl : Word} (h : s.writeCtl w k va ctl = .ok t) : s.keepsFrame t := by
  unfold State.writeCtl at h
  generalize hm : s.writeVa _ _ _ _ = m at h
  cases m with
  | error e => cases h
  | ok u =>
    obtain rfl := Except.ok.inj h
    exact (State.writeVa_keepsFrame hm).trans (.of_eq (State.updJobOf_frame (f := fun j => j.moved (bufOf va.toNat) 8) fun j => j.touchBuf_frame _ _))

/-! ## What the frame says of a job's channels (R326) -/

theorem State.reset_slotJob? (d : DieId) (c : CoreId) (k : SlotId) : State.reset.slotJob? d c k = none := by
  have hslot : State.reset.slotRec? d c k = none := by
    unfold State.slotRec? State.core
    rw [State.reset_die]
    simp
  rw [State.slotJob?, hslot]
  rfl

/-- The job still in a slot has the channels it had. -/
theorem State.keepsFrame.chans {s t : State} (h : s.keepsFrame t) {d : DieId} {c : CoreId} {k : SlotId} {i j : Job}
    (hs : s.slotJob? d c k = some i) (ht : t.slotJob? d c k = some j) : j.chans = i.chans := by
  have hjob (u : State) (hu : t.frame = u.frame) : (u.slotJob? d c k).map Job.frame = some j.frame := by
    rw [← State.slotJob?_of_frame hu, ht]; rfl
  rcases h with h | h
  · have hframe := hjob s h
    rw [hs] at hframe
    exact (congrArg JobFrame.chans (Option.some.inj hframe)).symm
  · have hframe := hjob State.reset h
    rw [State.reset_slotJob?] at hframe
    cases hframe

/-- A change of a record's job is what it makes of that job. -/
theorem State.updJob_congr {s : State} {d : DieId} {r : Nat} {f g : Job → Job} (h : ∀ j, s.job? d r = some j → f j = g j) : s.updJob d r f = s.updJob d r g := by
  have hrecs : updAt (s.die d).recs r (fun y => { y with job := y.job.map f }) = updAt (s.die d).recs r (fun y => { y with job := y.job.map g }) := by
    unfold updAt
    split
    next y hy =>
      have hjob : s.job? d r = y.job := congrArg (·.bind (·.job)) hy
      dsimp only
      rw [Option.map_congr fun j hj => h j (hjob.trans hj)]
    next => rfl
  exact congrArg (fun v => s.updDie d fun x => { x with recs := v }) hrecs

theorem State.updJobOf_congr {s : State} {d : DieId} {c : CoreId} {k : SlotId} {e : Engine} {f g : Job → Job}
    (h : ∀ j, s.slotJob? d c k = some j → f j = g j) : s.updJobOf (.eng d c k e) f = s.updJobOf (.eng d c k e) g := by
  unfold State.updJobOf
  unfold State.slotJob? at h
  dsimp only
  cases hr : s.slotRec? d c k with
  | none => rfl
  | some r =>
    rw [hr] at h
    exact State.updJob_congr h

end Sys2Proof.Machine
end

section
/-! PROOFS. The machine's steps of copy channels, of chains and of tile-queue waits (R316, R317, R326-R332, R439). -/

-- In order, so that the one-text compile stays within memory.
set_option Elab.async false

namespace Sys2Proof.Machine
open Sys2Proof

/-- What a record's end asks of a counter leaves the frame. -/
theorem State.decs_frame (s : State) (d : DieId) (p : Bool) (q : DecReq) : (if p then s.updDie d fun y => { y with decs := y.decs ++ [q] } else s).frame = s.frame := by
  split
  · exact State.updDie_frame (s := s) (f := fun y => { y with decs := y.decs ++ [q] }) rfl
  · rfl

theorem State.tStream_slotJob? {s : State} {d : DieId} {c : CoreId} {k : SlotId} {w : Who} {j : Job} (h : s.tStream d c k = some (w, j)) :
    s.slotJob? d c k = some j := by
  unfold State.tStream at h
  split at h
  next i hi =>
    split at h
    · obtain ⟨_, rfl⟩ := Prod.mk.inj (Option.some.inj h)
      exact hi
    · cases h
  next => cases h

/-- Settles O35: each step is enabled, and its outcome is the model's under the statement's conditions; a record's end reads its next record from the
job as it was, which the write of its status leaves with the channels it had. -/
theorem channelStepsMoveTransfers : Obligations.ChannelStepsMoveTransfers := by
  unfold Obligations.ChannelStepsMoveTransfers
  refine ⟨?accept, ?granule, ?chainEnd, ?record, ?recordDone, ?delivery, ?tqin, ?tqout⟩
  case accept =>
    intro d c k s j f ch x us t ht hf hw hl hb hr
    show execChannelAccept d c k s = _
    simp only [execChannelAccept, ht]
    split
    next hn => exact absurd (hn.symm.trans hf) (by simp)
    next g hg =>
      obtain rfl : g = f := Option.some.inj (hg.symm.trans hf)
      simp only [hw, hb, hr, decide_eq_false (Nat.not_le.mpr hl), Bool.or_self, Bool.false_eq_true, if_false]
  case granule =>
    intro d c k ch got s j x rest t fl pois ht hx hst w off n ho hfl hord hcov hcomp hwait hm t' x' u
    show execChannelGranule d c k ch got s = _
    have hgo : ((x.dataBufs.any fun b => s.ordHeld w b) || x.cov.any j.outstanding ||
        (xsComp x.spec == 0 && s.rangesWait w false (x.lines off n))) = false := by
      rw [hord, hcov, hwait, Bool.and_false]; rfl
    simp only [execChannelGranule, ht, hx, hst]
    rw [if_neg (Nat.not_le.mpr ho), if_neg (not_not_intro hfl), if_neg (ne_true_of_eq_false hgo), if_pos hcomp, hm]
  case chainEnd =>
    intro d c k ch got s j ht hv hst hrun
    show execRecordRun d c k ch got s = _
    simp only [execRecordRun, ht, hv, hst, hrun, Bool.false_eq_true, if_false, if_true]
  case record =>
    intro d c k ch got s j va l t us v ht hv hst hrun himg hva hheld hcov hwait hread hl img x u hown hbad hbufs hdirs
    show execRecordRun d c k ch got s = _
    have hrec : s.readRecord (.eng d c k .t) ch.val (j.chan ch.val) va got = .ok (some (img, false), u) := by
      simp only [State.readRecord, himg, ne_eq, not_true_eq_false, if_false, hread, hl]
      rfl
    simp only [execRecordRun, ht, hv, hst, hrun, hva, hheld, hcov, hwait, hrec, hown, Bool.not_true, Bool.or_self, Bool.false_eq_true, if_false]
    rw [show recXfer img (j.streams[(2 : Fin 5)]).rmode va = x from rfl, hbad]
    simp only [hbufs, hdirs, Bool.false_eq_true, if_false]
  case recordDone =>
    intro d c k ch s j x va t ht hx hv hrun hst hwp hord hwait ctl hw u
    show execRecordDone d c k ch s = _
    have hnext (y : Job) (hy : u.slotJob? d c k = some y) : recNext (j.chan ch.val).image = recNext (y.chan ch.val).image := by
      have hu : s.keepsFrame u := (State.writeCtl_keepsFrame hw).trans (.of_eq (State.decs_frame t d _ _))
      rw [Job.chan, Job.chan, hu.chans (State.tStream_slotJob? ht) hy]
    have hjob := State.updJobOf_congr (e := .t) (f := fun y => (y.letGo x).updChan ch.val fun q =>
        { q with xfers := [], running := false, image := [], recVa := some (recNext (j.chan ch.val).image) })
      (g := fun y => (y.letGo x).updChan ch.val fun q =>
        { q with xfers := [], running := false, image := [], recVa := some (recNext (y.chan ch.val).image) }) fun y hy => by rw [hnext y hy]
    have hwrite : s.writeCtl (.eng d c k .t) ch.val va (recStatus (recCtl (j.chan ch.val).image) false 0 x.total) = .ok t := hw
    simp only [execRecordDone, ht, hx, hv, hrun, hst, hord, hwait, Bool.not_true, bne_self_eq_false, decide_eq_false (Nat.not_lt.mpr hwp), Bool.or_self,
      Bool.false_eq_true, if_false, hwrite]
    exact congrArg (fun v => Host.Outcome.next (v.tFlags (.eng d c k .t) x.flags)) hjob
  case delivery =>
    intro d r s j c k st rest hj hhome hp hi hl he hn
    show execStopDelivery d r s = _
    simp only [execStopDelivery, hj, hhome, hp, hi, hl, Job.tWaiting, hn, List.find?_nil, he, Bool.not_true, Bool.or_self, Bool.false_eq_true, if_false, if_true]
    rfl
  case tqin =>
    intro d c k s j f q t o e ht hf hw w s0 hh hue htag hpoi
    show execTqWaitEnd d c k s = _
    simp only [execTqWaitEnd, ht]
    split
    next hn => exact absurd (hn.symm.trans hf) (by simp)
    next g hg =>
      obtain rfl : g = f := Option.some.inj (hg.symm.trans hf)
      simp only [hw]
      have hhead : ({ s with cur := .eng d c k .t } : State).tqHead (qName q) (s.timeOf (.eng d c k .t)) = some e := hh
      simp only [hhead, hue, htag, hpoi, Bool.false_eq_true, if_false, ne_eq, not_true_eq_false]
      rw [if_neg (by simp)]
  case tqout =>
    intro d c k s j f q t o ht hf hw w s0 hr ha
    show execTqWaitEnd d c k s = _
    simp only [execTqWaitEnd, ht]
    split
    next hn => exact absurd (hn.symm.trans hf) (by simp)
    next g hg =>
      obtain rfl : g = f := Option.some.inj (hg.symm.trans hf)
      simp only [hw]
      have hroom : ({ s with cur := .eng d c k .t } : State).tqRoom (qName q) = true := hr
      have hacq : s.acquired (.eng d c k .t) g = true := ha
      simp only [hroom, hacq, Bool.not_true, Bool.or_self, Bool.false_eq_true, if_false]
      rfl

end Sys2Proof.Machine
end
